-- ==== Sys2Proof/Word.lean ====
section
/-!
DEFINITION. The word types and the plain data types that instructions, events and the state share.
-/

namespace Sys2Proof

/-- An instruction word (R75). -/
abbrev Word := BitVec 32

/-- A byte of memory or of a store. -/
abbrev Byte := BitVec 8

/-- A general register, address or CSR value (R14, R26). -/
abbrev Dword := BitVec 64

/-- The sticky flags NV, DZ, OF, UF, NX in the bit order of R27. -/
abbrev Flags := BitVec 5

/-- A sequence of equal-width elements as runs `(length, value)`: a vector register is one of
6144 lanes. The canonical form (`Runs.wf`) has no empty run and no two equal neighbours. -/
abbrev Runs (α : Type) := List (Nat × α)

/-- A sparse table from a numeric key to a value, keys strictly rising. -/
abbrev Sparse (α : Type) := List (Nat × α)

end Sys2Proof
end

