-- ==== Sys2Proof/Syntax.lean ====
section
/-!
DEFINITION. The abstract syntax: the header of a word (R75-R79), the small code sets of the
operand fields (R80-R86) and `Instr`, one constructor per row of spec/opcode_table.json.
-/

namespace Sys2Proof

/-- The four clusters, coded C = 0, L = 1, X = 2, W = 3 (R12). -/
inductive Cl where
  | c | l | x | w
  deriving DecidableEq, Repr

/-- The code of a cluster in records (R12). -/
def Cl.code : Cl → Nat
  | .c => 0 | .l => 1 | .x => 2 | .w => 3

/-- The link nibble of a word (R77): waits on the previous and next ring counter, gives into them. -/
structure Link where
  wp : Bool
  wn : Bool
  gp : Bool
  gn : Bool
  deriving DecidableEq, Repr

/-- The header of a word (R75): the sync bit, the link nibble and, in X, the idle count. -/
structure Header where
  sync : Bool
  link : Link
  ic   : Fin 8
  deriving DecidableEq, Repr

/-- Access sizes of scalar loads (R84). -/
inductive LdSize where
  | b | h | w | d | bs | hs | ws
  deriving DecidableEq, Repr

/-- The `lvl` code of a load size (R84). -/
def LdSize.code : LdSize → Nat
  | .b => 0 | .h => 1 | .w => 2 | .d => 3 | .bs => 4 | .hs => 5 | .ws => 6

/-- Reading a load size; 7 is reserved (R84). -/
def LdSize.ofCode : Nat → Option LdSize
  | 0 => some .b | 1 => some .h | 2 => some .w | 3 => some .d
  | 4 => some .bs | 5 => some .hs | 6 => some .ws | _ => none

/-- Access sizes of scalar stores and fill patterns (R84, R85). -/
inductive StSize where
  | b | h | w | d
  deriving DecidableEq, Repr

/-- The code of a store size (R85). -/
def StSize.code : StSize → Nat
  | .b => 0 | .h => 1 | .w => 2 | .d => 3

/-- Reading a store size (R85). -/
def StSize.ofCode : Nat → Option StSize
  | 0 => some .b | 1 => some .h | 2 => some .w | 3 => some .d | _ => none

/-- Scopes of LDACQ, STREL and FENCE (R84). -/
inductive Scope where
  | core | group | zenith | package | system
  deriving DecidableEq, Repr

/-- The `lvl` code of a scope (R84). -/
def Scope.code : Scope → Nat
  | .core => 0 | .group => 1 | .zenith => 2 | .package => 3 | .system => 4

/-- Reading a scope; 5 to 7 are reserved (R84). -/
def Scope.ofCode : Nat → Option Scope
  | 0 => some .core | 1 => some .group | 2 => some .zenith
  | 3 => some .package | 4 => some .system | _ => none

/-- Levels of a cache maintenance operation (R85). -/
inductive CmoLevel where
  | rdc | home | mem
  deriving DecidableEq, Repr

/-- The `lvl` code of a CMO level (R85). -/
def CmoLevel.code : CmoLevel → Nat
  | .rdc => 0 | .home => 1 | .mem => 2

/-- Reading a CMO level; 3 to 7 are reserved (R85). -/
def CmoLevel.ofCode : Nat → Option CmoLevel
  | 0 => some .rdc | 1 => some .home | 2 => some .mem | _ => none

/-- The instructions and events of the machine: one constructor per row of the opcode table.
The first 223 are words a cluster issues (fields other than the header); the rest are events. -/
inductive Instr where
  -- common words of C, L and W (R82)
  | nop
  | loop (lv : Fin 2) (pf : Bool) (gc : Fin 64) (len : BitVec 12)
  | lbreak (lv : Fin 2) (gc : Fin 64)
  | lbreakA (lv : Fin 2)
  | waitk (k : Fin 64)
  -- common words of X (R82)
  | nopX
  | loopX (lv : Fin 2) (pf : Bool) (gc : Fin 16) (ns : Fin 8) (len : BitVec 9)
  | lbreakX (lv : Fin 2) (gc : Fin 16)
  | lbreakAX (lv : Fin 2)
  | waitkX (k : Fin 64)
  -- C words (R83)
  | add (d : Fin 64) (a : Fin 64) (b : Fin 64)
  | sub (d : Fin 64) (a : Fin 64) (b : Fin 64)
  | and (d : Fin 64) (a : Fin 64) (b : Fin 64)
  | or (d : Fin 64) (a : Fin 64) (b : Fin 64)
  | xor (d : Fin 64) (a : Fin 64) (b : Fin 64)
  | andn (d : Fin 64) (a : Fin 64) (b : Fin 64)
  | shl (d : Fin 64) (a : Fin 64) (b : Fin 64)
  | shr (d : Fin 64) (a : Fin 64) (b : Fin 64)
  | sha (d : Fin 64) (a : Fin 64) (b : Fin 64)
  | rol (d : Fin 64) (a : Fin 64) (b : Fin 64)
  | min (d : Fin 64) (a : Fin 64) (b : Fin 64)
  | max (d : Fin 64) (a : Fin 64) (b : Fin 64)
  | minn (d : Fin 64) (a : Fin 64) (b : Fin 64)
  | maxn (d : Fin 64) (a : Fin 64) (b : Fin 64)
  | mul (d : Fin 64) (a : Fin 64) (b : Fin 64)
  | mulh (d : Fin 64) (a : Fin 64) (b : Fin 64)
  | mulhn (d : Fin 64) (a : Fin 64) (b : Fin 64)
  | div (d : Fin 64) (a : Fin 64) (b : Fin 64)
  | divn (d : Fin 64) (a : Fin 64) (b : Fin 64)
  | rem (d : Fin 64) (a : Fin 64) (b : Fin 64)
  | remn (d : Fin 64) (a : Fin 64) (b : Fin 64)
  | clz (d : Fin 64) (a : Fin 64)
  | ctz (d : Fin 64) (a : Fin 64)
  | popc (d : Fin 64) (a : Fin 64)
  | sext (d : Fin 64) (a : Fin 64) (b : Fin 64)
  | zext (d : Fin 64) (a : Fin 64) (b : Fin 64)
  | addsh (d : Fin 64) (a : Fin 64) (b : Fin 64)
  | sel (d : Fin 64) (a : Fin 64) (b : Fin 64)
  | addi (d : Fin 64) (a : Fin 64) (imm : BitVec 9)
  | andi (d : Fin 64) (a : Fin 64) (imm : BitVec 9)
  | ori (d : Fin 64) (a : Fin 64) (imm : BitVec 9)
  | xori (d : Fin 64) (a : Fin 64) (imm : BitVec 9)
  | shli (d : Fin 64) (a : Fin 64) (imm : BitVec 6)
  | shri (d : Fin 64) (a : Fin 64) (imm : BitVec 6)
  | shai (d : Fin 64) (a : Fin 64) (imm : BitVec 6)
  | li (d : Fin 64) (imm : BitVec 15)
  | lih (d : Fin 64) (imm : BitVec 15)
  | cmpEq (d : Fin 64) (a : Fin 64) (b : Fin 64)
  | cmpNe (d : Fin 64) (a : Fin 64) (b : Fin 64)
  | cmpLt (d : Fin 64) (a : Fin 64) (b : Fin 64)
  | cmpLe (d : Fin 64) (a : Fin 64) (b : Fin 64)
  | cmpLtn (d : Fin 64) (a : Fin 64) (b : Fin 64)
  | cmpLen (d : Fin 64) (a : Fin 64) (b : Fin 64)
  | cmpiEq (d : Fin 64) (a : Fin 64) (imm : BitVec 6)
  | cmpiNe (d : Fin 64) (a : Fin 64) (imm : BitVec 6)
  | cmpiLt (d : Fin 64) (a : Fin 64) (imm : BitVec 6)
  | cmpiLe (d : Fin 64) (a : Fin 64) (imm : BitVec 6)
  | cmpiLtn (d : Fin 64) (a : Fin 64) (imm : BitVec 6)
  | cmpiLen (d : Fin 64) (a : Fin 64) (imm : BitVec 6)
  | pbr (b : Fin 8) (off : BitVec 18)
  | pbrg (b : Fin 8) (a : Fin 64)
  | brT (b : Fin 8) (a : Fin 64)
  | brZ (b : Fin 8) (a : Fin 64)
  | brA (b : Fin 8)
  | call (b : Fin 8)
  | ret
  | trap (n : BitVec 9)
  | rett
  | csrr (g : Fin 64) (csr : BitVec 12)
  | csrw (g : Fin 64) (csr : BitVec 12)
  | csrs (g : Fin 64) (csr : BitVec 12)
  | csrc (g : Fin 64) (csr : BitVec 12)
  | yield (n : BitVec 8)
  | probeR (d : Fin 64) (a : Fin 64) (pin : Bool)
  | probeW (d : Fin 64) (a : Fin 64) (pin : Bool)
  | probeRw (d : Fin 64) (a : Fin 64) (pin : Bool)
  | unpin (d : Fin 64) (a : Fin 64)
  | realign (a : Fin 64)
  | phase (v : Fin 4)
  | domsync (v : Fin 4)
  | stepadv
  | klaunch (a : Fin 64) (k : Fin 64)
  | kend
  | tkZero (d : Fin 64)
  | tkJoin (d : Fin 64) (a : Fin 64) (b : Fin 64)
  | tkTest (d : Fin 64) (a : Fin 64)
  | shapeAlloc (k : Fin 64) (a : Fin 64) (h : Fin 8)
  | shapeFree (k : Fin 64) (h : Fin 8)
  | shapeCut (k : Fin 64) (a : Fin 64) (j : Fin 8) (h : Fin 8)
  | shapeChain (k : Fin 64) (j : Fin 8) (h : Fin 8)
  | shapeQry (d : Fin 64) (h : Fin 8)
  | cbset (cb : Fin 16) (a : Fin 64) (d : Fin 8)
  | cbclr (cb : Fin 16)
  | hbload (h : Fin 16) (a : Fin 64) (k : Fin 64)
  | hbstore (h : Fin 16) (a : Fin 64) (k : Fin 64)
  | hseed (h : Fin 16) (a : Fin 64)
  | nbqr (k : Fin 64) (a : Fin 64) (h : Fin 16)
  | nbrot (k : Fin 64) (a : Fin 64) (h : Fin 16)
  | nbcarry (k : Fin 64) (a : Fin 64) (reset : Bool) (h : Fin 16)
  | nbswitch (k : Fin 64) (a : Fin 64) (h : Fin 16)
  -- L words (R84)
  | ld (v : Fin 16) (a : Fin 16) (imm : BitVec 13)
  | lds (a : Fin 16) (g : Fin 64) (sz : LdSize) (e : BitVec 8)
  | ldgStride (v : Fin 16) (a : Fin 16) (x : Fin 64)
  | ldgGather (v : Fin 16) (a : Fin 16) (x : Fin 64) (j : Fin 16)
  | lda (v : Fin 16) (a : Fin 16) (x : Fin 64) (n : Fin 32)
  | chka (v : Fin 16) (a : Fin 16) (x : Fin 64) (n : Fin 32)
  | ldb (a : Fin 16) (k : Fin 64) (n : BitVec 6)
  | lsg (a : Fin 16) (g : Fin 64) (sz : LdSize) (x : Fin 64)
  | ldacq (a : Fin 16) (g : Fin 64) (sc : Scope) (range : Bool) (q : Fin 64)
  | ltv (v : Fin 16) (a : Fin 16) (x : Fin 64) (b : Fin 2)
  | markL
  | laSet (a : Fin 16) (g : Fin 64)
  | laAdd (a : Fin 16) (imm : BitVec 13)
  | laAddg (a : Fin 16) (g : Fin 64)
  | verchk (a : Fin 16) (g : Fin 64)
  | cpCopy (k : Fin 64) (q : Fin 64)
  | cpSumFold (k : Fin 64) (q : Fin 64) (last : Bool)
  | cpSumCrc (k : Fin 64) (q : Fin 64) (last : Bool)
  | cpFill (k : Fin 64) (q : Fin 64) (width : StSize)
  | cpLink (k : Fin 64) (q : Fin 64)
  | cpLinkFold (k : Fin 64) (q : Fin 64) (last : Bool)
  | cpLinkCrc (k : Fin 64) (q : Fin 64) (last : Bool)
  | cpTileTo (k : Fin 64) (q : Fin 64) (b : Fin 2)
  | cpTileFrom (k : Fin 64) (q : Fin 64) (b : Fin 2)
  -- W words (R85)
  | st (v : Fin 16) (a : Fin 16) (imm : BitVec 13)
  | sts (a : Fin 16) (g : Fin 64) (sz : StSize) (e : BitVec 8)
  | stxStride (v : Fin 16) (a : Fin 16) (x : Fin 64)
  | stxScatter (v : Fin 16) (a : Fin 16) (x : Fin 64) (j : Fin 16)
  | stt (v : Fin 16) (a : Fin 16) (x : Fin 64) (b : Fin 2)
  | ssg (a : Fin 16) (g : Fin 64) (sz : StSize) (x : Fin 64)
  | strel (a : Fin 16) (g : Fin 64) (sc : Scope) (range : Bool) (q : Fin 64)
  | markW
  | fence (sc : Scope)
  | cmoClean (a : Fin 16) (g : Fin 64) (lvl : CmoLevel) (k : Fin 64)
  | cmoInv (a : Fin 16) (g : Fin 64) (lvl : CmoLevel) (k : Fin 64)
  | cmoClinv (a : Fin 16) (g : Fin 64) (lvl : CmoLevel) (k : Fin 64)
  | amoAdd (a : Fin 16) (x : Fin 64) (dw : Bool) (k : Fin 64)
  | amoMin (a : Fin 16) (x : Fin 64) (dw : Bool) (k : Fin 64)
  | amoMax (a : Fin 16) (x : Fin 64) (dw : Bool) (k : Fin 64)
  | amoOr (a : Fin 16) (x : Fin 64) (dw : Bool) (k : Fin 64)
  | amoAnd (a : Fin 16) (x : Fin 64) (dw : Bool) (k : Fin 64)
  | amoXchg (a : Fin 16) (x : Fin 64) (dw : Bool) (k : Fin 64)
  | amoCas (a : Fin 16) (x : Fin 64) (dw : Bool) (k : Fin 64)
  | amorAdd (k : Fin 64) (q : Fin 64) (dw : Bool)
  | amorMin (k : Fin 64) (q : Fin 64) (dw : Bool)
  | amorMax (k : Fin 64) (q : Fin 64) (dw : Bool)
  | amorOr (k : Fin 64) (q : Fin 64) (dw : Bool)
  | amorAnd (k : Fin 64) (q : Fin 64) (dw : Bool)
  | amorXchg (k : Fin 64) (q : Fin 64) (dw : Bool)
  | amorCas (k : Fin 64) (q : Fin 64) (dw : Bool)
  | waSet (a : Fin 16) (g : Fin 64)
  | waAdd (a : Fin 16) (imm : BitVec 13)
  | waAddg (a : Fin 16) (g : Fin 64)
  | cqPost (k : Fin 64) (q : Fin 64)
  | cqArm (k : Fin 64) (q : Fin 64)
  | cntAdd (k : Fin 64) (q : Fin 64)
  | cntWait (k : Fin 64) (q : Fin 64)
  | rlInv (k : Fin 64) (q : Fin 64)
  -- X words (R86)
  | vadd (d : Fin 16) (a : Fin 16) (b : Fin 16) (mk : Fin 8) (fs : Fin 8)
  | vsub (d : Fin 16) (a : Fin 16) (b : Fin 16) (mk : Fin 8) (fs : Fin 8)
  | vmul (d : Fin 16) (a : Fin 16) (b : Fin 16) (mk : Fin 8) (fs : Fin 8)
  | vfma (d : Fin 16) (a : Fin 16) (b : Fin 16) (mk : Fin 8) (fs : Fin 8)
  | vfms (d : Fin 16) (a : Fin 16) (b : Fin 16) (mk : Fin 8) (fs : Fin 8)
  | vfnma (d : Fin 16) (a : Fin 16) (b : Fin 16) (mk : Fin 8) (fs : Fin 8)
  | vmin (d : Fin 16) (a : Fin 16) (b : Fin 16) (mk : Fin 8) (fs : Fin 8)
  | vmax (d : Fin 16) (a : Fin 16) (b : Fin 16) (mk : Fin 8) (fs : Fin 8)
  | vunNeg (d : Fin 16) (a : Fin 16) (mk : Fin 8) (fs : Fin 8)
  | vunAbs (d : Fin 16) (a : Fin 16) (mk : Fin 8) (fs : Fin 8)
  | vunRcp (d : Fin 16) (a : Fin 16) (mk : Fin 8) (fs : Fin 8)
  | vunRsq (d : Fin 16) (a : Fin 16) (mk : Fin 8) (fs : Fin 8)
  | vunSqrt (d : Fin 16) (a : Fin 16) (mk : Fin 8) (fs : Fin 8)
  | vunExp2 (d : Fin 16) (a : Fin 16) (mk : Fin 8) (fs : Fin 8)
  | vunLog2 (d : Fin 16) (a : Fin 16) (mk : Fin 8) (fs : Fin 8)
  | vunTanh (d : Fin 16) (a : Fin 16) (mk : Fin 8) (fs : Fin 8)
  | vunSigm (d : Fin 16) (a : Fin 16) (mk : Fin 8) (fs : Fin 8)
  | vunNot (d : Fin 16) (a : Fin 16) (mk : Fin 8) (fs : Fin 8)
  | vcmpEq (d : Fin 8) (a : Fin 16) (b : Fin 16) (fs : Fin 8) (z : Bool)
  | vcmpNe (d : Fin 8) (a : Fin 16) (b : Fin 16) (fs : Fin 8) (z : Bool)
  | vcmpLt (d : Fin 8) (a : Fin 16) (b : Fin 16) (fs : Fin 8) (z : Bool)
  | vcmpLe (d : Fin 8) (a : Fin 16) (b : Fin 16) (fs : Fin 8) (z : Bool)
  | vcmpGt (d : Fin 8) (a : Fin 16) (b : Fin 16) (fs : Fin 8) (z : Bool)
  | vcmpGe (d : Fin 8) (a : Fin 16) (b : Fin 16) (fs : Fin 8) (z : Bool)
  | vcmpUo (d : Fin 8) (a : Fin 16) (b : Fin 16) (fs : Fin 8) (z : Bool)
  | vsel (d : Fin 16) (a : Fin 16) (b : Fin 16) (mk : Fin 8) (fs : Fin 8)
  | vand (d : Fin 16) (a : Fin 16) (b : Fin 16) (mk : Fin 8) (fs : Fin 8)
  | vor (d : Fin 16) (a : Fin 16) (b : Fin 16) (mk : Fin 8) (fs : Fin 8)
  | vxor (d : Fin 16) (a : Fin 16) (b : Fin 16) (mk : Fin 8) (fs : Fin 8)
  | vshl (d : Fin 16) (a : Fin 16) (b : Fin 16) (mk : Fin 8) (fs : Fin 8)
  | vshr (d : Fin 16) (a : Fin 16) (b : Fin 16) (mk : Fin 8) (fs : Fin 8)
  | vsha (d : Fin 16) (a : Fin 16) (b : Fin 16) (mk : Fin 8) (fs : Fin 8)
  | vcvt (d : Fin 16) (a : Fin 16) (c : Fin 16) (mk : Fin 8) (fs : Fin 8)
  | vcvts (d : Fin 16) (a : Fin 16) (b : Fin 16) (c : Fin 16)
  | vcadd (d : Fin 16) (a : Fin 16) (b : Fin 16) (mk : Fin 8)
  | vcsplit (d : Fin 16) (a : Fin 16) (mk : Fin 8)
  | vqdx (d : Fin 16) (a : Fin 16) (b : Fin 16) (fs : Fin 8)
  | vdqdx (d : Fin 16) (a : Fin 16) (b : Fin 16) (fs : Fin 8)
  | vredSum (d : Fin 16) (a : Fin 16) (mk : Fin 8) (fs : Fin 8)
  | vredMax (d : Fin 16) (a : Fin 16) (mk : Fin 8) (fs : Fin 8)
  | vredMin (d : Fin 16) (a : Fin 16) (mk : Fin 8) (fs : Fin 8)
  | vperm (d : Fin 16) (a : Fin 16) (b : Fin 16) (mk : Fin 8) (fs : Fin 8)
  | vrote (d : Fin 16) (a : Fin 16) (g : Fin 16) (mk : Fin 8) (fs : Fin 8)
  | vbcast (d : Fin 16) (g : Fin 16) (mk : Fin 8) (fs : Fin 8)
  | viota (d : Fin 16) (mk : Fin 8) (fs : Fin 8)
  | vmom1 (d : Fin 16) (a : Fin 16) (g : Fin 16) (mk : Fin 8) (fs : Fin 8)
  | vmom2 (d : Fin 16) (a : Fin 16) (g : Fin 16) (mk : Fin 8) (fs : Fin 8)
  | vadstep (d : Fin 16) (a : Fin 16) (g : Fin 16) (mk : Fin 8) (fs : Fin 8)
  | vrng (d : Fin 16) (a : Fin 16) (mk : Fin 8)
  | vscalex (d : Fin 16) (a : Fin 16) (b : Fin 16) (mk : Fin 8) (fs : Fin 8)
  | mlogAnd (d : Fin 8) (a : Fin 8) (b : Fin 8)
  | mlogOr (d : Fin 8) (a : Fin 8) (b : Fin 8)
  | mlogXor (d : Fin 8) (a : Fin 8) (b : Fin 8)
  | mlogNot (d : Fin 8) (a : Fin 8)
  | mlogPopc (d : Fin 16) (b : Fin 8)
  | dqpush (a : Fin 16) (b : Fin 16) (mk : Fin 8) (n : BitVec 3)
  | dqdrain (d : Fin 16) (a : Fin 16) (b : Fin 16)
  | vaccrd (d : Fin 16) (t : Fin 16) (g : Fin 16) (mk : Fin 8) (fs : Fin 8)
  | vaccwr (t : Fin 16) (a : Fin 16) (g : Fin 16) (mk : Fin 8)
  | mxMma (c : Fin 16) (h : Fin 8) (chk : Bool) (k : Fin 64)
  | mxMmat (c : Fin 16) (h : Fin 8) (chk : Bool) (k : Fin 64)
  | mxMmac (c : Fin 16) (h : Fin 8) (chk : Bool) (k : Fin 64)
  | mxZero (t : Fin 16)
  | mxDrain (h : Fin 8)
  | mxLacc (c : Fin 16)
  -- events (95): one indivisible step each
  | cResultLands
  | xResultLands
  | loadLands
  | plbRefill
  | ldbFillDone
  | sttComplete
  | blockCacheEviction
  | rdcEviction
  | homeEviction
  | ldacqComplete
  | strelComplete
  | verchkComplete
  | cmoComplete
  | amoPerformed
  | amorArrival
  | amorAck
  | ackTimeout
  | commandStart
  | consumedTokenFailed
  | copyComplete
  | linkWriteArrival
  | linkAck
  | nimbusComplete
  | nbqrBasisWrite
  | slotTransferComplete
  | cqPostAppended
  | cntWaitReached
  | klaunchComplete
  | kendComplete
  | probeComplete
  | stepSwitch
  | realignRelease
  | domsyncComplete
  | domsyncArrival
  | allocatorServe
  | cellsLive
  | shapeReport
  | drainPoint
  | drainReport
  | commandArrival
  | matrixCommandStart
  | laccStart
  | outputRowLands
  | matrixCommandFinish
  | faultReportArrival
  | rettResume
  | replayRestart
  | preqReq
  | preqRes
  | preqEnd
  | preemptionPoint
  | preemptDeadline
  | saveComplete
  | restoreComplete
  | contextEnd
  | mailboxPost
  | mailboxCancel
  | mailboxResume
  | launchSelect
  | launchStart
  | freeCellReport
  | entryFire
  | entryStart
  | chunkArrival
  | signalArrival
  | entryComplete
  | flitReceive
  | portTrained
  | chargeBalanceWindow
  | windowEnd
  | packagePhaseBoundary
  | clockStep
  | telemetrySample
  | ptpSync
  | ptpSyncTimeout
  | correctableError
  | uncorrectableError
  | deviceReset
  | dieResetGo
  | dieResetFenced
  | dieResetDeadline
  | dieResetCleared
  | functionReady
  | tinv
  | tinvComplete
  | dbfc
  | qpctlOpen
  | resync
  | loadimg
  | unloadimg
  | ackend
  | clrarr
  | fwstage
  | attest
  | mgmtCommandComplete
  | bar2Read
  | bar2Write
  | registerWrite
  | illegalEncoding
  | replayPoint
  | uncachedStorePerformed
  | hostPortLinkDown
  deriving DecidableEq, Repr

end Sys2Proof
end

