-- ==== Sys2Proof/Machine/CoreState.lean ====
section
/-!
DEFINITION. The state of one wide-word core as plain data (01_core_state, and the state the other
chapters add to it). All times are Zenith 0 counts.
-/

namespace Sys2Proof.Machine

/-- Token states (R15). -/
inductive TokSt where
  | empty | pending | done | failed
  deriving DecidableEq, Repr

/-- A token: state, error code, and the chain value it carries (R220): CRC or FOLD, running value. -/
structure Token where
  st    : TokSt
  code  : Byte
  chain : Option (Bool × Word)
  deriving DecidableEq, Repr

/-- Handle states of R22. -/
inductive ShSt where
  | free | allocating | live | draining | frozen
  deriving DecidableEq, Repr

/-- A basis slot (R21). -/
structure Slot where
  boff   : BitVec 19
  rows   : BitVec 20
  rank   : BitVec 9
  kw     : BitVec 7
  rowoff : BitVec 32
  gen    : BitVec 16
  pgen   : BitVec 16
  pvalid : Bool
  pready : Bool
  pfail  : Bool
  pcode  : Byte
  seed   : BitVec 16
  swstep : Dword
  deriving DecidableEq, Repr

/-- The writable and recorded CSRs (R26-R31, R319). -/
structure Csr where
  zbase     : Dword
  step      : Dword
  cid       : BitVec 12
  dmr       : Dword
  fflags    : Flags
  ftrow     : BitVec 2
  trapvec   : Dword
  trapcause : Dword
  trappc    : Dword
  cut       : Vector Dword 16
  retrylim  : BitVec 4
  errinj    : Dword
  preempt   : Dword
  psub      : Dword
  haloctl   : BitVec 2
  accmask   : BitVec 12
  spillbase : Dword
  scratch   : Vector Dword 8
  deriving DecidableEq, Repr

/-- What the same-cycle rule of R16 governs: state one cluster writes at issue and another reads.
Ring counters are indexed C→L, L→X, X→W, W→C, L→C, X→L, W→X, C→W (R13). -/
structure Vis where
  g    : Vector Dword 64
  tok  : Vector Token 64
  ring : Vector (BitVec 4) 8
  csr  : Csr
  cb   : Vector (Vector Dword 8) 16
  slot : Vector Slot 16
  sh   : Vector ShSt 8
  deriving DecidableEq, Repr

/-- A loop level (R17, R102): `first`, `last`, `t` of the pseudocode beside the fields R17 names. -/
structure Loop where
  active    : Bool
  remaining : BitVec 32
  index     : BitVec 32
  start     : BitVec 16
  /-- The word index of the last word of the body, past 0xFFFF for a body that runs out of the stream. -/
  stop      : Nat
  stages    : Nat
  pf        : Bool
  yp        : Byte
  n         : Nat
  first     : Nat
  last      : Nat
  t         : Nat
  preds     : BitVec 8
  deriving DecidableEq, Repr

/-- Why a cluster issues nothing although its head could be ready. -/
inductive Hold where
  /-- Issues its head when ready. -/
  | run
  /-- Stopped: idle core, a handler field of 0, a suspended or ended context (R320, R114). -/
  | stopped
  /-- C holds at a reshape for its drain report (R182). -/
  | reshape (id : Nat)
  /-- C holds at a REALIGN of count `t` at word `pc` (R116); the others of its bundle wait with it. -/
  | realign (t : Nat) (pc : BitVec 16)
  /-- C holds in barrier number `n` of a level (R118, R298). -/
  | domsync (lvl : Fin 4) (n : Nat)
  /-- C holds in STEPADV (R119). -/
  | stepadv
  /-- C holds in a PROBE (R114): base, length, mode, pin. -/
  | probe (base len : Nat) (mode : Nat) (pin : Bool)
  /-- A KEND bundle has issued; the KEND stands at `pc` (R122). -/
  | kend (pc : BitVec 16)
  /-- A YIELD bundle of point `id` has issued (R113). -/
  | yield (id : Byte)
  /-- RETT waits for the handler to become idle (R322). -/
  | rett
  /-- L waits for an LDACQ or a VERCHK, W for a STREL (R172, R173, R179). -/
  | sync (id : Nat)
  /-- At the `n`-th MARK, its partner has not issued (R174). -/
  | mark
  /-- A preemptible level of yield point `yp` ended under R105; the cluster holds at the word after its body. -/
  | loopEnd (yp : Byte)
  deriving DecidableEq, Repr

/-- A level recorded as suspended in a control image (R324): level, LOOP word, len, S, k, n. -/
structure Suspended where
  lv  : Fin 2
  p   : BitVec 16
  len : Nat
  s   : Nat
  k   : Nat
  n   : Nat
  yp  : Byte
  deriving DecidableEq, Repr

/-- One cluster. `nextAt` is the first count at which its head may issue; in X it is the count R79
adds the idle count to. `susp` is a level that R105 has ended before its last iteration. -/
structure Cluster where
  pc     : BitVec 16
  loops  : Vector Loop 2
  nextAt : Nat
  hold   : Hold
  susp   : Option Suspended
  deriving DecidableEq, Repr

/-- A branch-target register (R14, R96) and the number, among the C words since
launch, of the word that wrote it (R98). -/
structure BReg where
  target : BitVec 16
  valid  : Bool
  seq    : Nat
  deriving DecidableEq, Repr

/-- A multiply, divide or SHAPE.QRY result that has not landed (R93). -/
structure CPend where
  d   : Fin 64
  val : Dword
  deriving DecidableEq, Repr

/-- One effect of an X word that lands at the end of its latency (R125). -/
inductive XWrite where
  | v (r : Fin 16) (val : Runs Word)
  /-- The bits of a v register that `msk` picks in each lane; the others keep what the register holds then (R123). -/
  | vm (r : Fin 16) (val msk : Runs Word)
  | m (r : Fin 8) (val : Runs Bool)
  /-- Rows of an accumulator tile: first row and the active elements' values (R155). -/
  | acc (t : Nat) (row : Nat) (val : Runs (Option Word))
  /-- MX.ZERO of a tile (R200). -/
  | zero (t : Nat)
  deriving DecidableEq, Repr

/-- An issued X word whose effects have not landed. -/
structure XPend where
  id     : Nat
  at_    : Nat
  pc     : BitVec 16
  writes : List XWrite
  flags  : Flags
  deriving DecidableEq, Repr

/-- Destination and bound value of a load (R160, R273). -/
inductive LoadVal where
  | g (r : Fin 64) (val : Dword)
  | v (r : Fin 16) (val : Runs Word)
  deriving DecidableEq, Repr

/-- An outstanding load: its value is bound, its register write has not landed. `lines` counts line
requests (R160). -/
structure Load where
  id    : Nat
  val   : LoadVal
  lines : Nat
  deriving DecidableEq, Repr

/-- An STT whose last beat has not landed (R170). -/
structure Stt where
  id  : Nat
  bg  : Fin 2
  off : Nat
  val : Runs Word
  tag : Option (BitVec 16)
  deriving DecidableEq, Repr

/-- A store to an UNCACHED page that memory has not accepted (R306): address, bytes, writing word. -/
structure UStore where
  id    : Nat
  addr  : Nat
  bytes : Runs Byte
  wseq  : Nat
  pc    : BitVec 16
  deriving DecidableEq, Repr

/-- A declared block (R168): first line number, lines, and whether its fill is pending. -/
structure Block where
  line : Nat
  n    : Nat
  fill : Bool
  deriving DecidableEq, Repr

/-- A command whose token another step completes: the engine words, AMOR, Nimbus, TK.JOIN, KLAUNCH,
LDB, CMO, AMO, the slot transfers and the SHAPE words. -/
structure Cmd where
  id      : Nat
  op      : Instr
  tok     : Fin 64
  quad    : Dword × Dword × Dword × Dword
  /-- Consumed tokens in the order T0, T1, T2 and whether each has been seen DONE (R386). -/
  waits   : List (Fin 64 × Bool)
  started : Bool
  at_     : Nat
  /-- Addresses or values captured at issue. -/
  args    : List Nat
  /-- Data read at the start, and the running checksum. -/
  data    : Runs Byte
  chain   : Word
  /-- The slot a Nimbus or slot command names, as it stood at issue (R208, R211). -/
  slot    : Slot
  /-- Address and cause of the page that stopped the command (R218). -/
  err     : Option (Nat × Nat)
  /-- A replay has discarded its report (R247): it runs on and changes no token. -/
  gone    : Bool
  cl      : Cl
  pc      : BitVec 16
  deriving DecidableEq, Repr

/-- A matrix command in its shape's queue (R193, R237, R256): copied block, captured format entry,
captured slots, σ and progress; `rows` are the rows of A that have entered (R256, R258). -/
structure MCmd where
  id      : Nat
  op      : Instr
  cb      : Vector Dword 8
  fmt     : Word
  pslot   : Slot
  sslot   : Slot
  pc      : BitVec 16
  sigma   : Nat
  arrival : Nat
  arrived : Bool
  started : Bool
  finish  : Nat
  flags   : Flags
  rows    : List (Nat × List (Nat × Nat))
  deriving DecidableEq, Repr

/-- An MX.LACC that has been issued (R202, R235): copied block, captured format entry, the count it starts
at and its flags so far. -/
structure Lacc where
  id      : Nat
  cb      : Vector Dword 8
  fmt     : Word
  pc      : BitVec 16
  start   : Nat
  flags   : Flags
  deriving DecidableEq, Repr

/-- The die's side of a shape handle (R22, R181-R185, R251): geometry, queue, entries counted since
launch, and the elements of B its cells hold, with the block and format they were loaded under. -/
structure Shape where
  top   : Nat
  left  : Nat
  d     : Nat
  w     : Nat
  queue : List MCmd
  count : Nat
  held  : Bool
  keptB : List (List Nat)
  keptX : List (List Nat)
  deriving DecidableEq, Repr

/-- A page answer of a permission buffer (R305, R307). -/
inductive PageAns where
  | none
  | page (r w : Bool) (uncached : Bool)
  deriving DecidableEq, Repr

/-- A PLB or stream-PLB entry: page number in 2 MiB units, 1 GiB flag, answer (R307). -/
structure Plb where
  page : Nat
  big  : Bool
  ans  : PageAns
  deriving DecidableEq, Repr

/-- A copy of a 128-byte line in a cache: context, line number VA / 128, bytes (byte 0 lowest), whether it is
whole, the dirty-byte mask and the writer stamp (R266, R267, R269). A partial copy has only its dirty bytes valid. -/
structure Line where
  cid   : BitVec 12
  la    : Nat
  data  : BitVec 1024
  whole : Bool
  dirty : BitVec 128
  stamp : BitVec 48
  deriving DecidableEq, Repr

/-- What a trap entry shadows (R320) and what RETT and the handler rules need (R321, R322): commands from
`firstId` on are the handler's. -/
structure Shadow where
  clus    : Vector Cluster 4
  ring    : Vector (BitVec 4) 8
  rs      : List (BitVec 16)
  sc      : Nat
  accmask : BitVec 12
  sh      : Vector ShSt 8
  firstId : Nat
  cause   : Nat
  deriving DecidableEq, Repr

/-- A fault or trap raised in this cycle (R246, R317, R318). `cl` is the cluster order of R318, `queue`
the queue index, `addr` the address of an access fault. -/
structure TrapReq where
  cause : Nat
  code  : Byte
  cl    : Cl
  queue : Nat
  pc    : BitVec 16
  addr  : Nat
  deriving DecidableEq, Repr

/-- The control image of R33 and R324: the "always" rows; barrier and phase counts go with it (log 21). -/
structure Image where
  yp     : Byte
  clus   : Vector Cluster 4
  ring   : Vector (BitVec 4) 8
  rs     : List (BitVec 16)
  sc     : Nat
  tok    : Vector Token 64
  ft     : Vector Word 64
  cb     : Vector (Vector Dword 8) 16
  slot   : Vector Slot 16
  geo    : List (Fin 8 × Nat × Nat)
  dq     : List (Nat × Word × Word)
  dn     : Nat
  csr    : Csr
  phases : Vector Nat 4
  doms   : Vector Nat 4
  deriving DecidableEq, Repr

/-- The writes of g and v registers that loads, C results and L words had pending at the start of the cycle (R16, R232), and
the first identifier that a word of this cycle can take (R16, R233). -/
structure Pend where
  loads : List Load
  cpend : List CPend
  syncs : List Cmd
  next  : Nat
  deriving DecidableEq, Repr

/-- Where a core stands between launches (R291, R295, R324-R326). -/
inductive CoreSt where
  | idle
  /-- Taken by a launch that has not started (R291). -/
  | taken
  | running
  /-- Stopped at a cut that a replay or the context's end follows (R227, R247, R316). -/
  | halted
  /-- Suspended by PROBE (R314). -/
  | suspended
  deriving DecidableEq, Repr

/-- A sequence that runs between a pre-emption or replay point and its closing YIELD (R325, R326). -/
inductive Phase where
  | normal
  | saving (yp : Byte)
  | restoring (yp : Byte) (replay : Bool)
  deriving DecidableEq, Repr

/-- The eight doublewords of a boot mailbox launch, decoded (R287, R288). -/
structure MailReq where
  image   : Dword
  argbase : Dword
  gang    : Dword
  prio    : BitVec 2
  cid     : BitVec 12
  d3id    : BitVec 16
  d3n     : Byte
  ncell   : BitVec 7
  caddr   : Dword
  ctab    : Dword
  spill   : Dword
  save    : Dword
  deriving DecidableEq, Repr

/-- One core. -/
structure Core where
  st     : CoreSt
  /-- The first count at which an idle core counts as idle (R291, R300). -/
  idleAt : Nat
  phase  : Phase
  launch : MailReq
  /-- The launch the core runs: the identifier of its `Run`. -/
  run    : Nat
  vis    : Vis
  /-- `vis` as it stood at the start of the cycle (R16). -/
  old    : Vis
  clus   : Vector Cluster 4
  la     : Vector Dword 16
  wa     : Vector Dword 16
  v      : Vector (Runs Word) 16
  m      : Vector (Runs Bool) 8
  b      : Vector BReg 8
  rs     : List (BitVec 16)
  sc     : Nat
  ft     : Vector Word 64
  acc    : Sparse Word
  shape  : Vector Shape 8
  dq     : List (Nat × Word × Word)
  dn     : Nat
  /-- Range start and the count of the entry's LDA (R24, R165). -/
  lda    : Vector (Option (Nat × Nat)) 32
  imem   : Sparse Word
  tile   : Sparse (BitVec 4096)
  tag    : Sparse (BitVec 16)
  basis  : Sparse (BitVec 16)
  /-- Block cache (R266). -/
  bc     : List Line
  plb    : List Plb
  /-- Stream PLBs of L, W and the copy engine (R307). -/
  splb   : Vector (List Plb) 3
  blocks : List Block
  cpend  : List CPend
  xpend  : List XPend
  loads  : List Load
  stts   : List Stt
  ustores : List UStore
  laccs  : List Lacc
  cmds   : List Cmd
  /-- First free counts of VA, VF, VV, VP, VK, DQ, AP, MI (R126, R235). -/
  units  : Vector Nat 8
  /-- The words whose completion a `sync` hold waits for (R172, R173, R176, R177, R179). -/
  syncs  : List Cmd
  /-- The pending writes as they stood at the start of the cycle (R16, R232). -/
  was    : Pend
  marks  : Nat × Nat
  /-- Entries of CUT0-CUT14 counted since launch (R319). -/
  seqs   : Vector Nat 15
  /-- PHASE and DOMSYNC words counted per level (R117, R298, R357). -/
  phases : Vector Nat 4
  doms   : Vector Nat 4
  /-- The PHASE 2 words whose reports may be on their way: number and count (R117, R357). -/
  reports : List (Nat × Nat)
  switch : Vector (Option Nat) 16
  shadow : Option Shadow
  frozen : BitVec 12
  trap   : Option TrapReq
  /-- The control image of the replay point (R113, R247). -/
  replay : Option Image
  /-- The count at which a pre-emption request expires (R323). -/
  deadln : Option Nat
  deriving DecidableEq, Repr

/-- The empty token (R15). -/
def Token.zero : Token := ⟨.empty, 0, none⟩

/-- A slot at launch (R21). -/
def Slot.zero : Slot := ⟨0, 0, 0, 0, 0, 0, 0, false, false, false, 0, 0, 0⟩

/-- The CSRs at their Reset values (R26); SCRATCH is undefined at reset, DESIGN CHOICE 0 (log 6). -/
def Csr.reset : Csr :=
  ⟨0, 0, 0, 0, 0, 0, 0, 0, 0, Vector.replicate 16 0, 2, 0, 0, 0, 3, 0, 0, Vector.replicate 8 0⟩

/-- The state of the same-cycle rule at launch (R13-R26). -/
def Vis.reset : Vis :=
  ⟨Vector.replicate 64 0, Vector.replicate 64 Token.zero, Vector.replicate 8 0, Csr.reset,
   Vector.replicate 16 (Vector.replicate 8 0), Vector.replicate 16 Slot.zero, Vector.replicate 8 .free⟩

/-- An inactive level at launch: all zero (R17), but its stage count, which R17 makes a number of [1, 8] and 1 in C, L and W.
DESIGN CHOICE (log 92): it holds 1 in every cluster. -/
def Loop.zero : Loop := ⟨false, 0, 0, 0, 0, 1, false, 0, 0, 0, 0, 0, 0⟩

/-- A cluster of a core that runs nothing; pc 0 is a DESIGN CHOICE (log 5). -/
def Cluster.reset : Cluster := ⟨0, Vector.replicate 2 Loop.zero, 0, .stopped, none⟩

/-- A handle with no cells (R22). -/
def Shape.zero : Shape := ⟨0, 0, 0, 0, [], 0, false, [], []⟩

/-- A launch record of zeros. -/
def MailReq.zero : MailReq := ⟨0, 0, 0, 0, 0, 0xFFFF, 0, 0, 0, 0, 0, 0⟩

/-- A vector register of zeros: 6144 lanes of 32 bits (R14). -/
def lanesZero : Runs Word := [(6144, 0)]

/-- A core after device reset: idle, with the values a launch would set (R14-R26). -/
def Core.reset : Core where
  st     := .idle
  idleAt := 0
  phase  := .normal
  launch := MailReq.zero
  run    := 0
  vis    := Vis.reset
  old    := Vis.reset
  clus   := Vector.replicate 4 Cluster.reset
  la     := Vector.replicate 16 0
  wa     := Vector.replicate 16 0
  v      := Vector.replicate 16 lanesZero
  m      := (Vector.replicate 8 [(6144, false)]).set 0 [(6144, true)]
  b      := Vector.replicate 8 ⟨0, false, 0⟩
  rs     := []
  sc     := 0
  ft     := Vector.replicate 64 0x00000600
  acc    := []
  shape  := Vector.replicate 8 Shape.zero
  dq     := []
  dn     := 0
  lda    := Vector.replicate 32 none
  imem   := []
  tile   := []
  tag    := []
  basis  := []
  bc     := []
  plb    := []
  splb   := Vector.replicate 3 []
  blocks := []
  cpend  := []
  xpend  := []
  loads  := []
  stts   := []
  ustores := []
  laccs  := []
  cmds   := []
  units  := Vector.replicate 8 0
  syncs  := []
  was    := ⟨[], [], [], 0⟩
  marks  := (0, 0)
  seqs   := Vector.replicate 15 0
  phases := Vector.replicate 4 0
  reports := []
  doms   := Vector.replicate 4 0
  switch := Vector.replicate 16 none
  shadow := none
  frozen := 0
  trap   := none
  replay := none
  deadln := none

end Sys2Proof.Machine
end

