-- ==== Sys2Proof/Machine/State.lean ====
section
/-!
DEFINITION. The state of the package as plain data, the reasons a step can stop, and the state right
after device reset. All times are Zenith 0 counts.
-/

namespace Sys2Proof.Machine

/-- Device memory: bytes by physical address (R302, R304), canonical: addresses strictly rising and no
entry equal to what an unlisted address reads as. -/
abbrev Memory := List Host.Cell

/-- What a physical byte that nothing has written reads as: DESIGN CHOICE 0, unsafe (log 3). -/
def Memory.blank : Byte := 0

/-- The canonical form of memory. -/
def Memory.wf : Memory → Bool
  | [] => true
  | [c] => c.2 != Memory.blank
  | c :: d :: r => c.2 != Memory.blank && c.1 < d.1 && Memory.wf (d :: r)

/-- A translation-cache entry of an MTU (R308): page in 2 MiB units, 1 GiB flag, rights, policy, frame. -/
structure MtuEnt where
  cid   : BitVec 12
  page  : Nat
  big   : Bool
  r     : Bool
  w     : Bool
  unc   : Bool
  frame : Nat
  deriving DecidableEq, Repr

/-- The owner of a frame (R310): a writable mapping, or read-only mappings of one policy. -/
inductive Owner where
  | writer (cid : BitVec 12) (page : Nat)
  | readers (unc : Bool) (maps : List (BitVec 12 × Nat))
  deriving DecidableEq, Repr

/-- A parked write-back (R315). -/
structure Late where
  line : Line
  slot : Nat
  deriving DecidableEq, Repr

/-- One MTU (R308-R311, R315). -/
structure Mtu where
  tc     : List MtuEnt
  owners : Sparse Owner
  dirty  : Sparse (BitVec 512)
  late   : List Late
  deriving DecidableEq, Repr

/-- Host registers with the fields of R302, R292, R351, R366, R368, R370, R372, R374; raw words of
64 bits with their reserved bits zero. -/
structure HostRegs where
  frbase  : Dword
  frctl   : Dword
  frhead  : BitVec 32
  frtail  : BitVec 32
  frlost  : BitVec 32
  ctxbase : Dword
  tinvBusy   : Bool
  tinvPinned : Bool
  pdl     : BitVec 32
  prstCid : BitVec 12
  prstRes : BitVec 3
  dbres   : BitVec 512
  dage    : Dword
  pwctl   : Dword
  clk     : Nat
  ipkg    : Nat
  excr    : BitVec 16
  excf    : BitVec 16
  tlbase  : Dword
  tlctl   : Dword
  tlhead  : BitVec 32
  lock    : Bool
  offs    : BitVec 32
  drstDie   : BitVec 3
  drstState : Nat
  drstForced : Bool
  /-- The die whose reset is under way, and the first identifier that was not outstanding at its GO (R370). -/
  drstCur   : Nat
  drstMark  : Nat
  drdl    : BitVec 32
  mop     : Byte
  marg    : Vector Dword 3
  mbusy   : Bool
  mresult : Byte
  ready0  : Dword
  ready1  : Dword
  errhead : BitVec 32
  cecnt   : Vector (BitVec 32) 8
  errrec  : Vector (Dword × Dword × Dword × Dword) 16
  replica : Vector (Dword × Dword) 16
  /-- The host port's link is up (R365, R379). -/
  hostUp    : Bool
  portUp    : Vector Bool 12
  portRetry : Vector (BitVec 30) 12
  portDowns : Vector (BitVec 16) 12
  deriving DecidableEq, Repr

/-- Mailbox states of R288. -/
inductive MailSt where
  | empty | posted | loading | suspended | refused
  deriving DecidableEq, Repr

/-- A boot mailbox (R287-R289): its doublewords as written, state, code, the latched launch and its post
count. -/
structure Mail where
  dw   : Vector Dword 8
  st   : MailSt
  code : Byte
  req  : MailReq
  post : Nat
  deriving DecidableEq, Repr

/-- How a gang starts (R292-R295, R326, R247). -/
inductive RunKind where
  | launch | resume | replay
  deriving DecidableEq, Repr

/-- The progress of a launch (R289-R295, R325, R326): formed, its transfers under way, running, or saved. -/
inductive RunSt where
  | waiting | loading | running | saved
  deriving DecidableEq, Repr

/-- What a member of a running gang had counted when another launch took its core: PHASE and DOMSYNC words per level
(R118, R298). -/
structure Left where
  core   : Fin 64
  phases : Vector Nat 4
  doms   : Vector Nat 4
  deriving DecidableEq, Repr

/-- A formed, loading, running or saved launch of a gang (R289-R300, R325, R326): its cores, how it starts, its
priority and post count, the cores whose pins the loader could not make (R294), its retry count (R248),
the launch records and control images of a saved context, the counts of members whose cores run another launch, the
level-2 boundaries it had passed at the last package boundary and the count from which its timeout runs (R357), and the
level-3 barriers it has formed: D3ID, number, and whether the barrier has completed (R297). -/
structure Run where
  id     : Nat
  cid    : BitVec 12
  gang   : Dword
  kind   : RunKind
  prio   : Nat
  post   : Nat
  st     : RunSt
  stuck  : List (Fin 64)
  retry  : Nat
  saved  : List (Fin 64 × MailReq × Option Image)
  left   : List Left
  bounds : Nat
  since  : Nat
  l3     : List (BitVec 16 × Nat × Bool)
  deriving DecidableEq, Repr

/-- A pin count (R115): context, core, page in 2 MiB units, whether it is mapped as 1 GiB. -/
structure Pin where
  cid   : BitVec 12
  core  : Fin 64
  page  : Nat
  big   : Bool
  count : Nat
  deriving DecidableEq, Repr

/-- An image slot (R376): the image's bytes and its digest. -/
structure ImageSlot where
  bytes  : Runs Byte
  digest : List Byte
  deriving DecidableEq, Repr

/-- The progress of a work entry (R328-R330): posted; armed on a counter with a threshold, since a count;
fired, in firing order; started. -/
inductive EntSt where
  | posted
  | armed (cnt : Nat) (thr : Dword) (since : Nat)
  | fired (order : Nat)
  | started
  deriving DecidableEq, Repr

/-- A work entry in a send queue: its identifier and slot, its 64 bytes, its state, the device list it uses, outstanding
acknowledgements and the devices that owe them (R387), the generations captured at its post, and the CQ.POST that posted it
(R286, R328-R337). -/
structure Ent where
  id    : Nat
  idx   : Nat
  bits  : BitVec 512
  st    : EntSt
  devs  : List Nat
  acks  : Nat
  owed  : List Nat
  gens  : List Nat
  core  : Fin 64
  pc    : BitVec 16
  deriving DecidableEq, Repr

/-- A queue pair (R327). -/
structure Qp where
  open_ : Bool
  err   : Bool
  logn  : Nat
  cid   : BitVec 12
  rcid  : BitVec 12
  ecode : Byte
  eidx  : Nat
  base  : Dword
  tail  : Nat
  ents  : List Ent
  deriving DecidableEq, Repr

/-- A counter (R327). -/
structure Cnt where
  cid : BitVec 12
  asg : Bool
  val : Dword
  deriving DecidableEq, Repr

/-- A cached rank list (R337). -/
structure Rank where
  cid  : BitVec 12
  addr : Nat
  devs : List Nat
  deriving DecidableEq, Repr

/-- A collective chunk as it travels (R331-R336): source device, queue pair, entry, receiving context, PUT
or PUTRED with OP, WIRE and EXPECT, addresses, counter, generation, whether it travels in FP32, flags so
far and data. -/
structure Chunk where
  src    : Nat
  qp     : Nat
  ent    : Nat
  rcid   : BitVec 12
  put    : Bool
  op     : Nat
  wire   : Nat
  dst    : Nat
  status : Nat
  dcnt   : Nat
  expect : Nat
  gv     : Bool
  gen    : BitVec 16
  esc    : Bool
  flags  : Flags
  data   : Runs Byte
  deriving DecidableEq, Repr

/-- An ordered chunk held for its contributions, in arrival order (R333, R336). -/
structure Held where
  rcid  : BitVec 12
  dst   : Nat
  parts : List Chunk
  deriving DecidableEq, Repr

/-- A message to another device (R178, R217, R297, R331): kind, arguments and data. -/
inductive Msg where
  | link (dev : Nat) (cid : BitVec 12) (core : Fin 64) (cmd : Nat) (dst : Nat) (fold : Nat) (start : Word)
      (inj : Option (Nat × Nat)) (data : Runs Byte)
  | amor (dev : Nat) (cid : BitVec 12) (core : Fin 64) (cmd : Nat) (op : Nat) (dw : Bool) (dst : Nat)
      (val : Dword) (new : Dword)
  | domsync (dev : Nat) (d3id : BitVec 16) (n : Nat)
  | chunk (dev : Nat) (c : Chunk)
  | signal (dev : Nat) (src qp ent : Nat) (rcid : BitVec 12) (dcnt : Nat) (addend : Nat)
  | entAck (dev : Nat) (qp ent : Nat) (code : Byte)
  | ack (dev : Nat) (core : Nat) (id : Nat) (code : Byte) (running : Word)
  deriving DecidableEq, Repr

/-- A subscription (R358-R360): the owning core, its fields, armed flag and firings. -/
structure Sub where
  core  : Fin 64
  idx   : Nat
  qty   : Nat
  die   : Nat
  fall  : Bool
  thr   : Nat
  hyst  : Nat
  naddr : Nat
  armed : Bool
  off   : Bool
  seq   : Nat
  deriving DecidableEq, Repr

/-- The governor (R352-R357): excursions since the last boundary; of the last window whether a die was above 100 °C, the
package power in W, and the current target; a pending clock step; the last boundary; PSUB writes on their way, with the address
written and the count at which it arrives; the subscriptions. Of the clock (R361, R364): the Stratus times at which the window
ends, the next sample is due and the last sync message came, good offsets in a row, and the energy counters at the window's
start. -/
structure Gov where
  excSince : Nat
  hot     : Bool
  power   : Nat
  target  : Nat
  step    : Option (Nat × Nat)
  lastB   : Nat
  reads   : List (Fin 64 × Dword × Nat)
  subs    : List Sub
  good    : Nat
  windowAt : Nat
  sampleAt : Nat
  syncAt  : Nat
  base    : Vector Nat 8
  /-- The energy of ramp filler in the window so far, by die, in mJ (R353). -/
  ramp    : Vector Nat 8
  /-- A collective stall has come in the window (R353). -/
  stalled : Bool
  /-- The counts of the window's start and of the last reading of the meters. -/
  windowZc : Nat
  metered : Nat
  /-- Of each die, the slots that work and charge-balance filler took in 16-cycle windows already balanced: since the window's
  start (R353); and those of the filler since the last reading (R362). -/
  slots   : Vector Nat 8
  fed     : Vector Nat 8
  /-- The gangs that held the next package boundary at the end of the last cycle, and the latest count at which the end of one
  since the last boundary is known on Stratus (R357). -/
  waits   : List Nat
  endsAt  : Nat
  deriving DecidableEq, Repr

/-- Work of one member of a series pair in one 16-cycle window of its die (R262, R354): MAC slots of a cell of a Cumulus
die, or unit beats of a core of a Zenith die. -/
structure Work where
  die    : Nat
  member : Nat
  win    : Nat
  n      : Nat
  deriving DecidableEq, Repr

/-- The security root (R377, R378): the firmware image that runs, the factory's where none is named; the standby copy; the
fused minimum; whether the stored image was verified since the last reset, and passed (R377). -/
structure Trust where
  running : Option (Runs Byte)
  standby : Option (Runs Byte)
  minSvn  : Nat
  passed  : Option Bool
  deriving DecidableEq, Repr

/-- The issuing slot of a word: core, cluster and the word's header. -/
structure Turn where
  core : Fin 64
  cl   : Cl
  hdr  : Header
  deriving DecidableEq, Repr

/-- What an event step acts on: a core, the identifier of a pending step, numbers and bytes. Each event's
meaning says what it reads of it. -/
structure Ev where
  core : Fin 64
  id   : Nat
  args : List Nat
  data : Runs Byte
  deriving DecidableEq, Repr

/-- A step due at a Zenith 0 count. -/
structure Timed where
  at_ : Nat
  op  : Instr
  ev  : Ev
  deriving DecidableEq, Repr

/-- The package. -/
structure State where
  /-- Zenith count (R228). -/
  zc      : Nat
  /-- LATT[a][b] (R229). -/
  latt    : Vector (Vector Nat 8) 8
  /-- This device's number on the fabric (R178). -/
  dev     : Nat
  cores   : Vector Core 64
  mem     : Memory
  home    : List Line
  rdc     : Vector (List Line) 2
  /-- Cells of the four Cumulus dies: owner core and handle by cell number (R250, R253). -/
  cells   : Vector (Sparse (Fin 64 × Fin 8)) 4
  /-- The count from which the allocator of each die is free again (R259). -/
  allocAt : Vector Nat 4
  /-- The distributor's view of free cells (R291). -/
  view    : Vector Nat 4
  /-- Commands in the Nimbus queue at Aurora's last report, and in the distributor's view (R291). -/
  nbDepth : Nat
  nbView  : Nat
  mtu     : Vector Mtu 4
  regs    : HostRegs
  mail    : Vector Mail 64
  runs    : List Run
  pins    : List Pin
  images  : Sparse ImageSlot
  qps     : Sparse Qp
  cnts    : Sparse Cnt
  ranks   : List Rank
  helds   : List Held
  /-- Contexts that have ended and whose context-table entry has not been written again (R301, R316). -/
  ended   : List (BitVec 12)
  /-- DOMSYNC 3 arrivals held: D3ID, barrier number, device (R297). -/
  arrivals : List (BitVec 16 × Nat × Nat)
  gov     : Gov
  /-- The Stratus clock since device reset, in units of 1/144403552893600 ns, and the correction of its reading by
  steps, in ns (R351, R364). -/
  time    : Nat
  ptp     : Int
  /-- The Stratus time of the last send toward a device (R387). -/
  sent    : Sparse Nat
  /-- Energy counters of the dies and of filler, in mJ modulo 2³² (R362, R363). -/
  energy  : Vector Nat 8
  fill    : Nat
  /-- What the members of series pairs do in windows that have not been balanced, and the filler injected (R262, R354). -/
  work    : List Work
  filler  : List Work
  /-- GDDR-7 devices fitted to each memory channel (R2). -/
  pop     : Vector Nat 64
  trust   : Trust
  /-- Flit failures in a row and replay state of each port (R339). -/
  flits   : Vector Nat 12
  /-- MSI-X vectors sent, oldest first, and the mask and pending bits of each vector (R382; log 83). -/
  msix    : List Nat
  vecMask : BitVec 2048
  vecPend : BitVec 2048
  outbox  : List Msg
  /-- Acknowledgements held until a port comes up (R387). -/
  ackHeld : List Msg
  /-- Answers of BAR2 and register reads to the host, oldest first: value, or Unsupported Request. -/
  replies : List (Option Nat)
  /-- The model's own: the issuing slot. -/
  turn    : Turn
  /-- The model's own: what the current event step acts on. -/
  ev      : Ev
  /-- The model's own: the words that issue in this cycle and have not yet: core, cluster, and whether its bundle has
  formed (R232). -/
  todo    : List (Fin 64 × Cl × Bool)
  /-- The model's own: the device's timed steps, by count. -/
  agenda  : List Timed
  /-- The model's own: what the outside world does, by count. -/
  inbox   : List Timed
  /-- The model's own: choices the spec leaves open (latencies, orders); an empty tape answers 0. -/
  choices : List Nat
  /-- The model's own: number of open data values used so far. -/
  freeCtr : Nat
  /-- The model's own: next identifier of a pending step. -/
  nextId  : Nat
  deriving DecidableEq, Repr

/-- Why the machine stops. No step of this model raises one: every exception of this hardware is taken
as a next state (R317-R326). Safe. -/
inductive Fault where
  /-- A stop with no exception the spec describes; raised by no meaning. Safe. -/
  | machineCheck
  deriving DecidableEq, Repr

/-- Why an instruction has no meaning here. -/
inductive Refusal where
  /-- The instruction's meaning has not been written; raised by an arm of `exec` only. Safe. -/
  | notModelled (mnemonic : String)
  deriving DecidableEq, Repr

/-- Fused latencies: DESIGN CHOICE 0 on the diagonal and 6 elsewhere, within R229 (log 1). -/
def lattFuses : Vector (Vector Nat 8) 8 :=
  #v[#v[0, 6, 6, 6, 6, 6, 6, 6], #v[6, 0, 6, 6, 6, 6, 6, 6], #v[6, 6, 0, 6, 6, 6, 6, 6],
     #v[6, 6, 6, 0, 6, 6, 6, 6], #v[6, 6, 6, 6, 0, 6, 6, 6], #v[6, 6, 6, 6, 6, 0, 6, 6],
     #v[6, 6, 6, 6, 6, 6, 0, 6], #v[6, 6, 6, 6, 6, 6, 6, 0]]

/-- Units of Stratus time in a nanosecond: a cycle of every clock code is a whole number of them (R351). -/
def unitsPerNs : Nat := 144403552893600

/-- The governor's window of 100 µs (R352). -/
def windowSpan : Nat := 100000 * unitsPerNs

/-- The registers of BAR0 at reset (R302, R292, R351, R366-R374). -/
def HostRegs.reset : HostRegs where
  frbase := 0
  frctl := 0
  frhead := 0
  frtail := 0
  frlost := 0
  ctxbase := 0
  tinvBusy := false
  tinvPinned := false
  pdl := 0x01000000
  prstCid := 0
  prstRes := 0
  dbres := 0
  dage := 0x01000000
  pwctl := 0x0100000004000000
  clk := 16
  ipkg := 0
  excr := 0
  excf := 0
  tlbase := 0
  tlctl := 256000
  tlhead := 0
  lock := false
  offs := 0
  drstDie := 0
  drstState := 0
  drstForced := false
  drstCur := 0
  drstMark := 0
  drdl := 0x00100000
  mop := 0
  marg := Vector.replicate 3 0
  mbusy := false
  mresult := 0
  ready0 := 0
  ready1 := 0
  errhead := 0
  cecnt := Vector.replicate 8 0
  errrec := Vector.replicate 16 (0, 0, 0, 0)
  replica := Vector.replicate 16 (0, 0)
  hostUp := true
  portUp := Vector.replicate 12 false
  portRetry := Vector.replicate 12 0
  portDowns := Vector.replicate 12 0

/-- A mailbox at reset: CTRL reads D3ID 0xFFFF, the rest zero (R288). -/
def Mail.reset : Mail :=
  ⟨(Vector.replicate 8 0).set 3 0x1FFFE0000, .empty, 0, MailReq.zero, 0⟩

/-- A closed queue pair (R327). -/
def Qp.reset : Qp := ⟨false, false, 0, 0, 0, 0, 0, 0, 0, []⟩

/-- An unassigned counter (R327). -/
def Cnt.reset : Cnt := ⟨0, false, 0⟩

/-- An MTU with nothing cached (R308, R379). -/
def Mtu.reset : Mtu := ⟨[], [], [], []⟩

/-- The state right after device reset (R228, R379): count 0, every core idle, memory with nothing
listed, every register at its Reset value. -/
def State.reset : State where
  zc := 0
  latt := lattFuses
  dev := 0
  cores := Vector.replicate 64 Core.reset
  mem := []
  home := []
  rdc := Vector.replicate 2 []
  cells := Vector.replicate 4 []
  allocAt := Vector.replicate 4 0
  view := Vector.replicate 4 64
  nbDepth := 0
  nbView := 0
  mtu := Vector.replicate 4 Mtu.reset
  regs := HostRegs.reset
  mail := Vector.replicate 64 Mail.reset
  runs := []
  pins := []
  images := []
  qps := []
  cnts := []
  ranks := []
  helds := []
  ended := []
  arrivals := []
  gov := ⟨0, false, 0, 0, none, 0, [], [], 0, windowSpan, 0, 0, Vector.replicate 8 0, Vector.replicate 8 0, false, 0, 0,
    Vector.replicate 8 0, Vector.replicate 8 0, [], 0⟩
  time := 0
  ptp := 0
  sent := []
  energy := Vector.replicate 8 0
  fill := 0
  work := []
  filler := []
  pop := Vector.replicate 64 2
  trust := ⟨none, none, 0, none⟩
  flits := Vector.replicate 12 0
  msix := []
  vecMask := BitVec.allOnes 2048
  vecPend := 0
  outbox := []
  ackHeld := []
  replies := []
  turn := ⟨0, .c, ⟨false, ⟨false, false, false, false⟩, 0⟩⟩
  ev := ⟨0, 0, [], []⟩
  todo := []
  agenda := []
  inbox := []
  choices := []
  freeCtr := 0
  nextId := 0

end Sys2Proof.Machine
end

