-- ==== Sys2Proof/WellFormed.lean ====
section
/-!
DEFINITION. Which instructions are well formed: the limits of R81 and of the opcode maps that the
operand types do not already carry. A word whose fields break one of them is an illegal encoding
(R87).
-/

namespace Sys2Proof

/-- The CSR numbers of R26; every other number is an illegal encoding. -/
def csrNumbers : List Nat :=
  [0x000, 0x001, 0x002, 0x003, 0x004, 0x008, 0x009, 0x010, 0x011, 0x012]
    ++ [0x020, 0x021, 0x022, 0x023, 0x024, 0x025, 0x026, 0x027]
    ++ [0x028, 0x029, 0x02A, 0x02B, 0x02C, 0x02D, 0x02E, 0x02F]
    ++ [0x030, 0x031, 0x032, 0x033, 0x034, 0x035, 0x036, 0x037]
    ++ [0x040, 0x041, 0x042, 0x043, 0x044, 0x045, 0x046, 0x047]
    ++ [0x050, 0x051, 0x052, 0x053, 0x054, 0x055, 0x056, 0x057]

/-- A CSR number is listed in R26. -/
def csrListed (n : BitVec 12) : Bool := csrNumbers.contains n.toNat

/-- The first of four consecutive g registers (R81). -/
def quadOk (r : Fin 64) : Bool := 1 ≤ r.val && r.val ≤ 60

/-- The first of a pair of g registers (R81). -/
def pairOk (r : Fin 64) : Bool := 1 ≤ r.val && r.val ≤ 62

/-- An accumulator tile a0-a11 (R81). -/
def tileOk (t : Fin 16) : Bool := t.val < 12

/-- RANGE carries a pair of registers; without it the field is unused and zero (R84). -/
def rangeOk (range : Bool) (q : Fin 64) : Bool := if range then pairOk q else q.val == 0

/-- A token field that only CHK = 1 uses (R86). -/
def chkOk (chk : Bool) (k : Fin 64) : Bool := chk || k.val == 0

/-- The limits of R81-R86 and R103 on the operands of an instruction; an event has none. -/
def Instr.wf : Instr → Bool
  | .loop _ _ _ len => len.toNat != 0
  | .loopX _ _ _ ns len => len.toNat != 0 && len.toNat % (ns.val + 1) == 0
  | .csrr _ n | .csrw _ n | .csrs _ n | .csrc _ n => csrListed n
  | .klaunch a _ => quadOk a
  | .nbqr _ a _ | .nbrot _ a _ | .nbcarry _ a _ _ | .nbswitch _ a _ => quadOk a
  | .ldacq _ _ _ range q | .strel _ _ _ range q => rangeOk range q
  | .cpCopy _ q | .cpSumFold _ q _ | .cpSumCrc _ q _ | .cpFill _ q _ | .cpLink _ q
  | .cpLinkFold _ q _ | .cpLinkCrc _ q _ | .cpTileTo _ q _ | .cpTileFrom _ q _ => quadOk q
  | .amoCas _ x _ _ => pairOk x
  | .amorAdd _ q _ | .amorMin _ q _ | .amorMax _ q _ | .amorOr _ q _ | .amorAnd _ q _
  | .amorXchg _ q _ | .amorCas _ q _ => quadOk q
  | .cqPost _ q | .cqArm _ q | .cntAdd _ q | .cntWait _ q | .rlInv _ q => quadOk q
  | .vcvt _ _ code _ _ => !(11 ≤ code.val && code.val ≤ 13)
  | .vcvts _ _ _ code => 1 ≤ code.val && code.val ≤ 8
  | .dqpush _ _ _ n => n.toNat ≤ 2
  | .vaccrd _ t _ _ _ => tileOk t
  | .vaccwr t _ _ _ => tileOk t
  | .mxMma _ _ chk k | .mxMmat _ _ chk k | .mxMmac _ _ chk k => chkOk chk k
  | .mxZero t => tileOk t
  | _ => true

end Sys2Proof
end

