-- ==== Sys2Proof/Decode.lean ====
section
/-!
DEFINITION. The decoder of instruction words under the map of each cluster (R75, R82-R87), total
on any word and answering `none` for an illegal encoding, and the encoder written from the same
tables.
-/

namespace Sys2Proof

/-- A register or code field of `n` values whose low bit is bit `lo` of the word. -/
def fld (w lo n : Nat) [NeZero n] : Fin n := Fin.ofNat n (w / 2 ^ lo)

/-- A one-bit field. -/
def bit (w lo : Nat) : Bool := w / 2 ^ lo % 2 == 1


/-- The C map (R82, R83): fields of the word as a number; the limits of R81 are `Instr.wf`. -/
def parseC (w : Nat) : Option Instr :=
  match w / 2 ^ 21 % 64 with
  | 0 =>
    if w % 2 ^ 21 = 0 then some .nop
    else none
  | 1 =>
    if w / 2 ^ 12 % 2 ^ 1 = 0 then some (.loop (fld w 20 2) (bit w 19) (fld w 13 64) (BitVec.ofNat 12 (w / 2 ^ 0)))
    else none
  | 2 =>
    if w % 2 ^ 13 = 0 ∧ w / 2 ^ 19 % 2 ^ 1 = 0 then some (.lbreak (fld w 20 2) (fld w 13 64))
    else if w % 2 ^ 20 = 524288 then some (.lbreakA (fld w 20 2))
    else none
  | 3 =>
    if w % 2 ^ 15 = 0 then some (.waitk (fld w 15 64))
    else none
  | 4 =>
    if w % 2 ^ 3 = 0 then some (.add (fld w 15 64) (fld w 9 64) (fld w 3 64))
    else if w % 2 ^ 3 = 1 then some (.sub (fld w 15 64) (fld w 9 64) (fld w 3 64))
    else if w % 2 ^ 3 = 2 then some (.and (fld w 15 64) (fld w 9 64) (fld w 3 64))
    else if w % 2 ^ 3 = 3 then some (.or (fld w 15 64) (fld w 9 64) (fld w 3 64))
    else if w % 2 ^ 3 = 4 then some (.xor (fld w 15 64) (fld w 9 64) (fld w 3 64))
    else if w % 2 ^ 3 = 5 then some (.andn (fld w 15 64) (fld w 9 64) (fld w 3 64))
    else if w % 2 ^ 3 = 6 then some (.shl (fld w 15 64) (fld w 9 64) (fld w 3 64))
    else if w % 2 ^ 3 = 7 then some (.shr (fld w 15 64) (fld w 9 64) (fld w 3 64))
    else none
  | 5 =>
    if w % 2 ^ 3 = 0 then some (.sha (fld w 15 64) (fld w 9 64) (fld w 3 64))
    else if w % 2 ^ 3 = 1 then some (.rol (fld w 15 64) (fld w 9 64) (fld w 3 64))
    else if w % 2 ^ 3 = 2 then some (.min (fld w 15 64) (fld w 9 64) (fld w 3 64))
    else if w % 2 ^ 3 = 3 then some (.max (fld w 15 64) (fld w 9 64) (fld w 3 64))
    else if w % 2 ^ 3 = 4 then some (.minn (fld w 15 64) (fld w 9 64) (fld w 3 64))
    else if w % 2 ^ 3 = 5 then some (.maxn (fld w 15 64) (fld w 9 64) (fld w 3 64))
    else if w % 2 ^ 3 = 6 then some (.mul (fld w 15 64) (fld w 9 64) (fld w 3 64))
    else if w % 2 ^ 3 = 7 then some (.mulh (fld w 15 64) (fld w 9 64) (fld w 3 64))
    else none
  | 6 =>
    if w % 2 ^ 3 = 0 then some (.mulhn (fld w 15 64) (fld w 9 64) (fld w 3 64))
    else if w % 2 ^ 3 = 1 then some (.div (fld w 15 64) (fld w 9 64) (fld w 3 64))
    else if w % 2 ^ 3 = 2 then some (.divn (fld w 15 64) (fld w 9 64) (fld w 3 64))
    else if w % 2 ^ 3 = 3 then some (.rem (fld w 15 64) (fld w 9 64) (fld w 3 64))
    else if w % 2 ^ 3 = 4 then some (.remn (fld w 15 64) (fld w 9 64) (fld w 3 64))
    else if w % 2 ^ 9 = 5 then some (.clz (fld w 15 64) (fld w 9 64))
    else if w % 2 ^ 9 = 6 then some (.ctz (fld w 15 64) (fld w 9 64))
    else if w % 2 ^ 9 = 7 then some (.popc (fld w 15 64) (fld w 9 64))
    else none
  | 7 =>
    if w % 2 ^ 3 = 0 then some (.sext (fld w 15 64) (fld w 9 64) (fld w 3 64))
    else if w % 2 ^ 3 = 1 then some (.zext (fld w 15 64) (fld w 9 64) (fld w 3 64))
    else if w % 2 ^ 3 = 2 then some (.addsh (fld w 15 64) (fld w 9 64) (fld w 3 64))
    else if w % 2 ^ 3 = 3 then some (.sel (fld w 15 64) (fld w 9 64) (fld w 3 64))
    else none
  | 8 =>
    some (.addi (fld w 15 64) (fld w 9 64) (BitVec.ofNat 9 (w / 2 ^ 0)))
  | 9 =>
    some (.andi (fld w 15 64) (fld w 9 64) (BitVec.ofNat 9 (w / 2 ^ 0)))
  | 10 =>
    some (.ori (fld w 15 64) (fld w 9 64) (BitVec.ofNat 9 (w / 2 ^ 0)))
  | 11 =>
    some (.xori (fld w 15 64) (fld w 9 64) (BitVec.ofNat 9 (w / 2 ^ 0)))
  | 12 =>
    if w / 2 ^ 6 % 2 ^ 3 = 0 then some (.shli (fld w 15 64) (fld w 9 64) (BitVec.ofNat 6 (w / 2 ^ 0)))
    else none
  | 13 =>
    if w / 2 ^ 6 % 2 ^ 3 = 0 then some (.shri (fld w 15 64) (fld w 9 64) (BitVec.ofNat 6 (w / 2 ^ 0)))
    else none
  | 14 =>
    if w / 2 ^ 6 % 2 ^ 3 = 0 then some (.shai (fld w 15 64) (fld w 9 64) (BitVec.ofNat 6 (w / 2 ^ 0)))
    else none
  | 15 =>
    some (.li (fld w 15 64) (BitVec.ofNat 15 (w / 2 ^ 0)))
  | 16 =>
    some (.lih (fld w 15 64) (BitVec.ofNat 15 (w / 2 ^ 0)))
  | 17 =>
    if w % 2 ^ 3 = 0 then some (.cmpEq (fld w 15 64) (fld w 9 64) (fld w 3 64))
    else if w % 2 ^ 3 = 1 then some (.cmpNe (fld w 15 64) (fld w 9 64) (fld w 3 64))
    else if w % 2 ^ 3 = 2 then some (.cmpLt (fld w 15 64) (fld w 9 64) (fld w 3 64))
    else if w % 2 ^ 3 = 3 then some (.cmpLe (fld w 15 64) (fld w 9 64) (fld w 3 64))
    else if w % 2 ^ 3 = 4 then some (.cmpLtn (fld w 15 64) (fld w 9 64) (fld w 3 64))
    else if w % 2 ^ 3 = 5 then some (.cmpLen (fld w 15 64) (fld w 9 64) (fld w 3 64))
    else none
  | 18 =>
    if w % 2 ^ 3 = 0 then some (.cmpiEq (fld w 15 64) (fld w 9 64) (BitVec.ofNat 6 (w / 2 ^ 3)))
    else if w % 2 ^ 3 = 1 then some (.cmpiNe (fld w 15 64) (fld w 9 64) (BitVec.ofNat 6 (w / 2 ^ 3)))
    else if w % 2 ^ 3 = 2 then some (.cmpiLt (fld w 15 64) (fld w 9 64) (BitVec.ofNat 6 (w / 2 ^ 3)))
    else if w % 2 ^ 3 = 3 then some (.cmpiLe (fld w 15 64) (fld w 9 64) (BitVec.ofNat 6 (w / 2 ^ 3)))
    else if w % 2 ^ 3 = 4 then some (.cmpiLtn (fld w 15 64) (fld w 9 64) (BitVec.ofNat 6 (w / 2 ^ 3)))
    else if w % 2 ^ 3 = 5 then some (.cmpiLen (fld w 15 64) (fld w 9 64) (BitVec.ofNat 6 (w / 2 ^ 3)))
    else none
  | 20 =>
    some (.pbr (fld w 18 8) (BitVec.ofNat 18 (w / 2 ^ 0)))
  | 21 =>
    if w % 2 ^ 12 = 0 then some (.pbrg (fld w 18 8) (fld w 12 64))
    else none
  | 22 =>
    if w % 2 ^ 12 = 1 then some (.brT (fld w 18 8) (fld w 12 64))
    else if w % 2 ^ 12 = 2 then some (.brZ (fld w 18 8) (fld w 12 64))
    else if w % 2 ^ 18 = 3 then some (.brA (fld w 18 8))
    else none
  | 23 =>
    if w % 2 ^ 18 = 0 then some (.call (fld w 18 8))
    else none
  | 24 =>
    if w % 2 ^ 21 = 0 then some .ret
    else none
  | 25 =>
    if w / 2 ^ 9 % 2 ^ 12 = 0 then some (.trap (BitVec.ofNat 9 (w / 2 ^ 0)))
    else none
  | 26 =>
    if w % 2 ^ 21 = 0 then some .rett
    else none
  | 27 =>
    if w / 2 ^ 12 % 2 ^ 3 = 0 then some (.csrr (fld w 15 64) (BitVec.ofNat 12 (w / 2 ^ 0)))
    else none
  | 28 =>
    if w / 2 ^ 12 % 2 ^ 3 = 0 then some (.csrw (fld w 15 64) (BitVec.ofNat 12 (w / 2 ^ 0)))
    else none
  | 29 =>
    if w / 2 ^ 12 % 2 ^ 3 = 0 then some (.csrs (fld w 15 64) (BitVec.ofNat 12 (w / 2 ^ 0)))
    else if w / 2 ^ 12 % 2 ^ 3 = 1 then some (.csrc (fld w 15 64) (BitVec.ofNat 12 (w / 2 ^ 0)))
    else none
  | 30 =>
    if w / 2 ^ 8 % 2 ^ 13 = 0 then some (.yield (BitVec.ofNat 8 (w / 2 ^ 0)))
    else none
  | 31 =>
    if w % 2 ^ 2 = 1 ∧ w / 2 ^ 3 % 2 ^ 6 = 0 then some (.probeR (fld w 15 64) (fld w 9 64) (bit w 2))
    else if w % 2 ^ 2 = 2 ∧ w / 2 ^ 3 % 2 ^ 6 = 0 then some (.probeW (fld w 15 64) (fld w 9 64) (bit w 2))
    else if w % 2 ^ 2 = 3 ∧ w / 2 ^ 3 % 2 ^ 6 = 0 then some (.probeRw (fld w 15 64) (fld w 9 64) (bit w 2))
    else none
  | 32 =>
    if w % 2 ^ 9 = 0 then some (.unpin (fld w 15 64) (fld w 9 64))
    else none
  | 33 =>
    if w % 2 ^ 9 = 0 ∧ w / 2 ^ 15 % 2 ^ 6 = 0 then some (.realign (fld w 9 64))
    else none
  | 34 =>
    if w / 2 ^ 2 % 2 ^ 19 = 0 then some (.phase (fld w 0 4))
    else none
  | 35 =>
    if w / 2 ^ 2 % 2 ^ 19 = 0 then some (.domsync (fld w 0 4))
    else none
  | 36 =>
    if w % 2 ^ 21 = 0 then some .stepadv
    else none
  | 37 =>
    if w / 2 ^ 6 % 2 ^ 3 = 0 ∧ w / 2 ^ 15 % 2 ^ 6 = 0 then some (.klaunch (fld w 9 64) (fld w 0 64))
    else none
  | 38 =>
    if w % 2 ^ 21 = 0 then some .kend
    else none
  | 39 =>
    if w % 2 ^ 15 = 0 then some (.tkZero (fld w 15 64))
    else if w % 2 ^ 3 = 1 then some (.tkJoin (fld w 15 64) (fld w 9 64) (fld w 3 64))
    else if w % 2 ^ 9 = 2 then some (.tkTest (fld w 15 64) (fld w 9 64))
    else none
  | 40 =>
    if w % 2 ^ 3 = 0 ∧ w / 2 ^ 6 % 2 ^ 3 = 0 then some (.shapeAlloc (fld w 15 64) (fld w 9 64) (fld w 3 8))
    else if w % 2 ^ 3 = 1 ∧ w / 2 ^ 6 % 2 ^ 9 = 0 then some (.shapeFree (fld w 15 64) (fld w 3 8))
    else if w % 2 ^ 3 = 2 then some (.shapeCut (fld w 15 64) (fld w 9 64) (fld w 6 8) (fld w 3 8))
    else if w % 2 ^ 3 = 3 ∧ w / 2 ^ 9 % 2 ^ 6 = 0 then some (.shapeChain (fld w 15 64) (fld w 6 8) (fld w 3 8))
    else if w % 2 ^ 3 = 4 ∧ w / 2 ^ 6 % 2 ^ 9 = 0 then some (.shapeQry (fld w 15 64) (fld w 3 8))
    else none
  | 41 =>
    if w / 2 ^ 3 % 2 ^ 6 = 0 ∧ w / 2 ^ 19 % 2 ^ 2 = 0 then some (.cbset (fld w 15 16) (fld w 9 64) (fld w 0 8))
    else none
  | 42 =>
    if w % 2 ^ 15 = 0 ∧ w / 2 ^ 19 % 2 ^ 2 = 0 then some (.cbclr (fld w 15 16))
    else none
  | 43 =>
    if w / 2 ^ 6 % 2 ^ 3 = 0 ∧ w / 2 ^ 19 % 2 ^ 2 = 0 then some (.hbload (fld w 15 16) (fld w 9 64) (fld w 0 64))
    else none
  | 44 =>
    if w / 2 ^ 6 % 2 ^ 3 = 0 ∧ w / 2 ^ 19 % 2 ^ 2 = 0 then some (.hbstore (fld w 15 16) (fld w 9 64) (fld w 0 64))
    else none
  | 45 =>
    if w % 2 ^ 9 = 0 ∧ w / 2 ^ 19 % 2 ^ 2 = 0 then some (.hseed (fld w 15 16) (fld w 9 64))
    else none
  | 46 =>
    if w / 2 ^ 4 % 2 ^ 5 = 0 then some (.nbqr (fld w 15 64) (fld w 9 64) (fld w 0 16))
    else none
  | 47 =>
    if w / 2 ^ 4 % 2 ^ 5 = 0 then some (.nbrot (fld w 15 64) (fld w 9 64) (fld w 0 16))
    else none
  | 48 =>
    if w / 2 ^ 5 % 2 ^ 4 = 0 then some (.nbcarry (fld w 15 64) (fld w 9 64) (bit w 4) (fld w 0 16))
    else none
  | 49 =>
    if w / 2 ^ 4 % 2 ^ 5 = 0 then some (.nbswitch (fld w 15 64) (fld w 9 64) (fld w 0 16))
    else none
  | _ => none

/-- The L map (R82, R84). -/
def parseL (w : Nat) : Option Instr :=
  match w / 2 ^ 21 % 64 with
  | 0 =>
    if w % 2 ^ 21 = 0 then some .nop
    else none
  | 1 =>
    if w / 2 ^ 12 % 2 ^ 1 = 0 then some (.loop (fld w 20 2) (bit w 19) (fld w 13 64) (BitVec.ofNat 12 (w / 2 ^ 0)))
    else none
  | 2 =>
    if w % 2 ^ 13 = 0 ∧ w / 2 ^ 19 % 2 ^ 1 = 0 then some (.lbreak (fld w 20 2) (fld w 13 64))
    else if w % 2 ^ 20 = 524288 then some (.lbreakA (fld w 20 2))
    else none
  | 3 =>
    if w % 2 ^ 15 = 0 then some (.waitk (fld w 15 64))
    else none
  | 4 =>
    some (.ld (fld w 17 16) (fld w 13 16) (BitVec.ofNat 13 (w / 2 ^ 0)))
  | 5 =>
    (LdSize.ofCode (w / 2 ^ 8 % 8)).map fun sz => (.lds (fld w 17 16) (fld w 11 64) sz (BitVec.ofNat 8 (w / 2 ^ 0)))
  | 6 =>
    if w % 2 ^ 7 = 0 then some (.ldgStride (fld w 17 16) (fld w 13 16) (fld w 7 64))
    else if w / 2 ^ 4 % 2 ^ 3 = 1 then some (.ldgGather (fld w 17 16) (fld w 13 16) (fld w 7 64) (fld w 0 16))
    else none
  | 7 =>
    if w / 2 ^ 5 % 2 ^ 2 = 0 then some (.lda (fld w 17 16) (fld w 13 16) (fld w 7 64) (fld w 0 32))
    else none
  | 8 =>
    if w / 2 ^ 5 % 2 ^ 2 = 0 then some (.chka (fld w 17 16) (fld w 13 16) (fld w 7 64) (fld w 0 32))
    else none
  | 9 =>
    if w / 2 ^ 6 % 2 ^ 5 = 0 then some (.ldb (fld w 17 16) (fld w 11 64) (BitVec.ofNat 6 (w / 2 ^ 0)))
    else none
  | 10 =>
    if w / 2 ^ 6 % 2 ^ 2 = 0 then (LdSize.ofCode (w / 2 ^ 8 % 8)).map fun sz => (.lsg (fld w 17 16) (fld w 11 64) sz (fld w 0 64))
    else none
  | 11 =>
    if w / 2 ^ 7 % 2 ^ 1 = 0 then (Scope.ofCode (w / 2 ^ 8 % 8)).map fun sc => (.ldacq (fld w 17 16) (fld w 11 64) sc (bit w 6) (fld w 0 64))
    else none
  | 12 =>
    if w / 2 ^ 1 % 2 ^ 6 = 0 then some (.ltv (fld w 17 16) (fld w 13 16) (fld w 7 64) (fld w 0 2))
    else none
  | 13 =>
    if w % 2 ^ 21 = 0 then some .markL
    else none
  | 14 =>
    if w / 2 ^ 6 % 2 ^ 7 = 0 ∧ w / 2 ^ 17 % 2 ^ 4 = 0 then some (.laSet (fld w 13 16) (fld w 0 64))
    else if w / 2 ^ 17 % 2 ^ 4 = 1 then some (.laAdd (fld w 13 16) (BitVec.ofNat 13 (w / 2 ^ 0)))
    else if w / 2 ^ 6 % 2 ^ 7 = 0 ∧ w / 2 ^ 17 % 2 ^ 4 = 2 then some (.laAddg (fld w 13 16) (fld w 0 64))
    else none
  | 15 =>
    if w % 2 ^ 11 = 0 then some (.verchk (fld w 17 16) (fld w 11 64))
    else none
  | 16 =>
    if w % 2 ^ 9 = 0 then some (.cpCopy (fld w 15 64) (fld w 9 64))
    else none
  | 17 =>
    if w % 2 ^ 1 = 0 ∧ w / 2 ^ 2 % 2 ^ 7 = 0 then some (.cpSumFold (fld w 15 64) (fld w 9 64) (bit w 1))
    else if w % 2 ^ 1 = 1 ∧ w / 2 ^ 2 % 2 ^ 7 = 0 then some (.cpSumCrc (fld w 15 64) (fld w 9 64) (bit w 1))
    else none
  | 18 =>
    if w / 2 ^ 2 % 2 ^ 7 = 0 then (StSize.ofCode (w / 2 ^ 0 % 4)).map fun width => (.cpFill (fld w 15 64) (fld w 9 64) width)
    else none
  | 19 =>
    if w % 2 ^ 9 = 0 then some (.cpLink (fld w 15 64) (fld w 9 64))
    else if w % 2 ^ 2 = 1 ∧ w / 2 ^ 3 % 2 ^ 6 = 0 then some (.cpLinkFold (fld w 15 64) (fld w 9 64) (bit w 2))
    else if w % 2 ^ 2 = 3 ∧ w / 2 ^ 3 % 2 ^ 6 = 0 then some (.cpLinkCrc (fld w 15 64) (fld w 9 64) (bit w 2))
    else none
  | 20 =>
    if w % 2 ^ 1 = 0 ∧ w / 2 ^ 2 % 2 ^ 7 = 0 then some (.cpTileTo (fld w 15 64) (fld w 9 64) (fld w 1 2))
    else if w % 2 ^ 1 = 1 ∧ w / 2 ^ 2 % 2 ^ 7 = 0 then some (.cpTileFrom (fld w 15 64) (fld w 9 64) (fld w 1 2))
    else none
  | _ => none

/-- The W map (R82, R85). -/
def parseW (w : Nat) : Option Instr :=
  match w / 2 ^ 21 % 64 with
  | 0 =>
    if w % 2 ^ 21 = 0 then some .nop
    else none
  | 1 =>
    if w / 2 ^ 12 % 2 ^ 1 = 0 then some (.loop (fld w 20 2) (bit w 19) (fld w 13 64) (BitVec.ofNat 12 (w / 2 ^ 0)))
    else none
  | 2 =>
    if w % 2 ^ 13 = 0 ∧ w / 2 ^ 19 % 2 ^ 1 = 0 then some (.lbreak (fld w 20 2) (fld w 13 64))
    else if w % 2 ^ 20 = 524288 then some (.lbreakA (fld w 20 2))
    else none
  | 3 =>
    if w % 2 ^ 15 = 0 then some (.waitk (fld w 15 64))
    else none
  | 4 =>
    some (.st (fld w 17 16) (fld w 13 16) (BitVec.ofNat 13 (w / 2 ^ 0)))
  | 5 =>
    if w / 2 ^ 10 % 2 ^ 1 = 0 then (StSize.ofCode (w / 2 ^ 8 % 4)).map fun sz => (.sts (fld w 17 16) (fld w 11 64) sz (BitVec.ofNat 8 (w / 2 ^ 0)))
    else none
  | 6 =>
    if w % 2 ^ 7 = 0 then some (.stxStride (fld w 17 16) (fld w 13 16) (fld w 7 64))
    else if w / 2 ^ 4 % 2 ^ 3 = 1 then some (.stxScatter (fld w 17 16) (fld w 13 16) (fld w 7 64) (fld w 0 16))
    else none
  | 7 =>
    if w / 2 ^ 1 % 2 ^ 6 = 0 then some (.stt (fld w 17 16) (fld w 13 16) (fld w 7 64) (fld w 0 2))
    else none
  | 8 =>
    if w / 2 ^ 6 % 2 ^ 2 = 0 ∧ w / 2 ^ 10 % 2 ^ 1 = 0 then (StSize.ofCode (w / 2 ^ 8 % 4)).map fun sz => (.ssg (fld w 17 16) (fld w 11 64) sz (fld w 0 64))
    else none
  | 9 =>
    if w / 2 ^ 7 % 2 ^ 1 = 0 then (Scope.ofCode (w / 2 ^ 8 % 8)).map fun sc => (.strel (fld w 17 16) (fld w 11 64) sc (bit w 6) (fld w 0 64))
    else none
  | 10 =>
    if w % 2 ^ 21 = 0 then some .markW
    else none
  | 11 =>
    if w % 2 ^ 8 = 0 ∧ w / 2 ^ 11 % 2 ^ 10 = 0 then (Scope.ofCode (w / 2 ^ 8 % 8)).map fun sc => (.fence sc)
    else none
  | 12 =>
    if w % 2 ^ 2 = 0 then (CmoLevel.ofCode (w / 2 ^ 8 % 8)).map fun lvl => (.cmoClean (fld w 17 16) (fld w 11 64) lvl (fld w 2 64))
    else if w % 2 ^ 2 = 1 then (CmoLevel.ofCode (w / 2 ^ 8 % 8)).map fun lvl => (.cmoInv (fld w 17 16) (fld w 11 64) lvl (fld w 2 64))
    else if w % 2 ^ 2 = 2 then (CmoLevel.ofCode (w / 2 ^ 8 % 8)).map fun lvl => (.cmoClinv (fld w 17 16) (fld w 11 64) lvl (fld w 2 64))
    else none
  | 13 =>
    if w / 2 ^ 17 % 2 ^ 4 = 0 then some (.amoAdd (fld w 13 16) (fld w 7 64) (bit w 6) (fld w 0 64))
    else if w / 2 ^ 17 % 2 ^ 4 = 1 then some (.amoMin (fld w 13 16) (fld w 7 64) (bit w 6) (fld w 0 64))
    else if w / 2 ^ 17 % 2 ^ 4 = 2 then some (.amoMax (fld w 13 16) (fld w 7 64) (bit w 6) (fld w 0 64))
    else if w / 2 ^ 17 % 2 ^ 4 = 3 then some (.amoOr (fld w 13 16) (fld w 7 64) (bit w 6) (fld w 0 64))
    else if w / 2 ^ 17 % 2 ^ 4 = 4 then some (.amoAnd (fld w 13 16) (fld w 7 64) (bit w 6) (fld w 0 64))
    else if w / 2 ^ 17 % 2 ^ 4 = 5 then some (.amoXchg (fld w 13 16) (fld w 7 64) (bit w 6) (fld w 0 64))
    else if w / 2 ^ 17 % 2 ^ 4 = 6 then some (.amoCas (fld w 13 16) (fld w 7 64) (bit w 6) (fld w 0 64))
    else none
  | 14 =>
    if w % 2 ^ 3 = 0 ∧ w / 2 ^ 4 % 2 ^ 5 = 0 then some (.amorAdd (fld w 15 64) (fld w 9 64) (bit w 3))
    else if w % 2 ^ 3 = 1 ∧ w / 2 ^ 4 % 2 ^ 5 = 0 then some (.amorMin (fld w 15 64) (fld w 9 64) (bit w 3))
    else if w % 2 ^ 3 = 2 ∧ w / 2 ^ 4 % 2 ^ 5 = 0 then some (.amorMax (fld w 15 64) (fld w 9 64) (bit w 3))
    else if w % 2 ^ 3 = 3 ∧ w / 2 ^ 4 % 2 ^ 5 = 0 then some (.amorOr (fld w 15 64) (fld w 9 64) (bit w 3))
    else if w % 2 ^ 3 = 4 ∧ w / 2 ^ 4 % 2 ^ 5 = 0 then some (.amorAnd (fld w 15 64) (fld w 9 64) (bit w 3))
    else if w % 2 ^ 3 = 5 ∧ w / 2 ^ 4 % 2 ^ 5 = 0 then some (.amorXchg (fld w 15 64) (fld w 9 64) (bit w 3))
    else if w % 2 ^ 3 = 6 ∧ w / 2 ^ 4 % 2 ^ 5 = 0 then some (.amorCas (fld w 15 64) (fld w 9 64) (bit w 3))
    else none
  | 15 =>
    if w / 2 ^ 6 % 2 ^ 7 = 0 ∧ w / 2 ^ 17 % 2 ^ 4 = 0 then some (.waSet (fld w 13 16) (fld w 0 64))
    else if w / 2 ^ 17 % 2 ^ 4 = 1 then some (.waAdd (fld w 13 16) (BitVec.ofNat 13 (w / 2 ^ 0)))
    else if w / 2 ^ 6 % 2 ^ 7 = 0 ∧ w / 2 ^ 17 % 2 ^ 4 = 2 then some (.waAddg (fld w 13 16) (fld w 0 64))
    else none
  | 16 =>
    if w % 2 ^ 9 = 0 then some (.cqPost (fld w 15 64) (fld w 9 64))
    else none
  | 17 =>
    if w % 2 ^ 9 = 0 then some (.cqArm (fld w 15 64) (fld w 9 64))
    else none
  | 18 =>
    if w % 2 ^ 9 = 0 then some (.cntAdd (fld w 15 64) (fld w 9 64))
    else none
  | 19 =>
    if w % 2 ^ 9 = 0 then some (.cntWait (fld w 15 64) (fld w 9 64))
    else none
  | 20 =>
    if w % 2 ^ 9 = 0 then some (.rlInv (fld w 15 64) (fld w 9 64))
    else none
  | _ => none

/-- The X map (R82, R86). -/
def parseX (w : Nat) : Option Instr :=
  match w / 2 ^ 18 % 64 with
  | 0 =>
    if w % 2 ^ 18 = 0 then some .nopX
    else none
  | 1 =>
    some (.loopX (fld w 17 2) (bit w 16) (fld w 12 16) (fld w 9 8) (BitVec.ofNat 9 (w / 2 ^ 0)))
  | 2 =>
    if w % 2 ^ 12 = 0 ∧ w / 2 ^ 16 % 2 ^ 1 = 0 then some (.lbreakX (fld w 17 2) (fld w 12 16))
    else if w % 2 ^ 17 = 65536 then some (.lbreakAX (fld w 17 2))
    else none
  | 3 =>
    if w % 2 ^ 12 = 0 then some (.waitkX (fld w 12 64))
    else none
  | 4 =>
    some (.vadd (fld w 14 16) (fld w 10 16) (fld w 6 16) (fld w 3 8) (fld w 0 8))
  | 5 =>
    some (.vsub (fld w 14 16) (fld w 10 16) (fld w 6 16) (fld w 3 8) (fld w 0 8))
  | 6 =>
    some (.vmul (fld w 14 16) (fld w 10 16) (fld w 6 16) (fld w 3 8) (fld w 0 8))
  | 7 =>
    some (.vfma (fld w 14 16) (fld w 10 16) (fld w 6 16) (fld w 3 8) (fld w 0 8))
  | 8 =>
    some (.vfms (fld w 14 16) (fld w 10 16) (fld w 6 16) (fld w 3 8) (fld w 0 8))
  | 9 =>
    some (.vfnma (fld w 14 16) (fld w 10 16) (fld w 6 16) (fld w 3 8) (fld w 0 8))
  | 10 =>
    some (.vmin (fld w 14 16) (fld w 10 16) (fld w 6 16) (fld w 3 8) (fld w 0 8))
  | 11 =>
    some (.vmax (fld w 14 16) (fld w 10 16) (fld w 6 16) (fld w 3 8) (fld w 0 8))
  | 12 =>
    if w / 2 ^ 6 % 2 ^ 4 = 0 then some (.vunNeg (fld w 14 16) (fld w 10 16) (fld w 3 8) (fld w 0 8))
    else if w / 2 ^ 6 % 2 ^ 4 = 1 then some (.vunAbs (fld w 14 16) (fld w 10 16) (fld w 3 8) (fld w 0 8))
    else if w / 2 ^ 6 % 2 ^ 4 = 2 then some (.vunRcp (fld w 14 16) (fld w 10 16) (fld w 3 8) (fld w 0 8))
    else if w / 2 ^ 6 % 2 ^ 4 = 3 then some (.vunRsq (fld w 14 16) (fld w 10 16) (fld w 3 8) (fld w 0 8))
    else if w / 2 ^ 6 % 2 ^ 4 = 4 then some (.vunSqrt (fld w 14 16) (fld w 10 16) (fld w 3 8) (fld w 0 8))
    else if w / 2 ^ 6 % 2 ^ 4 = 5 then some (.vunExp2 (fld w 14 16) (fld w 10 16) (fld w 3 8) (fld w 0 8))
    else if w / 2 ^ 6 % 2 ^ 4 = 6 then some (.vunLog2 (fld w 14 16) (fld w 10 16) (fld w 3 8) (fld w 0 8))
    else if w / 2 ^ 6 % 2 ^ 4 = 7 then some (.vunTanh (fld w 14 16) (fld w 10 16) (fld w 3 8) (fld w 0 8))
    else if w / 2 ^ 6 % 2 ^ 4 = 8 then some (.vunSigm (fld w 14 16) (fld w 10 16) (fld w 3 8) (fld w 0 8))
    else if w / 2 ^ 6 % 2 ^ 4 = 9 then some (.vunNot (fld w 14 16) (fld w 10 16) (fld w 3 8) (fld w 0 8))
    else none
  | 13 =>
    if w / 2 ^ 12 % 2 ^ 3 = 0 then some (.vcmpEq (fld w 15 8) (fld w 8 16) (fld w 4 16) (fld w 1 8) (bit w 0))
    else if w / 2 ^ 12 % 2 ^ 3 = 1 then some (.vcmpNe (fld w 15 8) (fld w 8 16) (fld w 4 16) (fld w 1 8) (bit w 0))
    else if w / 2 ^ 12 % 2 ^ 3 = 2 then some (.vcmpLt (fld w 15 8) (fld w 8 16) (fld w 4 16) (fld w 1 8) (bit w 0))
    else if w / 2 ^ 12 % 2 ^ 3 = 3 then some (.vcmpLe (fld w 15 8) (fld w 8 16) (fld w 4 16) (fld w 1 8) (bit w 0))
    else if w / 2 ^ 12 % 2 ^ 3 = 4 then some (.vcmpGt (fld w 15 8) (fld w 8 16) (fld w 4 16) (fld w 1 8) (bit w 0))
    else if w / 2 ^ 12 % 2 ^ 3 = 5 then some (.vcmpGe (fld w 15 8) (fld w 8 16) (fld w 4 16) (fld w 1 8) (bit w 0))
    else if w / 2 ^ 12 % 2 ^ 3 = 6 then some (.vcmpUo (fld w 15 8) (fld w 8 16) (fld w 4 16) (fld w 1 8) (bit w 0))
    else none
  | 14 =>
    some (.vsel (fld w 14 16) (fld w 10 16) (fld w 6 16) (fld w 3 8) (fld w 0 8))
  | 15 =>
    some (.vand (fld w 14 16) (fld w 10 16) (fld w 6 16) (fld w 3 8) (fld w 0 8))
  | 16 =>
    some (.vor (fld w 14 16) (fld w 10 16) (fld w 6 16) (fld w 3 8) (fld w 0 8))
  | 17 =>
    some (.vxor (fld w 14 16) (fld w 10 16) (fld w 6 16) (fld w 3 8) (fld w 0 8))
  | 18 =>
    some (.vshl (fld w 14 16) (fld w 10 16) (fld w 6 16) (fld w 3 8) (fld w 0 8))
  | 19 =>
    some (.vshr (fld w 14 16) (fld w 10 16) (fld w 6 16) (fld w 3 8) (fld w 0 8))
  | 20 =>
    some (.vsha (fld w 14 16) (fld w 10 16) (fld w 6 16) (fld w 3 8) (fld w 0 8))
  | 21 =>
    some (.vcvt (fld w 14 16) (fld w 10 16) (fld w 6 16) (fld w 3 8) (fld w 0 8))
  | 22 =>
    if w % 2 ^ 2 = 0 then some (.vcvts (fld w 14 16) (fld w 10 16) (fld w 6 16) (fld w 2 16))
    else none
  | 23 =>
    if w % 2 ^ 3 = 0 then some (.vcadd (fld w 14 16) (fld w 10 16) (fld w 6 16) (fld w 3 8))
    else none
  | 24 =>
    if w % 2 ^ 3 = 0 ∧ w / 2 ^ 6 % 2 ^ 4 = 0 then some (.vcsplit (fld w 14 16) (fld w 10 16) (fld w 3 8))
    else none
  | 25 =>
    if w / 2 ^ 3 % 2 ^ 3 = 0 then some (.vqdx (fld w 14 16) (fld w 10 16) (fld w 6 16) (fld w 0 8))
    else none
  | 26 =>
    if w / 2 ^ 3 % 2 ^ 3 = 0 then some (.vdqdx (fld w 14 16) (fld w 10 16) (fld w 6 16) (fld w 0 8))
    else none
  | 27 =>
    if w / 2 ^ 6 % 2 ^ 4 = 0 then some (.vredSum (fld w 14 16) (fld w 10 16) (fld w 3 8) (fld w 0 8))
    else if w / 2 ^ 6 % 2 ^ 4 = 1 then some (.vredMax (fld w 14 16) (fld w 10 16) (fld w 3 8) (fld w 0 8))
    else if w / 2 ^ 6 % 2 ^ 4 = 2 then some (.vredMin (fld w 14 16) (fld w 10 16) (fld w 3 8) (fld w 0 8))
    else none
  | 28 =>
    some (.vperm (fld w 14 16) (fld w 10 16) (fld w 6 16) (fld w 3 8) (fld w 0 8))
  | 29 =>
    some (.vrote (fld w 14 16) (fld w 10 16) (fld w 6 16) (fld w 3 8) (fld w 0 8))
  | 30 =>
    if w / 2 ^ 6 % 2 ^ 4 = 0 then some (.vbcast (fld w 14 16) (fld w 10 16) (fld w 3 8) (fld w 0 8))
    else none
  | 31 =>
    if w / 2 ^ 6 % 2 ^ 8 = 0 then some (.viota (fld w 14 16) (fld w 3 8) (fld w 0 8))
    else none
  | 32 =>
    some (.vmom1 (fld w 14 16) (fld w 10 16) (fld w 6 16) (fld w 3 8) (fld w 0 8))
  | 33 =>
    some (.vmom2 (fld w 14 16) (fld w 10 16) (fld w 6 16) (fld w 3 8) (fld w 0 8))
  | 34 =>
    some (.vadstep (fld w 14 16) (fld w 10 16) (fld w 6 16) (fld w 3 8) (fld w 0 8))
  | 35 =>
    if w % 2 ^ 3 = 0 ∧ w / 2 ^ 6 % 2 ^ 4 = 0 then some (.vrng (fld w 14 16) (fld w 10 16) (fld w 3 8))
    else none
  | 36 =>
    some (.vscalex (fld w 14 16) (fld w 10 16) (fld w 6 16) (fld w 3 8) (fld w 0 8))
  | 37 =>
    if w % 2 ^ 4 = 0 ∧ w / 2 ^ 7 % 2 ^ 1 = 0 ∧ w / 2 ^ 11 % 2 ^ 4 = 0 then some (.mlogAnd (fld w 15 8) (fld w 8 8) (fld w 4 8))
    else if w % 2 ^ 4 = 0 ∧ w / 2 ^ 7 % 2 ^ 1 = 0 ∧ w / 2 ^ 11 % 2 ^ 4 = 2 then some (.mlogOr (fld w 15 8) (fld w 8 8) (fld w 4 8))
    else if w % 2 ^ 4 = 0 ∧ w / 2 ^ 7 % 2 ^ 1 = 0 ∧ w / 2 ^ 11 % 2 ^ 4 = 4 then some (.mlogXor (fld w 15 8) (fld w 8 8) (fld w 4 8))
    else if w % 2 ^ 8 = 0 ∧ w / 2 ^ 11 % 2 ^ 4 = 6 then some (.mlogNot (fld w 15 8) (fld w 8 8))
    else if w % 2 ^ 4 = 0 ∧ w / 2 ^ 7 % 2 ^ 1 = 0 ∧ w / 2 ^ 12 % 2 ^ 6 = 4 then some (.mlogPopc (fld w 8 16) (fld w 4 8))
    else none
  | 38 =>
    if w / 2 ^ 14 % 2 ^ 4 = 0 then some (.dqpush (fld w 10 16) (fld w 6 16) (fld w 3 8) (BitVec.ofNat 3 (w / 2 ^ 0)))
    else none
  | 39 =>
    if w % 2 ^ 6 = 0 then some (.dqdrain (fld w 14 16) (fld w 10 16) (fld w 6 16))
    else none
  | 40 =>
    some (.vaccrd (fld w 14 16) (fld w 10 16) (fld w 6 16) (fld w 3 8) (fld w 0 8))
  | 41 =>
    if w % 2 ^ 3 = 0 then some (.vaccwr (fld w 14 16) (fld w 10 16) (fld w 6 16) (fld w 3 8))
    else none
  | 42 =>
    if w / 2 ^ 6 % 2 ^ 4 = 0 then some (.mxMma (fld w 14 16) (fld w 11 8) (bit w 10) (fld w 0 64))
    else none
  | 43 =>
    if w / 2 ^ 6 % 2 ^ 4 = 0 then some (.mxMmat (fld w 14 16) (fld w 11 8) (bit w 10) (fld w 0 64))
    else none
  | 44 =>
    if w / 2 ^ 6 % 2 ^ 4 = 0 then some (.mxMmac (fld w 14 16) (fld w 11 8) (bit w 10) (fld w 0 64))
    else none
  | 45 =>
    if w / 2 ^ 4 % 2 ^ 14 = 0 then some (.mxZero (fld w 0 16))
    else none
  | 46 =>
    if w % 2 ^ 11 = 0 ∧ w / 2 ^ 14 % 2 ^ 4 = 0 then some (.mxDrain (fld w 11 8))
    else none
  | 47 =>
    if w % 2 ^ 14 = 0 then some (.mxLacc (fld w 14 16))
    else none
  | _ => none

/-- Decoding under the map of a cluster (R12), before the limits of R81. -/
def parse : Cl → Nat → Option Instr
  | .c => parseC
  | .l => parseL
  | .x => parseX
  | .w => parseW

/-- The header of a word (R75, R77): only X has an idle count. -/
def header (cl : Cl) (w : Nat) : Header where
  sync := bit w 31
  link := ⟨bit w 30, bit w 29, bit w 28, bit w 27⟩
  ic   := match cl with
    | .x => fld w 24 8
    | _ => 0

/-- The instruction a cluster reads from a word (R12, R87); `none` is an illegal encoding. -/
def decode (cl : Cl) (w : Word) : Option (Header × Instr) :=
  match parse cl w.toNat with
  | some i => if i.wf then some (header cl w.toNat, i) else none
  | none => none

/-- The value a header adds to a word (R75). -/
def Header.value (h : Header) : Nat :=
  h.sync.toNat * 2147483648 + h.link.wp.toNat * 1073741824 + h.link.wn.toNat * 536870912
    + h.link.gp.toNat * 268435456 + h.link.gn.toNat * 134217728 + h.ic.val * 16777216


/-- The operand and major bits of a word (R82-R86): everything below the header; `none` for an event. -/
def body : Instr → Option Nat
  | .nop => some (0)
  | .loop lv pf gc len => some (2097152 + lv.val * 1048576 + pf.toNat * 524288 + gc.val * 8192 + len.toNat * 1)
  | .lbreak lv gc => some (4194304 + lv.val * 1048576 + gc.val * 8192)
  | .lbreakA lv => some (4718592 + lv.val * 1048576)
  | .waitk k => some (6291456 + k.val * 32768)
  | .nopX => some (0)
  | .loopX lv pf gc ns len => some (262144 + lv.val * 131072 + pf.toNat * 65536 + gc.val * 4096 + ns.val * 512 + len.toNat * 1)
  | .lbreakX lv gc => some (524288 + lv.val * 131072 + gc.val * 4096)
  | .lbreakAX lv => some (589824 + lv.val * 131072)
  | .waitkX k => some (786432 + k.val * 4096)
  | .add d a b => some (8388608 + d.val * 32768 + a.val * 512 + b.val * 8)
  | .sub d a b => some (8388609 + d.val * 32768 + a.val * 512 + b.val * 8)
  | .and d a b => some (8388610 + d.val * 32768 + a.val * 512 + b.val * 8)
  | .or d a b => some (8388611 + d.val * 32768 + a.val * 512 + b.val * 8)
  | .xor d a b => some (8388612 + d.val * 32768 + a.val * 512 + b.val * 8)
  | .andn d a b => some (8388613 + d.val * 32768 + a.val * 512 + b.val * 8)
  | .shl d a b => some (8388614 + d.val * 32768 + a.val * 512 + b.val * 8)
  | .shr d a b => some (8388615 + d.val * 32768 + a.val * 512 + b.val * 8)
  | .sha d a b => some (10485760 + d.val * 32768 + a.val * 512 + b.val * 8)
  | .rol d a b => some (10485761 + d.val * 32768 + a.val * 512 + b.val * 8)
  | .min d a b => some (10485762 + d.val * 32768 + a.val * 512 + b.val * 8)
  | .max d a b => some (10485763 + d.val * 32768 + a.val * 512 + b.val * 8)
  | .minn d a b => some (10485764 + d.val * 32768 + a.val * 512 + b.val * 8)
  | .maxn d a b => some (10485765 + d.val * 32768 + a.val * 512 + b.val * 8)
  | .mul d a b => some (10485766 + d.val * 32768 + a.val * 512 + b.val * 8)
  | .mulh d a b => some (10485767 + d.val * 32768 + a.val * 512 + b.val * 8)
  | .mulhn d a b => some (12582912 + d.val * 32768 + a.val * 512 + b.val * 8)
  | .div d a b => some (12582913 + d.val * 32768 + a.val * 512 + b.val * 8)
  | .divn d a b => some (12582914 + d.val * 32768 + a.val * 512 + b.val * 8)
  | .rem d a b => some (12582915 + d.val * 32768 + a.val * 512 + b.val * 8)
  | .remn d a b => some (12582916 + d.val * 32768 + a.val * 512 + b.val * 8)
  | .clz d a => some (12582917 + d.val * 32768 + a.val * 512)
  | .ctz d a => some (12582918 + d.val * 32768 + a.val * 512)
  | .popc d a => some (12582919 + d.val * 32768 + a.val * 512)
  | .sext d a b => some (14680064 + d.val * 32768 + a.val * 512 + b.val * 8)
  | .zext d a b => some (14680065 + d.val * 32768 + a.val * 512 + b.val * 8)
  | .addsh d a b => some (14680066 + d.val * 32768 + a.val * 512 + b.val * 8)
  | .sel d a b => some (14680067 + d.val * 32768 + a.val * 512 + b.val * 8)
  | .addi d a imm => some (16777216 + d.val * 32768 + a.val * 512 + imm.toNat * 1)
  | .andi d a imm => some (18874368 + d.val * 32768 + a.val * 512 + imm.toNat * 1)
  | .ori d a imm => some (20971520 + d.val * 32768 + a.val * 512 + imm.toNat * 1)
  | .xori d a imm => some (23068672 + d.val * 32768 + a.val * 512 + imm.toNat * 1)
  | .shli d a imm => some (25165824 + d.val * 32768 + a.val * 512 + imm.toNat * 1)
  | .shri d a imm => some (27262976 + d.val * 32768 + a.val * 512 + imm.toNat * 1)
  | .shai d a imm => some (29360128 + d.val * 32768 + a.val * 512 + imm.toNat * 1)
  | .li d imm => some (31457280 + d.val * 32768 + imm.toNat * 1)
  | .lih d imm => some (33554432 + d.val * 32768 + imm.toNat * 1)
  | .cmpEq d a b => some (35651584 + d.val * 32768 + a.val * 512 + b.val * 8)
  | .cmpNe d a b => some (35651585 + d.val * 32768 + a.val * 512 + b.val * 8)
  | .cmpLt d a b => some (35651586 + d.val * 32768 + a.val * 512 + b.val * 8)
  | .cmpLe d a b => some (35651587 + d.val * 32768 + a.val * 512 + b.val * 8)
  | .cmpLtn d a b => some (35651588 + d.val * 32768 + a.val * 512 + b.val * 8)
  | .cmpLen d a b => some (35651589 + d.val * 32768 + a.val * 512 + b.val * 8)
  | .cmpiEq d a imm => some (37748736 + d.val * 32768 + a.val * 512 + imm.toNat * 8)
  | .cmpiNe d a imm => some (37748737 + d.val * 32768 + a.val * 512 + imm.toNat * 8)
  | .cmpiLt d a imm => some (37748738 + d.val * 32768 + a.val * 512 + imm.toNat * 8)
  | .cmpiLe d a imm => some (37748739 + d.val * 32768 + a.val * 512 + imm.toNat * 8)
  | .cmpiLtn d a imm => some (37748740 + d.val * 32768 + a.val * 512 + imm.toNat * 8)
  | .cmpiLen d a imm => some (37748741 + d.val * 32768 + a.val * 512 + imm.toNat * 8)
  | .pbr b off => some (41943040 + b.val * 262144 + off.toNat * 1)
  | .pbrg b a => some (44040192 + b.val * 262144 + a.val * 4096)
  | .brT b a => some (46137345 + b.val * 262144 + a.val * 4096)
  | .brZ b a => some (46137346 + b.val * 262144 + a.val * 4096)
  | .brA b => some (46137347 + b.val * 262144)
  | .call b => some (48234496 + b.val * 262144)
  | .ret => some (50331648)
  | .trap n => some (52428800 + n.toNat * 1)
  | .rett => some (54525952)
  | .csrr g csr => some (56623104 + g.val * 32768 + csr.toNat * 1)
  | .csrw g csr => some (58720256 + g.val * 32768 + csr.toNat * 1)
  | .csrs g csr => some (60817408 + g.val * 32768 + csr.toNat * 1)
  | .csrc g csr => some (60821504 + g.val * 32768 + csr.toNat * 1)
  | .yield n => some (62914560 + n.toNat * 1)
  | .probeR d a pin => some (65011713 + d.val * 32768 + a.val * 512 + pin.toNat * 4)
  | .probeW d a pin => some (65011714 + d.val * 32768 + a.val * 512 + pin.toNat * 4)
  | .probeRw d a pin => some (65011715 + d.val * 32768 + a.val * 512 + pin.toNat * 4)
  | .unpin d a => some (67108864 + d.val * 32768 + a.val * 512)
  | .realign a => some (69206016 + a.val * 512)
  | .phase v => some (71303168 + v.val * 1)
  | .domsync v => some (73400320 + v.val * 1)
  | .stepadv => some (75497472)
  | .klaunch a k => some (77594624 + a.val * 512 + k.val * 1)
  | .kend => some (79691776)
  | .tkZero d => some (81788928 + d.val * 32768)
  | .tkJoin d a b => some (81788929 + d.val * 32768 + a.val * 512 + b.val * 8)
  | .tkTest d a => some (81788930 + d.val * 32768 + a.val * 512)
  | .shapeAlloc k a h => some (83886080 + k.val * 32768 + a.val * 512 + h.val * 8)
  | .shapeFree k h => some (83886081 + k.val * 32768 + h.val * 8)
  | .shapeCut k a j h => some (83886082 + k.val * 32768 + a.val * 512 + j.val * 64 + h.val * 8)
  | .shapeChain k j h => some (83886083 + k.val * 32768 + j.val * 64 + h.val * 8)
  | .shapeQry d h => some (83886084 + d.val * 32768 + h.val * 8)
  | .cbset cb a d => some (85983232 + cb.val * 32768 + a.val * 512 + d.val * 1)
  | .cbclr cb => some (88080384 + cb.val * 32768)
  | .hbload h a k => some (90177536 + h.val * 32768 + a.val * 512 + k.val * 1)
  | .hbstore h a k => some (92274688 + h.val * 32768 + a.val * 512 + k.val * 1)
  | .hseed h a => some (94371840 + h.val * 32768 + a.val * 512)
  | .nbqr k a h => some (96468992 + k.val * 32768 + a.val * 512 + h.val * 1)
  | .nbrot k a h => some (98566144 + k.val * 32768 + a.val * 512 + h.val * 1)
  | .nbcarry k a reset h => some (100663296 + k.val * 32768 + a.val * 512 + reset.toNat * 16 + h.val * 1)
  | .nbswitch k a h => some (102760448 + k.val * 32768 + a.val * 512 + h.val * 1)
  | .ld v a imm => some (8388608 + v.val * 131072 + a.val * 8192 + imm.toNat * 1)
  | .lds a g sz e => some (10485760 + a.val * 131072 + g.val * 2048 + sz.code * 256 + e.toNat * 1)
  | .ldgStride v a x => some (12582912 + v.val * 131072 + a.val * 8192 + x.val * 128)
  | .ldgGather v a x j => some (12582928 + v.val * 131072 + a.val * 8192 + x.val * 128 + j.val * 1)
  | .lda v a x n => some (14680064 + v.val * 131072 + a.val * 8192 + x.val * 128 + n.val * 1)
  | .chka v a x n => some (16777216 + v.val * 131072 + a.val * 8192 + x.val * 128 + n.val * 1)
  | .ldb a k n => some (18874368 + a.val * 131072 + k.val * 2048 + n.toNat * 1)
  | .lsg a g sz x => some (20971520 + a.val * 131072 + g.val * 2048 + sz.code * 256 + x.val * 1)
  | .ldacq a g sc range q => some (23068672 + a.val * 131072 + g.val * 2048 + sc.code * 256 + range.toNat * 64 + q.val * 1)
  | .ltv v a x b => some (25165824 + v.val * 131072 + a.val * 8192 + x.val * 128 + b.val * 1)
  | .markL => some (27262976)
  | .laSet a g => some (29360128 + a.val * 8192 + g.val * 1)
  | .laAdd a imm => some (29491200 + a.val * 8192 + imm.toNat * 1)
  | .laAddg a g => some (29622272 + a.val * 8192 + g.val * 1)
  | .verchk a g => some (31457280 + a.val * 131072 + g.val * 2048)
  | .cpCopy k q => some (33554432 + k.val * 32768 + q.val * 512)
  | .cpSumFold k q last => some (35651584 + k.val * 32768 + q.val * 512 + last.toNat * 2)
  | .cpSumCrc k q last => some (35651585 + k.val * 32768 + q.val * 512 + last.toNat * 2)
  | .cpFill k q width => some (37748736 + k.val * 32768 + q.val * 512 + width.code * 1)
  | .cpLink k q => some (39845888 + k.val * 32768 + q.val * 512)
  | .cpLinkFold k q last => some (39845889 + k.val * 32768 + q.val * 512 + last.toNat * 4)
  | .cpLinkCrc k q last => some (39845891 + k.val * 32768 + q.val * 512 + last.toNat * 4)
  | .cpTileTo k q b => some (41943040 + k.val * 32768 + q.val * 512 + b.val * 2)
  | .cpTileFrom k q b => some (41943041 + k.val * 32768 + q.val * 512 + b.val * 2)
  | .st v a imm => some (8388608 + v.val * 131072 + a.val * 8192 + imm.toNat * 1)
  | .sts a g sz e => some (10485760 + a.val * 131072 + g.val * 2048 + sz.code * 256 + e.toNat * 1)
  | .stxStride v a x => some (12582912 + v.val * 131072 + a.val * 8192 + x.val * 128)
  | .stxScatter v a x j => some (12582928 + v.val * 131072 + a.val * 8192 + x.val * 128 + j.val * 1)
  | .stt v a x b => some (14680064 + v.val * 131072 + a.val * 8192 + x.val * 128 + b.val * 1)
  | .ssg a g sz x => some (16777216 + a.val * 131072 + g.val * 2048 + sz.code * 256 + x.val * 1)
  | .strel a g sc range q => some (18874368 + a.val * 131072 + g.val * 2048 + sc.code * 256 + range.toNat * 64 + q.val * 1)
  | .markW => some (20971520)
  | .fence sc => some (23068672 + sc.code * 256)
  | .cmoClean a g lvl k => some (25165824 + a.val * 131072 + g.val * 2048 + lvl.code * 256 + k.val * 4)
  | .cmoInv a g lvl k => some (25165825 + a.val * 131072 + g.val * 2048 + lvl.code * 256 + k.val * 4)
  | .cmoClinv a g lvl k => some (25165826 + a.val * 131072 + g.val * 2048 + lvl.code * 256 + k.val * 4)
  | .amoAdd a x dw k => some (27262976 + a.val * 8192 + x.val * 128 + dw.toNat * 64 + k.val * 1)
  | .amoMin a x dw k => some (27394048 + a.val * 8192 + x.val * 128 + dw.toNat * 64 + k.val * 1)
  | .amoMax a x dw k => some (27525120 + a.val * 8192 + x.val * 128 + dw.toNat * 64 + k.val * 1)
  | .amoOr a x dw k => some (27656192 + a.val * 8192 + x.val * 128 + dw.toNat * 64 + k.val * 1)
  | .amoAnd a x dw k => some (27787264 + a.val * 8192 + x.val * 128 + dw.toNat * 64 + k.val * 1)
  | .amoXchg a x dw k => some (27918336 + a.val * 8192 + x.val * 128 + dw.toNat * 64 + k.val * 1)
  | .amoCas a x dw k => some (28049408 + a.val * 8192 + x.val * 128 + dw.toNat * 64 + k.val * 1)
  | .amorAdd k q dw => some (29360128 + k.val * 32768 + q.val * 512 + dw.toNat * 8)
  | .amorMin k q dw => some (29360129 + k.val * 32768 + q.val * 512 + dw.toNat * 8)
  | .amorMax k q dw => some (29360130 + k.val * 32768 + q.val * 512 + dw.toNat * 8)
  | .amorOr k q dw => some (29360131 + k.val * 32768 + q.val * 512 + dw.toNat * 8)
  | .amorAnd k q dw => some (29360132 + k.val * 32768 + q.val * 512 + dw.toNat * 8)
  | .amorXchg k q dw => some (29360133 + k.val * 32768 + q.val * 512 + dw.toNat * 8)
  | .amorCas k q dw => some (29360134 + k.val * 32768 + q.val * 512 + dw.toNat * 8)
  | .waSet a g => some (31457280 + a.val * 8192 + g.val * 1)
  | .waAdd a imm => some (31588352 + a.val * 8192 + imm.toNat * 1)
  | .waAddg a g => some (31719424 + a.val * 8192 + g.val * 1)
  | .cqPost k q => some (33554432 + k.val * 32768 + q.val * 512)
  | .cqArm k q => some (35651584 + k.val * 32768 + q.val * 512)
  | .cntAdd k q => some (37748736 + k.val * 32768 + q.val * 512)
  | .cntWait k q => some (39845888 + k.val * 32768 + q.val * 512)
  | .rlInv k q => some (41943040 + k.val * 32768 + q.val * 512)
  | .vadd d a b mk fs => some (1048576 + d.val * 16384 + a.val * 1024 + b.val * 64 + mk.val * 8 + fs.val * 1)
  | .vsub d a b mk fs => some (1310720 + d.val * 16384 + a.val * 1024 + b.val * 64 + mk.val * 8 + fs.val * 1)
  | .vmul d a b mk fs => some (1572864 + d.val * 16384 + a.val * 1024 + b.val * 64 + mk.val * 8 + fs.val * 1)
  | .vfma d a b mk fs => some (1835008 + d.val * 16384 + a.val * 1024 + b.val * 64 + mk.val * 8 + fs.val * 1)
  | .vfms d a b mk fs => some (2097152 + d.val * 16384 + a.val * 1024 + b.val * 64 + mk.val * 8 + fs.val * 1)
  | .vfnma d a b mk fs => some (2359296 + d.val * 16384 + a.val * 1024 + b.val * 64 + mk.val * 8 + fs.val * 1)
  | .vmin d a b mk fs => some (2621440 + d.val * 16384 + a.val * 1024 + b.val * 64 + mk.val * 8 + fs.val * 1)
  | .vmax d a b mk fs => some (2883584 + d.val * 16384 + a.val * 1024 + b.val * 64 + mk.val * 8 + fs.val * 1)
  | .vunNeg d a mk fs => some (3145728 + d.val * 16384 + a.val * 1024 + mk.val * 8 + fs.val * 1)
  | .vunAbs d a mk fs => some (3145792 + d.val * 16384 + a.val * 1024 + mk.val * 8 + fs.val * 1)
  | .vunRcp d a mk fs => some (3145856 + d.val * 16384 + a.val * 1024 + mk.val * 8 + fs.val * 1)
  | .vunRsq d a mk fs => some (3145920 + d.val * 16384 + a.val * 1024 + mk.val * 8 + fs.val * 1)
  | .vunSqrt d a mk fs => some (3145984 + d.val * 16384 + a.val * 1024 + mk.val * 8 + fs.val * 1)
  | .vunExp2 d a mk fs => some (3146048 + d.val * 16384 + a.val * 1024 + mk.val * 8 + fs.val * 1)
  | .vunLog2 d a mk fs => some (3146112 + d.val * 16384 + a.val * 1024 + mk.val * 8 + fs.val * 1)
  | .vunTanh d a mk fs => some (3146176 + d.val * 16384 + a.val * 1024 + mk.val * 8 + fs.val * 1)
  | .vunSigm d a mk fs => some (3146240 + d.val * 16384 + a.val * 1024 + mk.val * 8 + fs.val * 1)
  | .vunNot d a mk fs => some (3146304 + d.val * 16384 + a.val * 1024 + mk.val * 8 + fs.val * 1)
  | .vcmpEq d a b fs z => some (3407872 + d.val * 32768 + a.val * 256 + b.val * 16 + fs.val * 2 + z.toNat * 1)
  | .vcmpNe d a b fs z => some (3411968 + d.val * 32768 + a.val * 256 + b.val * 16 + fs.val * 2 + z.toNat * 1)
  | .vcmpLt d a b fs z => some (3416064 + d.val * 32768 + a.val * 256 + b.val * 16 + fs.val * 2 + z.toNat * 1)
  | .vcmpLe d a b fs z => some (3420160 + d.val * 32768 + a.val * 256 + b.val * 16 + fs.val * 2 + z.toNat * 1)
  | .vcmpGt d a b fs z => some (3424256 + d.val * 32768 + a.val * 256 + b.val * 16 + fs.val * 2 + z.toNat * 1)
  | .vcmpGe d a b fs z => some (3428352 + d.val * 32768 + a.val * 256 + b.val * 16 + fs.val * 2 + z.toNat * 1)
  | .vcmpUo d a b fs z => some (3432448 + d.val * 32768 + a.val * 256 + b.val * 16 + fs.val * 2 + z.toNat * 1)
  | .vsel d a b mk fs => some (3670016 + d.val * 16384 + a.val * 1024 + b.val * 64 + mk.val * 8 + fs.val * 1)
  | .vand d a b mk fs => some (3932160 + d.val * 16384 + a.val * 1024 + b.val * 64 + mk.val * 8 + fs.val * 1)
  | .vor d a b mk fs => some (4194304 + d.val * 16384 + a.val * 1024 + b.val * 64 + mk.val * 8 + fs.val * 1)
  | .vxor d a b mk fs => some (4456448 + d.val * 16384 + a.val * 1024 + b.val * 64 + mk.val * 8 + fs.val * 1)
  | .vshl d a b mk fs => some (4718592 + d.val * 16384 + a.val * 1024 + b.val * 64 + mk.val * 8 + fs.val * 1)
  | .vshr d a b mk fs => some (4980736 + d.val * 16384 + a.val * 1024 + b.val * 64 + mk.val * 8 + fs.val * 1)
  | .vsha d a b mk fs => some (5242880 + d.val * 16384 + a.val * 1024 + b.val * 64 + mk.val * 8 + fs.val * 1)
  | .vcvt d a c mk fs => some (5505024 + d.val * 16384 + a.val * 1024 + c.val * 64 + mk.val * 8 + fs.val * 1)
  | .vcvts d a b c => some (5767168 + d.val * 16384 + a.val * 1024 + b.val * 64 + c.val * 4)
  | .vcadd d a b mk => some (6029312 + d.val * 16384 + a.val * 1024 + b.val * 64 + mk.val * 8)
  | .vcsplit d a mk => some (6291456 + d.val * 16384 + a.val * 1024 + mk.val * 8)
  | .vqdx d a b fs => some (6553600 + d.val * 16384 + a.val * 1024 + b.val * 64 + fs.val * 1)
  | .vdqdx d a b fs => some (6815744 + d.val * 16384 + a.val * 1024 + b.val * 64 + fs.val * 1)
  | .vredSum d a mk fs => some (7077888 + d.val * 16384 + a.val * 1024 + mk.val * 8 + fs.val * 1)
  | .vredMax d a mk fs => some (7077952 + d.val * 16384 + a.val * 1024 + mk.val * 8 + fs.val * 1)
  | .vredMin d a mk fs => some (7078016 + d.val * 16384 + a.val * 1024 + mk.val * 8 + fs.val * 1)
  | .vperm d a b mk fs => some (7340032 + d.val * 16384 + a.val * 1024 + b.val * 64 + mk.val * 8 + fs.val * 1)
  | .vrote d a g mk fs => some (7602176 + d.val * 16384 + a.val * 1024 + g.val * 64 + mk.val * 8 + fs.val * 1)
  | .vbcast d g mk fs => some (7864320 + d.val * 16384 + g.val * 1024 + mk.val * 8 + fs.val * 1)
  | .viota d mk fs => some (8126464 + d.val * 16384 + mk.val * 8 + fs.val * 1)
  | .vmom1 d a g mk fs => some (8388608 + d.val * 16384 + a.val * 1024 + g.val * 64 + mk.val * 8 + fs.val * 1)
  | .vmom2 d a g mk fs => some (8650752 + d.val * 16384 + a.val * 1024 + g.val * 64 + mk.val * 8 + fs.val * 1)
  | .vadstep d a g mk fs => some (8912896 + d.val * 16384 + a.val * 1024 + g.val * 64 + mk.val * 8 + fs.val * 1)
  | .vrng d a mk => some (9175040 + d.val * 16384 + a.val * 1024 + mk.val * 8)
  | .vscalex d a b mk fs => some (9437184 + d.val * 16384 + a.val * 1024 + b.val * 64 + mk.val * 8 + fs.val * 1)
  | .mlogAnd d a b => some (9699328 + d.val * 32768 + a.val * 256 + b.val * 16)
  | .mlogOr d a b => some (9703424 + d.val * 32768 + a.val * 256 + b.val * 16)
  | .mlogXor d a b => some (9707520 + d.val * 32768 + a.val * 256 + b.val * 16)
  | .mlogNot d a => some (9711616 + d.val * 32768 + a.val * 256)
  | .mlogPopc d b => some (9715712 + d.val * 256 + b.val * 16)
  | .dqpush a b mk n => some (9961472 + a.val * 1024 + b.val * 64 + mk.val * 8 + n.toNat * 1)
  | .dqdrain d a b => some (10223616 + d.val * 16384 + a.val * 1024 + b.val * 64)
  | .vaccrd d t g mk fs => some (10485760 + d.val * 16384 + t.val * 1024 + g.val * 64 + mk.val * 8 + fs.val * 1)
  | .vaccwr t a g mk => some (10747904 + t.val * 16384 + a.val * 1024 + g.val * 64 + mk.val * 8)
  | .mxMma c h chk k => some (11010048 + c.val * 16384 + h.val * 2048 + chk.toNat * 1024 + k.val * 1)
  | .mxMmat c h chk k => some (11272192 + c.val * 16384 + h.val * 2048 + chk.toNat * 1024 + k.val * 1)
  | .mxMmac c h chk k => some (11534336 + c.val * 16384 + h.val * 2048 + chk.toNat * 1024 + k.val * 1)
  | .mxZero t => some (11796480 + t.val * 1)
  | .mxDrain h => some (12058624 + h.val * 2048)
  | .mxLacc c => some (12320768 + c.val * 16384)
  | .cResultLands => none
  | .xResultLands => none
  | .loadLands => none
  | .plbRefill => none
  | .ldbFillDone => none
  | .sttComplete => none
  | .blockCacheEviction => none
  | .rdcEviction => none
  | .homeEviction => none
  | .ldacqComplete => none
  | .strelComplete => none
  | .verchkComplete => none
  | .cmoComplete => none
  | .amoPerformed => none
  | .amorArrival => none
  | .amorAck => none
  | .ackTimeout => none
  | .commandStart => none
  | .consumedTokenFailed => none
  | .copyComplete => none
  | .linkWriteArrival => none
  | .linkAck => none
  | .nimbusComplete => none
  | .nbqrBasisWrite => none
  | .slotTransferComplete => none
  | .cqPostAppended => none
  | .cntWaitReached => none
  | .klaunchComplete => none
  | .kendComplete => none
  | .probeComplete => none
  | .stepSwitch => none
  | .realignRelease => none
  | .domsyncComplete => none
  | .domsyncArrival => none
  | .allocatorServe => none
  | .cellsLive => none
  | .shapeReport => none
  | .drainPoint => none
  | .drainReport => none
  | .commandArrival => none
  | .matrixCommandStart => none
  | .laccStart => none
  | .outputRowLands => none
  | .matrixCommandFinish => none
  | .faultReportArrival => none
  | .rettResume => none
  | .replayRestart => none
  | .preqReq => none
  | .preqRes => none
  | .preqEnd => none
  | .preemptionPoint => none
  | .preemptDeadline => none
  | .saveComplete => none
  | .restoreComplete => none
  | .contextEnd => none
  | .mailboxPost => none
  | .mailboxCancel => none
  | .mailboxResume => none
  | .launchSelect => none
  | .launchStart => none
  | .freeCellReport => none
  | .entryFire => none
  | .entryStart => none
  | .chunkArrival => none
  | .signalArrival => none
  | .entryComplete => none
  | .flitReceive => none
  | .portTrained => none
  | .chargeBalanceWindow => none
  | .windowEnd => none
  | .packagePhaseBoundary => none
  | .clockStep => none
  | .telemetrySample => none
  | .ptpSync => none
  | .ptpSyncTimeout => none
  | .correctableError => none
  | .uncorrectableError => none
  | .deviceReset => none
  | .dieResetGo => none
  | .dieResetFenced => none
  | .dieResetDeadline => none
  | .dieResetCleared => none
  | .functionReady => none
  | .tinv => none
  | .tinvComplete => none
  | .dbfc => none
  | .qpctlOpen => none
  | .resync => none
  | .loadimg => none
  | .unloadimg => none
  | .ackend => none
  | .clrarr => none
  | .fwstage => none
  | .attest => none
  | .mgmtCommandComplete => none
  | .bar2Read => none
  | .bar2Write => none
  | .registerWrite => none
  | .illegalEncoding => none
  | .replayPoint => none
  | .uncachedStorePerformed => none
  | .hostPortLinkDown => none

/-- The word of an instruction under a header (R75); an event has none. -/
def encode (h : Header) (i : Instr) : Option Word :=
  (body i).map fun b => BitVec.ofNat 32 (h.value + b)

/-- The cluster that reads a word of the opcode table, whose rows do not name one: the first of C, L, X and W in which the
word is a legal encoding (log 40). -/
def tableCluster (w : Word) : Cl :=
  if (decode .c w).isSome then .c else if (decode .l w).isSome then .l else if (decode .x w).isSome then .x else .w

/-- The instruction read from a word of the opcode table; every instruction is one word of 32 bits. -/
def decodeTableWord (_nbits w : Nat) : Option Instr :=
  (decode (tableCluster (BitVec.ofNat 32 w)) (BitVec.ofNat 32 w)).map (·.2)

end Sys2Proof
end

