-- ==== Sys2Proof/Machine/Float.lean ====
section
/-!
DEFINITION. Number formats and rounding (02_number_formats): exact values, the one rounding mode
(round to nearest even, R41), range limits (R42), special values and flags (R44-R46).
-/

namespace Sys2Proof.Machine

/-- NV, invalid (R27). -/
def flNV : Flags := 1#5
/-- DZ, division by zero. -/
def flDZ : Flags := 2#5
/-- OF, overflow. -/
def flOF : Flags := 4#5
/-- UF, underflow. -/
def flUF : Flags := 8#5
/-- NX, inexact. -/
def flNX : Flags := 16#5

/-- An exact value: NaN, a signed infinity, or `(-1)^neg * m * 2^e`. -/
inductive FV where
  | nan
  | inf (neg : Bool)
  | fin (neg : Bool) (m : Nat) (e : Int)
  deriving DecidableEq, Repr

/-- How a format encodes infinity and NaN (R34). -/
inductive Special where
  | ieee    -- exponent all ones: infinity and NaNs
  | e4m3    -- only S.1111.111 is NaN, no infinity
  | none    -- neither
  deriving DecidableEq, Repr

/-- A floating layout of R34: exponent bits, fraction bits, bias, special values, and the number of
zero bits below the value in its container (13 for FP19, R36). -/
structure FFmt where
  eb : Nat
  mb : Nat
  bias : Nat
  special : Special
  low : Nat
  deriving DecidableEq, Repr

def fp32 : FFmt := ⟨8, 23, 127, .ieee, 0⟩
def fp19 : FFmt := ⟨8, 10, 127, .ieee, 13⟩
def bf16 : FFmt := ⟨8, 7, 127, .ieee, 0⟩
def fp16 : FFmt := ⟨5, 10, 15, .ieee, 0⟩
def e5m2 : FFmt := ⟨5, 2, 15, .ieee, 0⟩
def e4m3 : FFmt := ⟨4, 3, 7, .e4m3, 0⟩
def e3m2 : FFmt := ⟨3, 2, 3, .none, 0⟩
def e2m3 : FFmt := ⟨2, 3, 1, .none, 0⟩
def e2m1 : FFmt := ⟨2, 1, 1, .none, 0⟩

/-- The floating layout of a format code 0-8 (R34). -/
def ffmtOf : Nat → Option FFmt
  | 0 => some fp32
  | 1 => some fp19
  | 2 => some bf16
  | 3 => some fp16
  | 4 => some e5m2
  | 5 => some e4m3
  | 6 => some e3m2
  | 7 => some e2m3
  | 8 => some e2m1
  | _ => none

/-- Container width of a format code in vector registers (R35); the DX codes have none there. -/
def widthOf : Nat → Nat
  | 0 | 1 | 14 | 15 => 32
  | 2 | 3 => 16
  | 4 | 5 | 6 | 7 | 9 => 8
  | 8 | 10 => 4
  | _ => 32

/-- Exponent of the least subnormal's unit. -/
def FFmt.emin (f : FFmt) : Int := 1 - (f.bias : Int) - f.mb

/-- Pattern, without sign, of the largest finite value (R34). -/
def FFmt.maxBits (f : FFmt) : Nat :=
  match f.special with
  | .ieee => (2 ^ f.eb - 1) * 2 ^ f.mb - 1
  | .e4m3 => 2 ^ (f.eb + f.mb) - 2
  | .none => 2 ^ (f.eb + f.mb) - 1

/-- The value read from the low bits of a container (R34-R36). -/
def FFmt.decode (f : FFmt) (bits : Nat) : FV :=
  let x := bits / 2 ^ f.low
  let frac := x % 2 ^ f.mb
  let ex := x / 2 ^ f.mb % 2 ^ f.eb
  let neg := x / 2 ^ (f.mb + f.eb) % 2 == 1
  if f.special = .ieee ∧ ex = 2 ^ f.eb - 1 then
    if frac = 0 then .inf neg else .nan
  else if f.special = .e4m3 ∧ ex = 2 ^ f.eb - 1 ∧ frac = 2 ^ f.mb - 1 then .nan
  else if ex = 0 then .fin neg frac f.emin
  else .fin neg (frac + 2 ^ f.mb) ((ex : Int) - 1 + f.emin)

/-- Put a sign above a pattern and place it in the container. -/
def FFmt.pack (f : FFmt) (neg : Bool) (mag : Nat) : Nat :=
  ((if neg then 2 ^ (f.eb + f.mb) else 0) + mag) * 2 ^ f.low

/-- The canonical NaN of R45; formats without NaN give +0 (R42). -/
def FFmt.nanBits (f : FFmt) : Nat :=
  match f.special with
  | .ieee => f.pack false ((2 ^ f.eb - 1) * 2 ^ f.mb + 2 ^ (f.mb - 1))
  | .e4m3 => f.pack false (2 ^ (f.eb + f.mb) - 1)
  | .none => 0

/-- The result of a magnitude beyond the largest finite value (R42). -/
def FFmt.overflowBits (f : FFmt) (neg : Bool) : Nat :=
  match f.special with
  | .ieee => f.pack neg ((2 ^ f.eb - 1) * 2 ^ f.mb)
  | _ => f.pack neg f.maxBits

/-- `m / 2^sh` rounded to nearest even; `sticky` says that non-zero bits lie below `m`.
The second component tells whether the result is inexact. -/
def rneShift (m sh : Nat) (sticky : Bool) : Nat × Bool :=
  let k := m / 2 ^ sh
  let r := m % 2 ^ sh
  let up : Bool :=
    if sh = 0 then false
    else decide (r > 2 ^ (sh - 1)) || (decide (r = 2 ^ (sh - 1)) && (sticky || decide (k % 2 = 1)))
  (if up then k + 1 else k, decide (r ≠ 0) || sticky)

/-- Round the exact magnitude `m * 2^e` (plus a little more when `sticky`) to a format (R41, R42,
R46). An `m` of 0 with `sticky` stands for a value smaller than every subnormal. -/
def FFmt.round (f : FFmt) (neg : Bool) (m : Nat) (e : Int) (sticky : Bool) : Nat × Flags :=
  if m = 0 then (f.pack neg 0, if sticky then flUF ||| flNX else 0)
  else
    let top : Int := (Nat.log2 m : Int) + e
    let q : Int := max (top - f.mb) f.emin
    let (k, inexact) :=
      if q ≤ e then (m * 2 ^ (e - q).toNat, sticky) else rneShift m (q - e).toNat sticky
    let bits := (q - f.emin).toNat * 2 ^ f.mb + k
    if bits > f.maxBits then (f.overflowBits neg, flOF ||| flNX)
    else
      let tiny : Bool := decide (top < 1 - (f.bias : Int))
      (f.pack neg bits,
        (if inexact then flNX else 0) ||| (if inexact && tiny then flUF else 0))

/-- Convert an exact value to a floating format (R41, R42, R45). -/
def FFmt.ofFV (f : FFmt) : FV → Nat × Flags
  | .nan => (f.nanBits, if f.special = .none then flNV else 0)
  | .inf neg => (f.overflowBits neg, if f.special = .ieee then 0 else flNV)
  | .fin neg m e => f.round neg m e false

/-- The integer nearest `(-1)^neg * m * 2^e`, ties to even, and whether it differs. -/
def rneInt (neg : Bool) (m : Nat) (e : Int) : Int × Bool :=
  let (k, inexact) := if 0 ≤ e then (m * 2 ^ e.toNat, false) else rneShift m (-e).toNat false
  (if neg then -(k : Int) else (k : Int), inexact)

/-- Largest value of a `w`-bit two's-complement integer. -/
def intMax (w : Nat) : Int := 2 ^ (w - 1) - 1
/-- Least value of a `w`-bit two's-complement integer. -/
def intMin (w : Nat) : Int := -(2 ^ (w - 1))

/-- Limit to a `w`-bit integer (SAT), telling whether a limit was taken. -/
def sat (w : Nat) (x : Int) : Int × Bool :=
  if x > intMax w then (intMax w, true)
  else if x < intMin w then (intMin w, true)
  else (x, false)

/-- The `w`-bit pattern of an integer. -/
def intBits (w : Nat) (x : Int) : Nat := (x % (2 ^ w : Int)).toNat

/-- A `w`-bit pattern read as two's complement. -/
def bitsInt (w : Nat) (x : Nat) : Int :=
  let y := x % 2 ^ w
  if y < 2 ^ (w - 1) then (y : Int) else (y : Int) - 2 ^ w

/-- Convert an exact value to a `w`-bit integer (R42). -/
def intOfFV (w : Nat) : FV → Nat × Flags
  | .nan => (0, flNV)
  | .inf neg => (intBits w (if neg then intMin w else intMax w), flNV)
  | .fin neg m e =>
    let (k, inexact) := rneInt neg m e
    let (r, limited) := sat w k
    (intBits w r, if limited then flNV else if inexact then flNX else 0)

/-- An integer as an exact value. -/
def FV.ofInt (x : Int) : FV := .fin (decide (x < 0)) x.natAbs 0

/-- The value as `m * 2^e` with a signed `m`; special values give 0. -/
def FV.signed : FV → Int × Int
  | .fin neg m e => (if neg then -(m : Int) else (m : Int), e)
  | _ => (0, 0)

def FV.isNan : FV → Bool
  | .nan => true
  | _ => false

def FV.isInf : FV → Bool
  | .inf _ => true
  | _ => false

def FV.isZero : FV → Bool
  | .fin _ m _ => m == 0
  | _ => false

def FV.isNeg : FV → Bool
  | .nan => false
  | .inf n => n
  | .fin n _ _ => n

def FV.negate : FV → FV
  | .nan => .nan
  | .inf n => .inf (!n)
  | .fin n m e => .fin (!n) m e

def FV.abs : FV → FV
  | .nan => .nan
  | .inf _ => .inf false
  | .fin _ m e => .fin false m e

/-- Exact sum; infinity minus infinity is invalid; an exact zero sum is +0 unless both terms are
negative zeros (R129). -/
def FV.add (a b : FV) : FV × Flags :=
  match a, b with
  | .nan, _ => (.nan, 0)
  | _, .nan => (.nan, 0)
  | .inf x, .inf y => if x = y then (.inf x, 0) else (.nan, flNV)
  | .inf x, _ => (.inf x, 0)
  | _, .inf y => (.inf y, 0)
  | .fin n1 m1 e1, .fin n2 m2 e2 =>
    let e := min e1 e2
    let k1 : Int := (if n1 then -1 else 1) * (m1 * 2 ^ (e1 - e).toNat : Nat)
    let k2 : Int := (if n2 then -1 else 1) * (m2 * 2 ^ (e2 - e).toNat : Nat)
    let k := k1 + k2
    if k = 0 then
      (.fin (if m1 = 0 ∧ m2 = 0 then n1 && n2 else false) 0 0, 0)
    else (.fin (decide (k < 0)) k.natAbs e, 0)

/-- Exact product; zero times infinity is invalid. -/
def FV.mul (a b : FV) : FV × Flags :=
  match a, b with
  | .nan, _ => (.nan, 0)
  | _, .nan => (.nan, 0)
  | .inf x, .inf y => (.inf (x ^^ y), 0)
  | .inf x, .fin n m _ => if m = 0 then (.nan, flNV) else (.inf (x ^^ n), 0)
  | .fin n m _, .inf y => if m = 0 then (.nan, flNV) else (.inf (n ^^ y), 0)
  | .fin n1 m1 e1, .fin n2 m2 e2 => (.fin (n1 ^^ n2) (m1 * m2) (e1 + e2), 0)

/-- Order of two values that are not NaN, with -0 equal to +0. -/
def FV.lt (a b : FV) : Bool :=
  match a, b with
  | .nan, _ => false
  | _, .nan => false
  | .inf x, .inf y => x && !y
  | .inf x, _ => x
  | _, .inf y => !y
  | .fin n1 m1 e1, .fin n2 m2 e2 =>
    let e := min e1 e2
    let k1 : Int := (if n1 then -1 else 1) * (m1 * 2 ^ (e1 - e).toNat : Nat)
    let k2 : Int := (if n2 then -1 else 1) * (m2 * 2 ^ (e2 - e).toNat : Nat)
    decide (k1 < k2)

/-- Equality of two values that are not NaN, with -0 equal to +0. -/
def FV.eqv (a b : FV) : Bool :=
  !a.isNan && !b.isNan && !FV.lt a b && !FV.lt b a

/-- Order with -0 below +0, as VMIN, VMAX and VRED use it (R130, R143). -/
def FV.ltZ (a b : FV) : Bool :=
  FV.lt a b || (FV.eqv a b && a.isZero && a.isNeg && !b.isNeg)

/-- Round an exact value to FP32 (RNE32), as 32 bits. -/
def rne32 (v : FV) : Nat × Flags := fp32.ofFV v
/-- Round an exact value to BF16 (RNE16), as 16 bits. -/
def rne16 (v : FV) : Nat × Flags := bf16.ofFV v

/-- Exact sum of two FP32 patterns rounded once. -/
def add32 (a b : Nat) : Nat × Flags :=
  let (v, f) := FV.add (fp32.decode a) (fp32.decode b)
  let (r, g) := rne32 v
  (r, f ||| g)

/-- Exact product of two FP32 patterns rounded once. -/
def mul32 (a b : Nat) : Nat × Flags :=
  let (v, f) := FV.mul (fp32.decode a) (fp32.decode b)
  let (r, g) := rne32 v
  (r, f ||| g)

/-- The exact sum of a list of values that holds no two infinities of unlike signs; an exact zero sum
is -0 only when every term is -0 (R50). -/
def FV.total : List FV → FV
  | [] => .fin false 0 0
  | [a] => a
  | a :: rest => (FV.add a (FV.total rest)).1

/-- The exact sum of a list of exact values (R50): the terms have no order, so infinities of both signs are invalid
wherever they stand, also beside a NaN (R54). -/
def FV.sum (l : List FV) : FV × Flags :=
  if l.contains (.inf false) && l.contains (.inf true) then (.nan, flNV) else (FV.total l, 0)

/-! ### Quotients and square roots with a sticky bit -/

/-- Bits of working precision of quotients, roots and the transcendental functions. -/
def workBits : Nat := 384

/-- Integer square root by restoring digits, from bit `i - 1` down; `root` holds the digits so far. -/
def isqrtGo (n : Nat) : Nat → Nat → Nat
  | 0, root => root
  | i + 1, root =>
    let cand := root + 2 ^ i
    isqrtGo n i (if cand * cand ≤ n then cand else root)

/-- The integer square root, rounded down. -/
def isqrt (n : Nat) : Nat := if n = 0 then 0 else isqrtGo n (Nat.log2 n / 2 + 1) 0

/-- `a / b` (with `b > 0`) as magnitude, exponent and sticky bit, with at least `workBits` bits. -/
def quot (m1 : Nat) (e1 : Int) (m2 : Nat) (e2 : Int) : Nat × Int × Bool :=
  let sh := workBits + Nat.log2 m2 + 1
  let n := m1 * 2 ^ sh
  (n / m2, e1 - e2 - sh, decide (n % m2 ≠ 0))

/-- Square root of `m * 2^e` as magnitude, exponent and sticky bit. -/
def rootOf (m : Nat) (e : Int) : Nat × Int × Bool :=
  let sh : Nat := 2 * workBits + (if e % 2 = 0 then 0 else 1)
  let n := m * 2 ^ sh
  let r := isqrt n
  (r, (e - sh) / 2, decide (r * r ≠ n))

end Sys2Proof.Machine
end

