-- ==== Sys2Proof/Machine/Func.lean ====
section
/-!
DEFINITION. The correctly rounded functions of R133, R134, R147: each forms the exact result as a
magnitude with a sticky bit. Irrational results are taken to `workBits` fractional bits in fixed point,
far more than any operand of a 32-bit format needs to decide one rounding (log 12).
-/

namespace Sys2Proof.Machine

/-- One in fixed point. -/
def fxOne : Nat := 2 ^ workBits

/-- Fixed-point product. -/
def fxMul (a b : Nat) : Nat := a * b / fxOne

/-- `sum over k in [1, n] of 1 / (k * 2^k)`, which tends to ln 2. -/
def fxLn2Go : Nat → Nat → Nat
  | 0, acc => acc
  | k + 1, acc => fxLn2Go k (acc + fxOne / ((k + 1) * 2 ^ (k + 1)))

/-- ln 2 in fixed point. -/
def fxLn2 : Nat := fxLn2Go (workBits + 8) 0

/-- Taylor series of `exp` at a fixed-point `x` in `[0, 1)`; `term` is the current term. -/
def fxExpGo (x : Nat) : Nat → Nat → Nat → Nat → Nat
  | 0, _, _, acc => acc
  | fuel + 1, k, term, acc =>
    let t := fxMul term x / (k + 1)
    fxExpGo x fuel (k + 1) t (acc + t)

/-- `exp x` in fixed point for `x` in `[0, 1)`. -/
def fxExp (x : Nat) : Nat := fxExpGo x 100 0 fxOne fxOne

/-- `sum of z^(2k+1) / (2k+1)`, the series of atanh. -/
def fxAtanhGo (z2 : Nat) : Nat → Nat → Nat → Nat → Nat
  | 0, _, _, acc => acc
  | fuel + 1, k, pow, acc =>
    fxAtanhGo z2 fuel (k + 2) (fxMul pow z2) (acc + pow / k)

/-- `ln y` in fixed point for a fixed-point `y` in `[1, 2)`. -/
def fxLn (y : Nat) : Nat :=
  let z := (y - fxOne) * fxOne / (y + fxOne)
  2 * fxAtanhGo (fxMul z z) 130 1 z 0

/-- A fixed-point magnitude of `m * 2^e`. -/
def toFx (m : Nat) (e : Int) : Nat :=
  let s := e + workBits
  if 0 ≤ s then m * 2 ^ s.toNat else m / 2 ^ (-s).toNat

/-- `exp t` as magnitude and exponent, for a fixed-point magnitude `t` and a sign. -/
def expOf (neg : Bool) (t : Nat) : Nat × Int :=
  let k := t / fxLn2
  let r := t % fxLn2
  if neg then
    if r = 0 then (fxOne, -(workBits : Int) - k)
    else (fxExp (fxLn2 - r), -(workBits : Int) - k - 1)
  else (fxExp r, -(workBits : Int) + k)

/-- 1/x (R133, R134). -/
def recip (f : FFmt) : FV → Nat × Flags
  | .nan => (f.nanBits, 0)
  | .inf n => (f.pack n 0, 0)
  | .fin n m e =>
    if m = 0 then (f.overflowBits n, flDZ)
    else let (q, qe, st) := quot 1 0 m e; f.round n q qe st

/-- Square root. -/
def sqrtF (f : FFmt) : FV → Nat × Flags
  | .nan => (f.nanBits, 0)
  | .inf n => if n then (f.nanBits, flNV) else (f.overflowBits false, 0)
  | .fin n m e =>
    if m = 0 then (f.pack n 0, 0)
    else if n then (f.nanBits, flNV)
    else let (r, re, st) := rootOf m e; f.round false r re st

/-- 1/sqrt(x). -/
def rsqrtF (f : FFmt) : FV → Nat × Flags
  | .nan => (f.nanBits, 0)
  | .inf n => if n then (f.nanBits, flNV) else (f.pack false 0, 0)
  | .fin n m e =>
    if m = 0 then (f.overflowBits n, flDZ)
    else if n then (f.nanBits, flNV)
    else
      let (q, qe, st) := quot 1 0 m e
      let (r, re, st') := rootOf q qe
      f.round false r re (st || st')

/-- 2^x. -/
def exp2F (f : FFmt) : FV → Nat × Flags
  | .nan => (f.nanBits, 0)
  | .inf n => if n then (f.pack false 0, 0) else (f.overflowBits false, 0)
  | .fin n m e =>
    if m = 0 then f.round false 1 0 false
    else if 12 ≤ (Nat.log2 m : Int) + e then
      if n then f.round false 1 (-4096) true else f.round false 1 4096 false
    else if (Nat.log2 m : Int) + e < -(workBits : Int) + 2 then
      if n then f.round false (2 ^ 64 - 1) (-64) true else f.round false 1 0 true
    else
      let x : Int := (if n then -1 else 1) * (toFx m e : Int)
      let k := x / (fxOne : Int)
      let fr := (x % (fxOne : Int)).toNat
      if fr = 0 then f.round false 1 k false
      else f.round false (fxExp (fxMul fr fxLn2)) (k - workBits) true

/-- log2 x. -/
def log2F (f : FFmt) : FV → Nat × Flags
  | .nan => (f.nanBits, 0)
  | .inf n => if n then (f.nanBits, flNV) else (f.overflowBits false, 0)
  | .fin n m e =>
    if m = 0 then (f.overflowBits true, flDZ)
    else if n then (f.nanBits, flNV)
    else
      let l := Nat.log2 m
      let k : Int := (l : Int) + e
      if m = 2 ^ l then f.round (decide (k < 0)) k.natAbs 0 false
      else
        let y := toFx m (-(l : Int))
        let r : Int := k * fxOne + (fxLn y * fxOne / fxLn2 : Nat)
        f.round (decide (r < 0)) r.natAbs (-(workBits : Int)) true

/-- tanh x. -/
def tanhF (f : FFmt) : FV → Nat × Flags
  | .nan => (f.nanBits, 0)
  | .inf n => f.round n 1 0 false
  | .fin n m e =>
    if m = 0 then (f.pack n 0, 0)
    else if (Nat.log2 m : Int) + e < -40 then
      -- tanh x lies just below x in magnitude
      f.round n (m * 2 ^ 64 - 1) (e - 64) true
    else if 7 ≤ (Nat.log2 m : Int) + e then f.round n (2 ^ 64 - 1) (-64) true
    else
      -- (1 - u) / (1 + u) with u = exp(-2|x|)
      let (um, ue) := expOf true (2 * toFx m e)
      let u := toFx um ue
      let (q, qe, _) := quot (fxOne - u) 0 (fxOne + u) 0
      f.round n q qe true

/-- 1/(1 + e^-x). -/
def sigmF (f : FFmt) : FV → Nat × Flags
  | .nan => (f.nanBits, 0)
  | .inf n => if n then (f.pack false 0, 0) else f.round false 1 0 false
  | .fin n m e =>
    if m = 0 then f.round false 1 (-1) false
    else if 8 ≤ (Nat.log2 m : Int) + e then
      if n then f.round false 1 (-4096) true else f.round false (2 ^ 64 - 1) (-64) true
    else if (Nat.log2 m : Int) + e < -(workBits : Int) + 8 then
      if n then f.round false (2 ^ 64 - 1) (-65) true else f.round false 1 (-1) true
    else
      let (um, ue) := expOf true (toFx m e)
      let u := toFx um ue
      let (q, qe, _) := quot (if n then um else fxOne) (if n then ue + workBits else 0) (fxOne + u) 0
      f.round false q qe true

/-- `c * m / (sqrt(v) + eps)` with one rounding to FP32 (R147). -/
def adstep (m v eps c : FV) : Nat × Flags :=
  let (num, nf) := FV.mul c m
  let neg := v.isNeg && !v.isZero
  let root : FV × Bool :=
    if neg then (.nan, false)
    else match v with
      | .fin n k e => if k = 0 then (.fin n 0 0, false)
                      else let (r, re, st) := rootOf k e; (.fin false r re, st)
      | other => (other, false)
  let (den, df) := FV.add root.1 eps
  match num, den with
    | .nan, _ | _, .nan => (fp32.nanBits, nf ||| (if neg then flNV else 0) ||| df)
    | .inf _, .inf _ => (fp32.nanBits, flNV)
    | .inf n, .fin d _ _ => (fp32.overflowBits (n ^^ d), 0)
    | .fin n _ _, .inf d => (fp32.pack (n ^^ d) 0, 0)
    | .fin n k e, .fin d dm de =>
      if dm = 0 ∧ root.2 = false then
        if k = 0 then (fp32.nanBits, flNV) else (fp32.overflowBits (n ^^ d), flDZ)
      else if k = 0 then (fp32.pack (n ^^ d) 0, 0)
      else let (q, qe, st) := quot k e dm de; fp32.round (n ^^ d) q qe (st || root.2)

end Sys2Proof.Machine
end

