-- ==== Sys2Proof/Machine/Elem.lean ====
section
/-!
DEFINITION. Operations on one element: conversions between the sixteen formats (R34-R45), stochastic
rounding (R43), compensated pairs (R48, R49), dual-exponent blocks (R37-R40) and the element results
of the vector instructions (06_vector_instructions). Elements are patterns in their containers (R35).
-/

namespace Sys2Proof.Machine

/-- The canonical CP32 NaN (R45). -/
def cpNan : Nat := 0x7FC07FC0

/-- The halves of a CP32 element (R48). -/
def cpHalves (bits : Nat) : FV × FV := (bf16.decode (bits / 65536 % 65536), bf16.decode (bits % 65536))

/-- The exact value of an element of a format code, with the flags of forming it: a CP32 pair stands for `s + e`, which
is invalid for infinities of unlike signs (R46, R48). -/
def readElemF (code bits : Nat) : FV × Flags :=
  match ffmtOf code with
  | some f => (f.decode bits, 0)
  | none =>
    if code = 9 then (FV.ofInt (bitsInt 8 bits), 0)
    else if code = 10 then (FV.ofInt (bitsInt 4 bits), 0)
    else if code = 15 then (FV.ofInt (bitsInt 32 bits), 0)
    else FV.add (cpHalves bits).1 (cpHalves bits).2

/-- The exact value of an element of a format code. -/
def readElem (code bits : Nat) : FV := (readElemF code bits).1

/-- The split of R48 of an exact value that FP32 holds, into a CP32 pair: NX when `s + e` differs from it; UF when the
delivered `e` is not zero, is inexact, and its exact value lies below the smallest normal (R46; log 18). -/
def cpSplit (x : FV) : Nat × Flags :=
  match x with
  | .nan => (cpNan, 0)
  | .inf n => ((bf16.overflowBits n) * 65536, 0)
  | .fin n m e =>
    let (s0, f0) := bf16.round n m e false
    let s := if f0 &&& flOF ≠ 0 then bf16.pack n bf16.maxBits else s0
    let d := (FV.add x (bf16.decode s).negate).1
    let (e1, _) := rne32 d
    let (e2, _) := rne16 (fp32.decode e1)
    let differs := !(FV.eqv (bf16.decode e2) d)
    let tiny := !(bf16.decode e2).isZero && FV.lt d.abs (.fin false 1 (-126))
    (s * 65536 + e2, (if differs then flNX else 0) ||| (if differs && tiny then flUF else 0))

/-- The addition of R49 of an FP32 pattern to a CP32 pair, by five roundings. A first part held at the largest finite
value is an inexact step, and only its OF is not raised (R48). -/
def cpAdd (pair x : Nat) : Nat × Flags :=
  let s := (cpHalves pair).1
  let e := (cpHalves pair).2
  let xv := fp32.decode x
  if xv.isNan || s.isNan || e.isNan then (cpNan, 0)
  else
    let (yv, f1) := FV.add xv e
    if yv.isNan then (cpNan, flNV)
    else
      let (yb, g1) := rne32 yv
      let y := fp32.decode yb
      let (tv, f2) := FV.add s y
      if tv.isNan then (cpNan, flNV)
      else
        let (tb, g2) := rne32 tv
        let t := fp32.decode tb
        if t.isInf then
          (bf16.overflowBits t.isNeg * 65536,
            if xv.isInf || s.isInf || e.isInf then 0 else flOF ||| flNX)
        else
          -- c is one rounding of (s - t) + y
          let c0 := (FV.add (FV.add s t.negate).1 y).1
          let (cb, g3) := rne32 c0
          let (s0, g4) := rne16 t
          let big := decide (g4 &&& flOF ≠ 0)
          let s' := if big then bf16.pack t.isNeg bf16.maxBits else s0
          let (db, g5) := rne32 (FV.add t (bf16.decode s').negate).1
          let (e', g6) := rne16 (FV.add (fp32.decode db) (fp32.decode cb)).1
          (s' * 65536 + e',
            f1 ||| g1 ||| f2 ||| g2 ||| g3 ||| (if big then flNX else g4) ||| g5 ||| g6)

/-- Convert one element from one format code to another (R41, R42, R138). DESIGN CHOICE (log 67): a CP32 pair of
infinities of unlike signs, converted to CP32, keeps its bits with no flag; an INT32 that FP32 cannot hold is rounded to
FP32, with NX, before its split into CP32. -/
def convert (src dst bits : Nat) : Nat × Flags :=
  if src = 14 ∧ dst = 14 then
    (if (cpHalves bits).1.isNan || (cpHalves bits).2.isNan then cpNan else bits % 2 ^ 32, 0)
  else
    let (v, h) := readElemF src bits
    let (r, f) : Nat × Flags :=
      match ffmtOf dst with
      | some f => f.ofFV v
      | none =>
        if dst = 9 then intOfFV 8 v
        else if dst = 10 then intOfFV 4 v
        else if dst = 15 then intOfFV 32 v
        else
          let (w, f) := rne32 v
          let (r, g) := cpSplit (fp32.decode w)
          (r, f ||| g)
    (r, f ||| h)

/-- Stochastic conversion of an FP32 pattern to a floating format with 16 random bits (R43). -/
def stochastic (f : FFmt) (x rnd : Nat) : Nat × Flags :=
  match fp32.decode x with
  | .fin n m e =>
    if m = 0 then (f.pack n 0, 0)
    else
      let top : Int := (Nat.log2 m : Int) + e
      let q : Int := max (top - f.mb) f.emin
      let sh : Nat := (q - e).toNat
      let kept0 := if q ≤ e then m * 2 ^ (e - q).toNat else m / 2 ^ sh
      let rem := if q ≤ e then 0 else m % 2 ^ sh
      let window0 := rem * 65536 / 2 ^ sh
      let window := if rem * 65536 % 2 ^ sh = 0 then window0
                    else if window0 % 2 = 0 then window0 + 1 else window0
      let kept := if window + rnd ≥ 65536 then kept0 + 1 else kept0
      let bits0 := (q - f.emin).toNat * 2 ^ f.mb + kept0
      let bits := (q - f.emin).toNat * 2 ^ f.mb + kept
      if bits0 > f.maxBits ∨ bits > f.maxBits then (f.overflowBits n, flOF ||| flNX)
      else
        let nx : Bool := decide (window ≠ 0)
        let tiny : Bool := decide (top < 1 - (f.bias : Int))
        (f.pack n bits, (if nx then flNX else 0) ||| (if nx && tiny then flUF else 0))
  | v => f.ofFV v

/-! ### Dual-exponent blocks -/

/-- Element width of a DX format code (R37). -/
def dxBits : Nat → Nat
  | 11 => 8
  | 12 => 6
  | _ => 4

/-- Exponent of the unit of a DX element under a shared exponent (R37). -/
def dxUnit (n ex : Nat) : Int := (ex : Int) - 127 - ((n : Int) - 3)

/-- Q(x, E) of R40 on a magnitude. -/
def dxQ (n : Nat) (m : Nat) (e : Int) (ex : Nat) : Nat :=
  (rneInt false m (e - dxUnit n ex)).1.natAbs

/-- The least exponent in `[lo, 254]` whose Q fits, searched upward (R40). -/
def dxFit (n m : Nat) (e : Int) (mmax : Nat) : Nat → Nat → Nat
  | 0, ex => min ex 254
  | fuel + 1, ex =>
    if ex ≥ 254 then 254
    else if dxQ n m e ex ≤ mmax then ex else dxFit n m e mmax fuel (ex + 1)

/-- Value of a DX element under exponents `e0`, `e1`; a NaN block reads as NaN (R37). -/
def dxValue (n e0 e1 el : Nat) : FV :=
  if e0 = 255 ∨ e1 = 255 then .nan
  else
    let sel := el / 2 ^ (n - 1) % 2
    let sg := el / 2 ^ (n - 2) % 2
    let m := el % 2 ^ (n - 2)
    .fin (sg == 1) m (dxUnit n (if sel = 0 then e0 else e1))

/-- Quantise one element (R40). -/
def dxElem (n mmax e0 e1 : Nat) (x : FV) : Nat × Flags :=
  match x with
  | .fin ng m e =>
    let q0 := dxQ n m e e0
    let q1 := dxQ n m e e1
    let (sel, k, ov) := if q0 ≤ mmax then (0, q0, false) else (1, min q1 mmax, decide (q1 > mmax))
    let el := sel * 2 ^ (n - 1) + (if ng then 2 ^ (n - 2) else 0) + k
    let differs := !(FV.eqv (dxValue n e0 e1 el) x)
    (el, (if differs then flNX else 0) ||| (if k = 0 ∧ m ≠ 0 then flUF else 0)
        ||| (if ov then flOF else 0))
  | _ => (0, 0)

/-- Quantise a block of FP32 patterns to DXn with a gap: element codes, E0, E1, flags (R40). -/
def dxBlock (n gap : Nat) (xs : List Nat) : List Nat × Nat × Nat × Flags :=
  let vs := xs.map fp32.decode
  if vs.any (fun v => v.isNan || v.isInf) then (xs.map (fun _ => 0), 255, 255, flNV)
  else
    let mmax := 2 ^ (n - 2) - 1
    let a := vs.foldl (fun acc v => if FV.lt acc v.abs then v.abs else acc) (.fin false 0 0)
    let e1 := match a with
      | .fin _ m e => if m = 0 then 0 else dxFit n m e mmax 255 0
      | _ => 0
    let e0 := e1 - gap
    let r := vs.map (dxElem n mmax e0 e1)
    (r.map (·.1), e0, e1, r.foldl (fun f p => f ||| p.2) 0)

/-! ### Element results of the vector instructions -/

/-- Integer element width of an integer format code. -/
def intWidth : Nat → Nat
  | 9 => 8
  | 10 => 4
  | _ => 32

/-- Whether a format code is an integer code. -/
def isIntCode (code : Nat) : Bool := code == 9 || code == 10 || code == 15

/-- Limit an exact integer result: a limited one raises OF, and NX, since it differs from the exact one (R46, R53, R131, R133,
R143). -/
def satOF (w : Nat) (x : Int) : Nat × Flags :=
  let (r, l) := sat w x
  (intBits w r, if l then flOF ||| flNX else 0)

/-- Round an exact value to a floating format code. -/
def roundTo (code : Nat) (v : FV) (f : Flags) : Nat × Flags :=
  match ffmtOf code with
  | some fm => let (r, g) := fm.ofFV v; (r, f ||| g)
  | none => (0, f)

/-- VADD (R129, R131). -/
def elAdd (code a b : Nat) : Nat × Flags :=
  if isIntCode code then
    satOF (intWidth code) (bitsInt (intWidth code) a + bitsInt (intWidth code) b)
  else let (v, f) := FV.add (readElem code a) (readElem code b); roundTo code v f

/-- VSUB. -/
def elSub (code a b : Nat) : Nat × Flags :=
  if isIntCode code then
    satOF (intWidth code) (bitsInt (intWidth code) a - bitsInt (intWidth code) b)
  else let (v, f) := FV.add (readElem code a) (readElem code b).negate; roundTo code v f

/-- VMUL. -/
def elMul (code a b : Nat) : Nat × Flags :=
  if isIntCode code then
    satOF (intWidth code) (bitsInt (intWidth code) a * bitsInt (intWidth code) b)
  else let (v, f) := FV.mul (readElem code a) (readElem code b); roundTo code v f

/-- VMIN and VMAX (R130, R131): `less` picks the lesser. -/
def elPick (less : Bool) (code a b : Nat) : Nat × Flags :=
  if isIntCode code then
    let w := intWidth code
    let x := bitsInt w a
    let y := bitsInt w b
    (intBits w (if less then min x y else max x y), 0)
  else
    let x := readElem code a
    let y := readElem code b
    if x.isNan || y.isNan then roundTo code .nan 0
    else roundTo code (if FV.ltZ x y == less then x else y) 0

/-- `va * vb + c` with one rounding; `negP` negates the product and `negC` the addend (R132). -/
def elFma (negP negC : Bool) (code a b c : Nat) : Nat × Flags :=
  let (p, f) := FV.mul (readElem code a) (readElem code b)
  let p := if negP then p.negate else p
  let cv := readElem code c
  let (v, g) := FV.add p (if negC then cv.negate else cv)
  roundTo code v (f ||| g)

/-- VUN.NEG (R133). -/
def elNeg (code a : Nat) : Nat × Flags :=
  if isIntCode code then satOF (intWidth code) (-bitsInt (intWidth code) a)
  else roundTo code (readElem code a).negate 0

/-- VUN.ABS. -/
def elAbs (code a : Nat) : Nat × Flags :=
  if isIntCode code then satOF (intWidth code) (bitsInt (intWidth code) a).natAbs
  else roundTo code (readElem code a).abs 0

/-- A function of R133 on an element of a floating code. -/
def elFun (fn : FFmt → FV → Nat × Flags) (code a : Nat) : Nat × Flags :=
  match ffmtOf code with
  | some f => fn f (f.decode a)
  | none => (0, 0)

/-- The conditions of VCMP (R135). -/
inductive VCond where
  | eq | ne | lt | le | gt | ge | uo
  deriving DecidableEq, Repr

/-- One lane of VCMP on 32-bit elements of a code 0, 1 or 15 (R135). -/
def elCmp (c : VCond) (code a b : Nat) : Bool :=
  let x := readElem code a
  let y := readElem code b
  let un := x.isNan || y.isNan
  match c with
  | .eq => FV.eqv x y
  | .ne => un || !(FV.eqv x y)
  | .lt => FV.lt x y
  | .le => !un && !(FV.lt y x)
  | .gt => FV.lt y x
  | .ge => !un && !(FV.lt x y)
  | .uo => un

/-- VSCALEX: `va * 2^k` with one rounding (R142). -/
def elScale (code w a k : Nat) : Nat × Flags :=
  match readElem code a with
  | .fin n m e => if m = 0 then roundTo code (.fin n 0 0) 0
                  else roundTo code (.fin n m (e + bitsInt w k)) 0
  | v => roundTo code v 0

/-- VMOM1 (R146). -/
def elMom1 (beta alpha vd va : Nat) : Nat × Flags :=
  let (p, f) := FV.mul (fp32.decode beta) (fp32.decode vd)
  let (q, g) := FV.mul (fp32.decode alpha) (fp32.decode va)
  let (s, h) := FV.add p q
  let (r, i) := rne32 s
  (r, f ||| g ||| h ||| i)

/-- VMOM2 (R146). -/
def elMom2 (beta alpha vd va : Nat) : Nat × Flags :=
  let (p, f) := FV.mul (fp32.decode beta) (fp32.decode vd)
  let (q, g) := FV.mul (fp32.decode va) (fp32.decode va)
  let (q2, g2) := FV.mul (fp32.decode alpha) q
  let (s, h) := FV.add p q2
  let (r, i) := rne32 s
  (r, f ||| g ||| g2 ||| h ||| i)

/-- VRNG: one xorshift step (R148). -/
def xorshift (x : BitVec 32) : BitVec 32 :=
  let x := x ^^^ (x <<< 13)
  let x := x ^^^ (x >>> 17)
  x ^^^ (x <<< 5)

/-- A shift of a `w`-bit element by `n` mod `w` (R137). DEDUCED (log 90): bits [7:6] of a 6-bit element take no part, so
the sign that an arithmetic shift replicates is bit 5. -/
def elShift (kind : Nat) (code w a b : Nat) : Nat :=
  let n := b % w
  let vw := if code = 6 ∨ code = 7 then 6 else w
  let x := a % 2 ^ vw
  let r := if kind = 0 then x * 2 ^ n
           else if kind = 1 then x / 2 ^ n
           else intBits vw (bitsInt vw x / (2 ^ n : Int))
  r % 2 ^ vw

/-- Width of an element's value bits inside its `w`-bit container (R123): bits [7:6] of a 6-bit
element read as nothing and are written as zero. -/
def valueBits (code w : Nat) : Nat := if code = 6 ∨ code = 7 then 6 else w

/-- The node of the tree of R55: kind 0 SUM, 1 MAX, 2 MIN, on FP32 patterns. -/
def redF (kind a b : Nat) : Nat × Flags :=
  if kind = 0 then add32 a b
  else
    let x := fp32.decode a
    let y := fp32.decode b
    if x.isNan || y.isNan then (fp32.nanBits, 0)
    else if (FV.ltZ x y) == (kind == 2) then (a, 0) else (b, 0)

/-- The node of the tree of R55 on INT32 patterns. -/
def redI (kind a b : Nat) : Nat × Flags :=
  let x := bitsInt 32 a
  let y := bitsInt 32 b
  if kind = 0 then satOF 32 (x + y)
  else (intBits 32 (if kind = 1 then max x y else min x y), 0)

/-- The identity an inactive element enters the tree with (R55, R143). -/
def redIdent (kind : Nat) (isInt : Bool) : Nat :=
  if isInt then (if kind = 0 then 0 else if kind = 1 then 0x80000000 else 0x7FFFFFFF)
  else (if kind = 0 then 0x80000000 else if kind = 1 then 0xFF800000 else 0x7F800000)

/-- One level of the tree: elements 2i and 2i + 1 combine, an odd last one passes (R55). -/
def redLevel (node : Nat → Nat → Nat × Flags) : List Nat → List Nat × Flags
  | a :: b :: rest =>
    let (r, f) := node a b
    let (rs, g) := redLevel node rest
    (r :: rs, f ||| g)
  | xs => (xs, 0)

/-- The tree of R55; each level halves the list, so `fuel` of the list's bit length suffices. -/
def redTree (node : Nat → Nat → Nat × Flags) : Nat → List Nat → Flags → Nat × Flags
  | 0, xs, f => (xs.headD 0, f)
  | fuel + 1, xs, f =>
    match xs with
    | [] => (0, f)
    | [x] => (x, f)
    | _ => let (ys, g) := redLevel node xs; redTree node fuel ys (f ||| g)

end Sys2Proof.Machine
end

