-- ==== Sys2Proof/Machine/Memory.lean ====
section
/-!
DEFINITION. Sparse tables in canonical form, device memory, 128-byte lines and cache copies (R7, R266,
R267, R269), the tile store (R241) and the runs of equal elements that registers are held in.
-/

namespace Sys2Proof.Machine

/-! ## Sparse tables with rising keys -/

/-- Look a key up. -/
def sget {α : Type} (k : Nat) : Sparse α → Option α
  | [] => none
  | x :: r => if x.1 = k then some x.2 else if k < x.1 then none else sget k r

/-- Set a key. -/
def sput {α : Type} (k : Nat) (v : α) : Sparse α → Sparse α
  | [] => [(k, v)]
  | x :: r => if x.1 < k then x :: sput k v r else if x.1 = k then (k, v) :: r else (k, v) :: x :: r

/-- Remove a key. -/
def sdel {α : Type} (k : Nat) : Sparse α → Sparse α
  | [] => []
  | x :: r => if x.1 = k then r else x :: sdel k r

/-- Set a key of a table whose absent keys read as `z`: writing `z` removes the entry. -/
def sset {α : Type} [DecidableEq α] (z : α) (k : Nat) (v : α) (m : Sparse α) : Sparse α :=
  if v = z then sdel k m else sput k v m

/-- Read a key of a table whose absent keys read as `z`. -/
def srd {α : Type} (z : α) (k : Nat) (m : Sparse α) : α := (sget k m).getD z

/-! ## Device memory -/

/-- The byte at a physical address. -/
def Memory.byte (m : Memory) (a : Nat) : Byte := srd Memory.blank a m

/-- Write a byte, keeping the canonical form. -/
def Memory.setByte (m : Memory) (a : Nat) (b : Byte) : Memory := sset Memory.blank a b m

/-- Read `n` bytes as a little-endian number (R7). -/
def Memory.read (m : Memory) (a : Nat) : Nat → Nat
  | 0 => 0
  | n + 1 => (m.byte a).toNat + 256 * Memory.read m (a + 1) n

/-- Write the low `n` bytes of a number, little-endian (R7). -/
def Memory.write (m : Memory) (a : Nat) (x : Nat) : Nat → Memory
  | 0 => m
  | n + 1 => Memory.write (m.setByte a (BitVec.ofNat 8 x)) (a + 1) (x / 256) n

/-- Write the bytes of `x` whose mask bit is set among the `n` bytes from `a`. -/
def Memory.writeMask (m : Memory) (a : Nat) (x mask : Nat) : Nat → Memory
  | 0 => m
  | n + 1 =>
    Memory.writeMask (if mask % 2 = 1 then m.setByte a (BitVec.ofNat 8 x) else m)
      (a + 1) (x / 256) (mask / 2) n

/-! ## Masks and lines -/

/-- The mask of `n` bytes from byte `o` of a line. -/
def spanMask (o n : Nat) : BitVec 128 := BitVec.ofNat 128 ((2 ^ n - 1) * 2 ^ o)

/-- Every byte of a line. -/
def fullMask : BitVec 128 := spanMask 0 128

/-- The bit mask of a byte mask, `n` bytes. -/
def widen : Nat → Nat → Nat
  | 0, _ => 0
  | n + 1, m => (if m % 2 = 1 then 255 else 0) + 256 * widen n (m / 2)

/-- `new` in the bytes of the mask, `old` elsewhere. -/
def mergeLine (mask : BitVec 128) (new old : BitVec 1024) : BitVec 1024 :=
  let w := BitVec.ofNat 1024 (widen 128 mask.toNat)
  (new &&& w) ||| (old &&& ~~~w)

/-- `n` bytes from byte `o` of a line, as a number. -/
def lineBytes (d : BitVec 1024) (o n : Nat) : Nat := d.toNat / 2 ^ (8 * o) % 2 ^ (8 * n)

/-- The line that holds an address (R266). -/
def lineOf (va : Nat) : Nat := va / 128

/-- A copy of a line in a list of copies (R266). -/
def findLine (ls : List Line) (cid : BitVec 12) (la : Nat) : Option Line :=
  ls.find? fun l => l.la == la && l.cid == cid

/-- The bytes of a copy that are valid: all of a whole copy, the dirty ones of a partial one (R267). -/
def Line.valid (l : Line) : BitVec 128 := if l.whole then fullMask else l.dirty

/-- Every byte of a mask is valid in the copy. -/
def Line.holds (l : Line) (need : BitVec 128) : Bool := need &&& ~~~l.valid == 0

/-- Drop a copy. -/
def dropLine (ls : List Line) (cid : BitVec 12) (la : Nat) : List Line :=
  ls.filter fun l => !(l.la == la && l.cid == cid)

/-- Put a copy in place of the one before, as the newest; a copy with no valid byte is none (R267). -/
def putLine (ls : List Line) (l : Line) : List Line :=
  dropLine ls l.cid l.la ++ if !l.whole && l.dirty == 0 then [] else [l]

/-- The writer stamp of a store (R269). -/
def stampOf (cid : BitVec 12) (core : Fin 64) (wseq : Nat) : BitVec 48 :=
  BitVec.ofNat 48 (cid.toNat + core.val * 2 ^ 12 + wseq % 2 ^ 30 * 2 ^ 18)

/-- A copy with no valid byte. -/
def Line.blank (cid : BitVec 12) (la : Nat) : Line := ⟨cid, la, 0, false, 0, 0⟩

/-- The copy, or one with no valid byte. -/
def lineOr (ls : List Line) (cid : BitVec 12) (la : Nat) : Line := (findLine ls cid la).getD (Line.blank cid la)

/-- Fill a copy from below: dirty bytes are kept, the rest taken (R160, R267). -/
def Line.fill (l : Line) (below : BitVec 1024) : Line :=
  { l with data := mergeLine l.dirty l.data below, whole := true }

/-- Write bytes into a copy: its dirty mask grows, and it takes the stamp when it was clean (R160,
R269). -/
def Line.write (l : Line) (mask : BitVec 128) (d : BitVec 1024) (stamp : BitVec 48) : Line :=
  { l with
    data := mergeLine mask d l.data
    dirty := l.dirty ||| mask
    stamp := if l.dirty = 0 then stamp else l.stamp }

/-- A copy that has been written back: clean. Of a partial one nothing valid is left (R176, R267). -/
def Line.clean (l : Line) : Line := { l with dirty := 0 }

/-- Bytes that a lower level now holds, put into a copy, which holds them clean (R173, R285). -/
def Line.pour (l : Line) (mask : BitVec 128) (d : BitVec 1024) : Line :=
  { l with data := mergeLine mask d l.data, dirty := l.dirty &&& ~~~mask }

/-- The lower level's copy after a copy's dirty bytes are written back into it: allocated when absent (R267, R269). -/
def mergedBelow (ls : List Line) (l : Line) : Line := (lineOr ls l.cid l.la).write l.dirty l.data l.stamp

/-- The home die, [2, 5], of a virtual address (R270). -/
def homeDie (va : Nat) : Fin 8 :=
  ⟨2 + (va / 2 ^ 21 % 4 ^^^ va / 2 ^ 23 % 4) % 4, by omega⟩

/-- The Cumulus index of a virtual address's home (R270). -/
def homeIdx (va : Nat) : Fin 4 := ⟨(va / 2 ^ 21 % 4 ^^^ va / 2 ^ 23 % 4) % 4, by omega⟩

/-- The home slice of a virtual address (R270). -/
def homeSlice (va : Nat) : Nat :=
  let a := va / 2 ^ 7 % 128
  let b := va / 2 ^ 14 % 128
  128 * ((a + b) % 3) + (a ^^^ b)

/-! ## Sets and ways (R266; log 68). Each level has 16 ways; which set of its slice a line takes is the model's own. -/

/-- The set of a block cache: one of 512. -/
def blockSet (la : Nat) : Nat := la % 512

/-- The set of an RDC: slice and one of its 64 sets. -/
def rdcSet (la : Nat) : Nat := 64 * homeSlice (la * 128) + la / 128 % 64

/-- The set of home: die, slice and one of its 128 sets. -/
def homeSet (la : Nat) : Nat := 128 * (384 * (homeIdx (la * 128)).val + homeSlice (la * 128)) + la / 128 % 128

/-- The copy that leaves so that a set keeps to its 16 ways once the copy of line `la` of context `cid` is put: none while it
has at most 16; else the `i`-th oldest of the others that may leave, and where none may, the copy just put. -/
def victim (ls : List Line) (set : Nat → Nat) (may : Line → Bool) (cid : BitVec 12) (la : Nat) (pick : Nat → Nat) :
    Option Line :=
  if ls.length ≤ 16 then none
  else
    let inSet := ls.filter fun l => set l.la == set la
    let mine (l : Line) : Bool := l.la == la && l.cid == cid
    let free := inSet.filter fun l => !mine l && may l
    if inSet.length ≤ 16 then none
    else free[pick (free.length - 1)]?.orElse fun _ => inSet.find? fun l => mine l && may l

/-- The line numbers that share a byte with `[a, a + n)`. -/
def linesOf (a n : Nat) : List Nat :=
  if n = 0 then [] else (List.range ((a + n - 1) / 128 - a / 128 + 1)).map (a / 128 + ·)

/-- The pages, in units of 2 MiB, that share a byte with `[a, a + n)`. -/
def pagesOf (a n : Nat) : List Nat :=
  if n = 0 then [] else (List.range ((a + n - 1) / 2 ^ 21 - a / 2 ^ 21 + 1)).map (a / 2 ^ 21 + ·)

/-! ## Runs -/

/-- Number of elements. -/
def rlen {α : Type} (r : Runs α) : Nat := (r.map (·.1)).foldl (· + ·) 0

/-- Add `n` equal elements in front of canonical runs. -/
def rcons {α : Type} [DecidableEq α] (n : Nat) (x : α) (r : Runs α) : Runs α :=
  if n = 0 then r
  else match r with
    | [] => [(n, x)]
    | y :: t => if y.2 = x then (n + y.1, x) :: t else (n, x) :: y :: t

/-- The canonical form: no empty run, no equal neighbours. -/
def rnorm {α : Type} [DecidableEq α] : Runs α → Runs α
  | [] => []
  | x :: r => rcons x.1 x.2 (rnorm r)

/-- Runs of a list. -/
def rof {α : Type} [DecidableEq α] : List α → Runs α
  | [] => []
  | x :: r => rcons 1 x (rof r)

/-- The list of the elements. -/
def rlist {α : Type} : Runs α → List α
  | [] => []
  | x :: r => List.replicate x.1 x.2 ++ rlist r

/-- Element `i`, or `z` past the end. -/
def rget {α : Type} (z : α) : Runs α → Nat → α
  | [], _ => z
  | x :: r, i => if i < x.1 then x.2 else rget z r (i - x.1)

/-- The first `n` elements. -/
def rtake {α : Type} : Nat → Runs α → Runs α
  | _, [] => []
  | n, x :: r => if n = 0 then [] else if n ≤ x.1 then [(n, x.2)] else x :: rtake (n - x.1) r

/-- All but the first `n` elements. -/
def rdrop {α : Type} : Nat → Runs α → Runs α
  | _, [] => []
  | n, x :: r => if n = 0 then x :: r else if n < x.1 then (x.1 - n, x.2) :: r else rdrop (n - x.1) r

/-- Concatenation in canonical form. -/
def rapp {α : Type} [DecidableEq α] (a b : Runs α) : Runs α := rnorm (a ++ b)

/-- Map one element function over runs. -/
def rmap {α β : Type} [DecidableEq β] (f : α → β) (r : Runs α) : Runs β :=
  rnorm (r.map fun x => (x.1, f x.2))

/-- Pair two sequences element by element; `fuel` bounds the number of runs. -/
def rzipGo {α β : Type} : Nat → Runs α → Runs β → Runs (α × β)
  | 0, _, _ => []
  | _ + 1, [], _ => []
  | _ + 1, _, [] => []
  | f + 1, (n, x) :: r, (m, y) :: t =>
    let k := min n m
    let r' := if k < n then (n - k, x) :: r else r
    let t' := if k < m then (m - k, y) :: t else t
    (k, (x, y)) :: rzipGo f r' t'

/-- Pair two sequences element by element. -/
def rzip {α β : Type} (a : Runs α) (b : Runs β) : Runs (α × β) := rzipGo (a.length + b.length + 1) a b

/-- Little-endian bytes of 32-bit elements (R7). -/
def wordBytes (w : Word) : List Byte :=
  [w.extractLsb' 0 8, w.extractLsb' 8 8, w.extractLsb' 16 8, w.extractLsb' 24 8]

/-- A little-endian number of a list of bytes (R7). -/
def bytesNat : List Byte → Nat
  | [] => 0
  | b :: r => b.toNat + 256 * bytesNat r

/-- The `n` low bytes of a number, little-endian (R7). -/
def natBytes : Nat → Nat → List Byte
  | 0, _ => []
  | n + 1, x => BitVec.ofNat 8 x :: natBytes n (x / 256)

/-- 32-bit elements of little-endian bytes (R7). -/
def bytesWords : List Byte → List Word
  | a :: b :: c :: d :: r => BitVec.ofNat 32 (bytesNat [a, b, c, d]) :: bytesWords r
  | _ => []

/-- `n` 32-bit elements of a number whose low bits are element 0. -/
def natWords (x : Nat) : Nat → List Word
  | 0 => []
  | n + 1 => BitVec.ofNat 32 x :: natWords (x / 2 ^ 32) n

/-- The number whose low bits are element 0. -/
def wordsNat : List Word → Nat
  | [] => 0
  | w :: r => w.toNat + 2 ^ 32 * wordsNat r

/-! ## The tile store (R241): bank group `bg`, tile `i` of 512 bytes under key 4096·bg + i. -/

/-- The key of a tile. -/
def tileKey (bg : Fin 2) (i : Nat) : Nat := 4096 * bg.val + i

/-- The tiles that share a byte with `[off, off + n)` (R169). -/
def tilesOf (off n : Nat) : List Nat :=
  if n = 0 then [] else (List.range ((off + n - 1) / 512 - off / 512 + 1)).map (off / 512 + ·)

/-- `n` bytes of a bank group from an offset, as a number; at most 512 by construction of the callers'
pieces. -/
def tileRead (t : Sparse (BitVec 4096)) (bg : Fin 2) (off n : Nat) : Nat :=
  (tilesOf off n).foldr
    (fun i acc =>
      let lo := max off (512 * i)
      let hi := min (off + n) (512 * i + 512)
      (srd 0 (tileKey bg i) t).toNat / 2 ^ (8 * (lo - 512 * i)) % 2 ^ (8 * (hi - lo))
        + 2 ^ (8 * (hi - lo)) * acc) 0

/-- Write `n` bytes of a number into a bank group from an offset. -/
def tileWrite (t : Sparse (BitVec 4096)) (bg : Fin 2) (off n x : Nat) : Sparse (BitVec 4096) :=
  (tilesOf off n).foldl
    (fun t i =>
      let lo := max off (512 * i)
      let hi := min (off + n) (512 * i + 512)
      let old := (srd 0 (tileKey bg i) t).toNat
      let piece := x / 2 ^ (8 * (lo - off)) % 2 ^ (8 * (hi - lo))
      let below := old % 2 ^ (8 * (lo - 512 * i))
      let above := old / 2 ^ (8 * (hi - 512 * i))
      sset 0 (tileKey bg i)
        (BitVec.ofNat 4096 (below + piece * 2 ^ (8 * (lo - 512 * i)) + above * 2 ^ (8 * (hi - 512 * i)))) t) t

/-- Write a tag to every tile of a range (R242). -/
def tagWrite (g : Sparse (BitVec 16)) (bg : Fin 2) (off n : Nat) (tag : BitVec 16) : Sparse (BitVec 16) :=
  (tilesOf off n).foldl (fun g i => sset 0 (tileKey bg i) tag g) g

/-- Every tile of a range carries a tag (R243). -/
def tagMatch (g : Sparse (BitVec 16)) (bg : Fin 2) (off n : Nat) (tag : BitVec 16) : Bool :=
  (tilesOf off n).all fun i => srd 0 (tileKey bg i) g == tag

end Sys2Proof.Machine
end

