-- ==== Sys2Proof/Machine/Ops.lean ====
section
/-!
DEFINITION. The named operations every meaning goes through: cores and registers, tokens, timed
steps, issue (R77-R79, R102), raising a trap (R246, R317), the consistent cut and taking it (R318-R321),
and the return from it (R322).
-/

namespace Sys2Proof.Machine

/-! ## Cores -/

/-- Core `c`. -/
def State.core (s : State) (c : Fin 64) : Core := s.cores[c]

/-- Replace core `c`. -/
def State.setCore (s : State) (c : Fin 64) (k : Core) : State := { s with cores := s.cores.set c k }

/-- Change core `c`. -/
def State.modCore (s : State) (c : Fin 64) (f : Core → Core) : State := s.setCore c (f (s.core c))

/-- The issuing core. -/
def State.me (s : State) : Core := s.core s.turn.core

/-- Change the issuing core. -/
def State.modMe (s : State) (f : Core → Core) : State := s.modCore s.turn.core f

/-- Change what the same-cycle rule governs (R16). -/
def Core.modVis (k : Core) (f : Vis → Vis) : Core := { k with vis := f k.vis }

/-- A list mapped over a vector. -/
def vmap {α β : Type} {n : Nat} (f : α → β) (v : Vector α n) : Vector β n :=
  ⟨⟨v.toList.map f⟩, by simp⟩

/-- All core numbers. -/
def coreList : List (Fin 64) := List.finRange 64

/-- The Zenith die of a core (R4). -/
def zenithOf (c : Fin 64) : Fin 8 := ⟨c.val / 32, by omega⟩

/-- The Cumulus die, [2, 5], of a core (R4). -/
def cumulusOf (c : Fin 64) : Fin 8 := ⟨2 + c.val / 16, by omega⟩

/-- The Cumulus index, [0, 3], of a core (R4). -/
def cumIdx (c : Fin 64) : Fin 4 := ⟨c.val / 16, by omega⟩

/-- The latency from die `a` to die `b` (R229). -/
def State.lat (s : State) (a b : Fin 8) : Nat := s.latt[a][b]

/-- The local count of a die, 64 bits (R228-R230). -/
def State.localCount (s : State) (d : Fin 8) : Dword := BitVec.ofNat 64 s.zc - BitVec.ofNat 64 (s.lat 0 d)

/-! ## Registers -/

/-- Reading a g register: g0 reads zero (R14). -/
def Vis.rg (v : Vis) (r : Fin 64) : Dword := if r = 0 then 0 else v.g[r]

/-- Writing a g register: a write of g0 is discarded (R14). -/
def Vis.wg (v : Vis) (r : Fin 64) (x : Dword) : Vis := if r = 0 then v else { v with g := v.g.set r x }

/-- The value a word issuing now reads from a g register: the one at the start of the cycle (R16). -/
def State.rg (s : State) (r : Fin 64) : Dword := s.me.old.rg r

/-- Write a g register at the end of this cycle (R16). -/
def State.wg (s : State) (r : Fin 64) (x : Dword) : State := s.modMe (·.modVis (·.wg r x))

/-- The registers g0-g15 that X reads (R14). -/
def gx (r : Fin 16) : Fin 64 := ⟨r.val, by omega⟩

/-- Reading a mask register: m0 reads all ones (R14). -/
def Core.rm (k : Core) (r : Fin 8) : Runs Bool := if r = 0 then [(6144, true)] else k.m[r]

/-- Writing a mask register: a write of m0 is discarded (R14). -/
def Core.wm (k : Core) (r : Fin 8) (x : Runs Bool) : Core :=
  if r = 0 then k else { k with m := k.m.set r x }

/-- The CSRs an issuing word reads (R111). -/
def State.csr (s : State) : Csr := s.me.old.csr

/-- Change the issuing core's CSRs at the end of this cycle (R111). -/
def State.modCsr (s : State) (f : Csr → Csr) : State :=
  s.modMe (·.modVis fun v => { v with csr := f v.csr })

/-- ERRINJ.ARM cleared. -/
def Vis.disarm (v : Vis) : Vis := { v with csr := { v.csr with errinj := v.csr.errinj &&& ~~~1 } }

/-- An armed injection has been taken in this cycle (R284, R369): ARM is clear, for the rest of the cycle too. -/
def Core.disarm (k : Core) : Core := { k with vis := k.vis.disarm, old := k.old.disarm }

/-- OR flags into FFLAGS (R47). -/
def Core.orFlags (k : Core) (f : Flags) : Core :=
  k.modVis fun v => { v with csr := { v.csr with fflags := v.csr.fflags ||| f } }

/-! ## Tokens -/

/-- A token as an issuing word sees it (R225). -/
def State.tok (s : State) (k : Fin 64) : Token := s.me.old.tok[k]

/-- A word may not produce a token that is PENDING, or that a word of a lower cluster has produced in this same cycle: a
token is never PENDING for two commands at once (R161, R225). DESIGN CHOICE (log 70): the later cluster's word traps. -/
def State.taken (s : State) (k : Fin 64) : Bool := (s.tok k).st == .pending || s.me.vis.tok[k].st == .pending

/-- Set a token at the end of this cycle. -/
def Core.setTok (c : Core) (k : Fin 64) (t : Token) : Core :=
  c.modVis fun v => { v with tok := v.tok.set k t }

/-- A produced token: PENDING with code 0 (R161); any chain value is discarded (R221). -/
def Core.pend (c : Core) (k : Fin 64) : Core := c.setTok k ⟨.pending, 0, none⟩

/-- A token completes DONE, leaving a chain value when the command has one (R220). -/
def Core.done (c : Core) (k : Fin 64) (chain : Option (Bool × Word)) : Core := c.setTok k ⟨.done, 0, chain⟩

/-- A token fails with a code (R226). -/
def Core.fail (c : Core) (k : Fin 64) (code : Byte) : Core := c.setTok k ⟨.failed, code, none⟩

/-- The 16-bit image of a token (R15). -/
def Token.image (t : Token) : BitVec 16 :=
  let st : Nat := match t.st with
    | .empty => 0
    | .pending => 1
    | .done => 2
    | .failed => 3
  BitVec.ofNat 16 ((match t.st with
    | .failed => t.code.toNat
    | _ => 0) * 256 + st)

/-! ## Timed steps, open choices and identifiers -/

/-- Insert a timed step, after those due at the same count. -/
def insertAt (x : Timed) : List Timed → List Timed
  | [] => [x]
  | y :: r => if y.at_ ≤ x.at_ then y :: insertAt x r else x :: y :: r

/-- A step of the device happens at count `t`. -/
def State.at_ (s : State) (t : Nat) (i : Instr) (e : Ev) : State :=
  { s with agenda := insertAt ⟨t, i, e⟩ s.agenda }

/-- Insert a timed step before those due at the same count. -/
def insertFirst (x : Timed) : List Timed → List Timed
  | [] => [x]
  | y :: r => if y.at_ < x.at_ then y :: insertFirst x r else x :: y :: r

/-- A step that reads the state as it stood before its count's other steps happens at count `t`. DESIGN CHOICE (log 88): of two
such steps of one count the one entered later happens first. -/
def State.first (s : State) (t : Nat) (i : Instr) (e : Ev) : State :=
  { s with agenda := insertFirst ⟨t, i, e⟩ s.agenda }

/-- The subject of a step that concerns a pending item of a core. -/
def Ev.of (c : Fin 64) (id : Nat) : Ev := ⟨c, id, [], []⟩

/-- The subject of a step given by numbers. -/
def Ev.nums (l : List Nat) : Ev := ⟨0, 0, l, []⟩

/-- Number `i` of the current event. -/
def State.arg (s : State) (i : Nat) : Nat := s.ev.args.getD i 0

/-- The next choice of the tape, in [0, n]; an empty tape answers 0 (log 11). -/
def State.choice (s : State) (n : Nat) : Nat := min n (s.choices.headD 0)

/-- The tape after one choice. -/
def State.chosen (s : State) : State := { s with choices := s.choices.tail }

/-- A step happens at an open count between `lo` and `lo + span` from now (R239, R240). -/
def State.later (s : State) (lo span : Nat) (i : Instr) (e : Ev) : State :=
  (s.at_ (s.zc + lo + s.choice span) i e).chosen

/-- The steps that end a bounded request (R239). -/
def bounded : Instr → Bool
  | .loadLands | .sttComplete | .ldbFillDone | .copyComplete => true
  | _ => false

/-- A condition of R240 does not hold: the bounded requests that `p` picks end later by an open delay. -/
def State.loosen (s : State) (p : Timed → Bool) : State :=
  let late (x : Timed) : Bool := bounded x.op && p x
  let moved := (s.agenda.filter late).map fun x => Timed.mk (x.at_ + s.choices.headD 0) x.op x.ev
  if moved.isEmpty then s
  else State.chosen { s with agenda := moved.foldl (fun l x => insertAt x l) (s.agenda.filter fun x => !late x) }

/-- Use up an identifier. -/
def State.bump (s : State) : State := { s with nextId := s.nextId + 1 }

/-- Use up `n` open data values. -/
def State.useFree (s : State) (n : Nat) : State := { s with freeCtr := s.freeCtr + n }

/-- An MSI-X vector is sent; while its mask bit is set it stays pending (R382). -/
def State.msi (s : State) (v : Nat) : State :=
  if s.vecMask.getLsbD v then { s with vecPend := s.vecPend ||| BitVec.twoPow 2048 v } else { s with msix := s.msix ++ [v] }

/-- The host writes the mask bit of a vector; one that waits is sent when its mask bit clears (R382). -/
def State.vecControl (s : State) (v : Nat) (mask : Bool) : State :=
  let bit := BitVec.twoPow 2048 v
  if mask then { s with vecMask := s.vecMask ||| bit }
  else
    let t : State := { s with vecMask := s.vecMask &&& ~~~bit, vecPend := s.vecPend &&& ~~~bit }
    if s.vecPend.getLsbD v then t.msi v else t

/-- A core has written PSUB: the write reaches the governor after the latency from its die (R359). -/
def State.psubWritten (s : State) (c : Fin 64) (base : Dword) : State :=
  { s with gov := { s.gov with reads := s.gov.reads ++ [(c, base, s.zc + s.lat (zenithOf c) 7)] } }

/-! ## Series pairs (R262, R354) -/

/-- The window of 16 local counts in which a Zenith 0 count falls on a die (R262). -/
def State.windowOf (s : State) (d : Fin 8) (t : Nat) : Nat := (t - s.lat 0 d) / 16

/-- What a member can do in a window: quarters of the cycles of a cell's PEs, a quarter being a MAC at the highest row rate
(R255; log 76), or beats of the vector units of a core (R262, R354). -/
def windowRoom (d : Fin 8) : Nat := if d.val < 2 then 16 * 6 else 16 * 128 * 128 * 4

/-- The work of a member in a window. -/
def workOf (l : List Work) (die member win : Nat) : Nat :=
  ((l.filter fun w => w.die == die && w.member == member && w.win == win).map (·.n)).foldl (· + ·) 0

/-- A member works `per` in each of the `n` cycles from count `t`; filler gives way to work (R263, R354). -/
def State.works (s : State) (d : Fin 8) (member t n per : Nat) : State :=
  let wins := ((List.range n).map fun i => s.windowOf d (t + i)).dedup
  let new := wins.map fun w =>
    Work.mk d.val member w (per * ((List.range n).filter fun i => s.windowOf d (t + i) == w).length)
  let work := s.work ++ new
  { s with
    work := work
    filler := s.filler.map fun f =>
      if f.die = d.val ∧ f.member = member then { f with n := min f.n (windowRoom d - workOf work f.die f.member f.win) } else f }

/-- The memory of a Cumulus die is usable (R372). -/
def State.memReady (s : State) (d : Nat) : Bool := s.regs.ready0.getLsbD (27 + (d - 2))

/-- A Cumulus die takes no access: it is being reset (R370), or its memory is not usable (R372). What comes of an access to
unusable memory the spec does not say: DESIGN CHOICE (log 80), as of one to a die that is being reset. -/
def State.dieBusy (s : State) (d : Nat) : Bool := (s.regs.drstState != 0 && s.regs.drstCur == d) || !s.memReady d

/-- The end code of a context that uses a die under reset (R370, R371). -/
def codeDieReset : Nat := 0x25

/-- The end code of a context whose save fails (R316, R325). -/
def codeSaveFailed : Nat := 0x24

/-- A save sequence runs on a core (R325). -/
def Core.saving (k : Core) : Bool :=
  match k.phase with
  | .saving _ => true
  | _ => false

/-! ## Ring counters (R13, R77, R78) -/

/-- The counter a cluster waits on with WP and WN, and gives into with GP and GN (R77), in the order of
`Vis.ring`. -/
def ringIx : Cl → Fin 8 × Fin 8 × Fin 8 × Fin 8
  | .c => (3, 4, 7, 0)
  | .l => (0, 5, 4, 1)
  | .x => (1, 6, 5, 2)
  | .w => (2, 7, 6, 3)

/-- Every wait a word names finds its counter non-zero at the start of the cycle (R78). -/
def linkWaits (l : Link) (cl : Cl) (v : Vis) : Bool :=
  let (wp, wn, _, _) := ringIx cl
  (!l.wp || v.ring[wp] != 0) && (!l.wn || v.ring[wn] != 0)

/-- Some give finds its counter at 15 at the start of the cycle (R78). -/
def linkOverflows (l : Link) (cl : Cl) (v : Vis) : Bool :=
  let (_, _, gp, gn) := ringIx cl
  (l.gp && v.ring[gp] == 15) || (l.gn && v.ring[gn] == 15)

/-- The link bits act at the end of the issue cycle (R78). -/
def linkApply (l : Link) (cl : Cl) (v : Vis) : Vis :=
  let (wp, wn, gp, gn) := ringIx cl
  let step (on : Bool) (i : Fin 8) (d : BitVec 4) (r : Vector (BitVec 4) 8) : Vector (BitVec 4) 8 :=
    if on then r.set i (r[i] + d) else r
  { v with ring := step l.wp wp 15 (step l.wn wn 15 (step l.gp gp 1 (step l.gn gn 1 v.ring))) }

/-! ## The loop engine (R102-R106) -/

/-- A cluster's place in `Core.clus` (R12). -/
def clIx : Cl → Fin 4
  | .c => 0 | .l => 1 | .x => 2 | .w => 3

/-- Stage `s` is active: `first ≤ t - s < last` (R102). -/
def Loop.stage (l : Loop) (s : Nat) : Bool := l.first + s ≤ l.t && l.t < l.last + s

/-- The stage predicates of the current slot, the index and the remaining count (R102). -/
def Loop.refresh (l : Loop) : Loop :=
  { l with
    index := BitVec.ofNat 32 l.t
    remaining := BitVec.ofNat 32 (l.last - min (l.t + 1) l.last)
    preds := BitVec.ofNat 8 ((List.range l.stages).foldl
      (fun a s => if l.stage s then a + 2 ^ s else a) 0) }

/-- Iterations started, the current slot's included (R105, R106). -/
def Loop.started (l : Loop) : Nat := min (l.t + 1) l.last

/-- A break: no new iteration starts (R106). -/
def Loop.brk (l : Loop) : Loop := { l with last := l.started }

/-- The end of a slot: the REQ check of a preemptible level (R105), then the next slot, or the end of the
level. -/
def Loop.slotEnd (req : Bool) (l : Loop) : Loop :=
  let l := if l.pf && req then l.brk else l
  let l := { l with t := l.t + 1 }
  if l.t < l.last + (l.stages - 1) then l.refresh
  else { l with active := false, remaining := 0, preds := 0 }

/-- Setting a level up at its first slot (R102). -/
def Loop.setup (p : BitVec 16) (len stages n first : Nat) (pf : Bool) (yp : Byte) : Loop :=
  Loop.refresh
    { active := true, remaining := 0, index := 0, start := p + 1, stop := p.toNat + len,
      stages := stages, pf := pf, yp := yp, n := n, first := first, last := n, t := first, preds := 0 }

/-- A level that R105 has just ended, as its suspended record (R324). DESIGN CHOICE (log 96): so is one that an LBREAK had broken
before (R106), with the `n` of its LOOP word, so that its resumption starts the iterations the break had given up. -/
def Loop.suspended (lv : Fin 2) (l : Loop) : Option Suspended :=
  if l.last < l.n then
    some ⟨lv, l.start - 1, l.stop + 1 - l.start.toNat, l.stages, l.last, l.n, l.yp⟩
  else none

/-- The yield point of the level that R105 has ended in a cluster that holds after it. -/
def Hold.ended : Hold → Option Byte
  | .loopEnd y => some y
  | _ => none

/-- The word after the current one: the loop engine first (R102), inner level before outer at a shared
last word; `none` past word 0xFFFF (R12). A preemptible level that ends while REQ is 1 holds the
cluster at the word after its body (R105, R324); an inner level that is suspended leaves the outer slot open
(log 22). -/
def Cluster.next (req : Bool) (u : Cluster) : Option Cluster :=
  let seq (u : Cluster) : Option Cluster :=
    if u.pc = 0xFFFF then none else some { u with pc := u.pc + 1 }
  let ends (lv : Fin 2) (u : Cluster) : Bool := u.loops[lv].active && u.loops[lv].stop == u.pc.toNat
  let close (lv : Fin 2) (u : Cluster) : Cluster :=
    let l := u.loops[lv].slotEnd req
    let u := { u with loops := u.loops.set lv l }
    if l.active then { u with pc := l.start }
    else if l.pf && req then
      { u with hold := .loopEnd l.yp, susp := (l.suspended lv).orElse fun _ => u.susp }
    else u
  let outer (u : Cluster) : Option Cluster :=
    if ends 0 u then
      let u := close 0 u
      if u.loops[(0 : Fin 2)].active then some u else seq u
    else seq u
  if ends 1 u then
    let u := close 1 u
    if u.loops[(1 : Fin 2)].active then some u
    else if u.hold.ended.isSome ∧ u.susp.isSome then seq u
    else outer u
  else outer u

/-- A taken branch to a word ends every active level whose body it leaves (R101). -/
def Cluster.branch (u : Cluster) (target : BitVec 16) : Cluster :=
  let inBody (l : Loop) : Bool := l.start ≤ target && target.toNat ≤ l.stop
  let drop (l : Loop) : Loop := { l with active := false, remaining := 0, preds := 0 }
  let l0 := u.loops[(0 : Fin 2)]
  let out0 := l0.active && !inBody l0
  let loops := vmap (fun l => if l.active && (out0 || !inBody l) then drop l else l) u.loops
  { u with pc := target, loops := loops }

/-! ## Raising traps -/

/-- Cause codes (R317). -/
def causeIllegal : Nat := 0x01
def causeState : Nat := 0x02
def causeRing : Nat := 0x03
def causeMiss : Nat := 0x04
def causeTag : Nat := 0x05
def causeBank : Nat := 0x06
def causeShape : Nat := 0x07
def causePerm : Nat := 0x08
def causeProbe : Nat := 0x09
def causeTrans : Nat := 0x0A
def causeSynonym : Nat := 0x0B
def causeLate : Nat := 0x0C
def causeSum : Nat := 0x0D
def causeDefer : Nat := 0x0E
def causeVersion : Nat := 0x0F
def causeGen : Nat := 0x10
def causeHandler : Nat := 0x11
def causeSoft : Nat := 0x12
def causeBreak : Nat := 0x13

/-- Of two faults of one cycle the one of the lower cluster, then of the lower queue, is recorded
(R318). -/
def TrapReq.first (a b : TrapReq) : TrapReq :=
  if b.cl.code < a.cl.code || (b.cl.code == a.cl.code && b.queue < a.queue) then b else a

/-- Raise a fault on a core; it is taken at the end of this cycle (R318). -/
def Core.raise (k : Core) (r : TrapReq) : Core :=
  { k with trap := some (match k.trap with
      | none => r
      | some a => a.first r) }

/-- The issuing cluster. -/
def State.clu (s : State) : Cluster := s.me.clus[(clIx s.turn.cl)]

/-- The issuing word takes a precise fault and has no other effect (R78, R246, R317). -/
def State.raise (s : State) (cause : Nat) (code : Byte) : State :=
  s.modMe (·.raise ⟨cause, code, s.turn.cl, s.turn.cl.code, s.clu.pc, 0⟩)

/-- The issuing word takes an access fault at an address (R159). -/
def State.raiseAt (s : State) (cause : Nat) (addr : Nat) : State :=
  s.modMe (·.raise ⟨cause, 0, s.turn.cl, s.turn.cl.code, s.clu.pc, addr⟩)

/-- An illegal-state trap with code 0. -/
def State.illegal (s : State) : State := s.raise causeState 0

/-! ## Issuing -/

/-- PREEMPT.REQ (R30). -/
def Csr.req (c : Csr) : Bool := c.preempt.getLsbD 0

/-- PREEMPT.STATE (R30). -/
def Csr.pstate (c : Csr) : Nat := c.preempt.toNat / 2 % 4

/-- The word has issued: its link bits act, its queue counts it, and its cluster stands at `u` with
`bubble` cycles in which it issues nothing more (R78, R79, R98, R319). -/
def State.settle (s : State) (u : Cluster) (bubble : Nat) : State :=
  let i := clIx s.turn.cl
  let q : Fin 15 := ⟨i.val, by omega⟩
  s.modMe fun k =>
    { k with
      vis := linkApply s.turn.hdr.link s.turn.cl k.vis
      clus := k.clus.set i { u with nextAt := s.zc + 1 + bubble }
      seqs := k.seqs.set q (k.seqs[q] + 1) }

/-- The word has issued and its cluster goes on at the next word; past word 0xFFFF it takes an
illegal-state trap instead (R12), with no effect: `s0` is the state before the word. DESIGN CHOICE (log 79): so does a word
that ends or leaves its stream there (RETT, KEND, YIELD, TRAP); in a handler the trap is a handler fault. -/
def State.issuedFrom (s0 s : State) : State :=
  match s.clu.next s.csr.req with
  | some u => s.settle u 0
  | none => s0.illegal

/-- The word has issued with the effect `f`. -/
def State.issued (s : State) (f : State → State) : State := State.issuedFrom s (f s)

/-- The word has issued and branched to a word (R97-R101). -/
def State.jumped (s : State) (target : BitVec 16) (bubble : Nat) : State :=
  s.settle (s.clu.branch target) bubble

/-- Change the hold of a cluster of a core. -/
def Core.setHold (k : Core) (cl : Cl) (h : Hold) : Core :=
  { k with clus := k.clus.set (clIx cl) { k.clus[clIx cl] with hold := h } }

/-- The issuing cluster holds after its word. -/
def State.holds (s : State) (h : Hold) : State := s.modMe (·.setHold s.turn.cl h)

/-- A hold that has been met lets its cluster issue from count `t`, under a handler in the shadow. -/
def Core.release (k : Core) (cl : Cl) (p : Hold → Bool) (t : Nat) : Core :=
  let free (u : Cluster) : Cluster :=
    if p u.hold then { u with hold := .run, nextAt := max u.nextAt t } else u
  { k with
    clus := k.clus.set (clIx cl) (free k.clus[clIx cl])
    shadow := k.shadow.map fun h => { h with clus := h.clus.set (clIx cl) (free h.clus[clIx cl]) } }

/-- A command enters its queue: its record is kept until another step completes it. -/
def State.addCmd (s : State) (c : Cmd) : State := (s.modMe fun k => { k with cmds := k.cmds ++ [c] }).bump

/-- A fresh record of a command of the issuing word. -/
def State.newCmd (s : State) (op : Instr) (tok : Fin 64) (args : List Nat) : Cmd where
  id := s.nextId
  op := op
  tok := tok
  quad := (0, 0, 0, 0)
  waits := []
  started := false
  at_ := s.zc
  args := args
  data := []
  chain := 0
  slot := Slot.zero
  err := none
  gone := false
  cl := s.turn.cl
  pc := s.clu.pc

/-- The record of a pending command. -/
def Core.cmd (k : Core) (id : Nat) : Option Cmd := k.cmds.find? (·.id == id)

/-- A command leaves its queue. -/
def Core.dropCmd (k : Core) (id : Nat) : Core := { k with cmds := k.cmds.filter (·.id != id) }

/-! ## The consistent cut (R318, R319) -/

/-- One CUT register (R319). -/
def cutWord (seq : Nat) (widx : Nat) (held : Nat) : Dword :=
  BitVec.ofNat 64 (seq % 2 ^ 32 + widx % 2 ^ 16 * 2 ^ 32 + min held 255 * 2 ^ 48)

/-- The engine queue of a command in the cut order: 12 copy, 13 collective, 14 Nimbus (R29, R319). -/
def engineOf : Instr → Option (Fin 15)
  | .cpCopy _ _ | .cpSumFold _ _ _ | .cpSumCrc _ _ _ | .cpFill _ _ _ | .cpLink _ _
  | .cpLinkFold _ _ _ | .cpLinkCrc _ _ _ | .cpTileTo _ _ _ | .cpTileFrom _ _ _ => some 12
  | .cqPost _ _ | .cqArm _ _ | .cntAdd _ _ | .cntWait _ _ | .rlInv _ _ => some 13
  | .nbqr _ _ _ | .nbrot _ _ _ | .nbcarry _ _ _ _ | .nbswitch _ _ _ => some 14
  | _ => none

/-- The queue of a command in the cut order (R29): its engine's, else its cluster's. -/
def cmdQueue (m : Cmd) : Nat := ((engineOf m.op).map (·.val)).getD m.cl.code

/-- The CUT registers of a core as it stands. -/
def Core.cuts (k : Core) : Vector Dword 16 :=
  let clusters := [Cl.c, Cl.l, Cl.x, Cl.w].map fun cl =>
    cutWord (k.seqs[(⟨(clIx cl).val, by omega⟩ : Fin 15)]) k.clus[clIx cl].pc.toNat 0
  let shapes := k.shape.toList.map fun h =>
    let held := h.queue.filter (!·.started)
    cutWord (h.count - held.length) ((held.head?.map (·.pc.toNat)).getD 0xFFFF) held.length
  let engines := [(12 : Fin 15), 13, 14].map fun q =>
    let held := k.cmds.filter fun c => engineOf c.op == some q && !c.started
    cutWord k.seqs[q] ((held.head?.map (·.pc.toNat)).getD 0xFFFF) held.length
  let l := clusters ++ shapes ++ engines ++ [0]
  Vector.ofFn fun i : Fin 16 => l.getD i.val 0

/-- TRAPCAUSE (R29). -/
def TrapReq.causeWord (r : TrapReq) : Dword :=
  BitVec.ofNat 64 (r.cause % 256 + r.cl.code * 2 ^ 8 + r.queue % 16 * 2 ^ 10 + r.code.toNat * 2 ^ 16)

/-- TRAPPC (R26). -/
def TrapReq.pcWord (r : TrapReq) : Dword := BitVec.ofNat 64 (r.pc.toNat + r.cl.code * 2 ^ 16)

/-- A fault attributed to a core is recorded in its TRAPCAUSE (R317). -/
def Core.noteCause (k : Core) (r : TrapReq) : Core :=
  k.modVis fun v => { v with csr := { v.csr with trapcause := r.causeWord } }

/-- A core runs a context. -/
def Core.runs (k : Core) (cid : BitVec 12) : Bool := k.st != .idle && k.st != .taken && k.vis.csr.cid == cid

/-- A VERCHK that has made no comparison lies after a cut, and issues again at its return (R179, R318; log 71). -/
def Core.dropVerchk (k : Core) : Core :=
  let late := k.syncs.filter fun m => match m.op with
    | .verchk _ _ => true
    | _ => false
  { k with
    syncs := k.syncs.filter fun m => !late.contains m
    clus := vmap (fun u => if late.any (fun m => u.hold == .sync m.id) then { u with hold := .run } else u) k.clus }

/-- Every cluster stops at the cut, which is recorded; shape commands not yet started are held (R195, R318, R319). -/
def Core.cutHere (k : Core) : Core :=
  let k := k.dropVerchk
  { k with
    vis := { k.vis with csr := { k.vis.csr with cut := k.cuts } }
    shape := vmap (fun h => { h with held := true }) k.shape
    trap := none }

/-- A version mismatch has been taken at a VERCHK: L stands at the word after it, where RETT resumes (R179, R317). -/
def Core.pastVerchk (k : Core) : Core :=
  let u := k.clus[clIx .l]
  { k with clus := k.clus.set (clIx .l) ((u.next k.old.csr.req).getD u) }

/-- A trap is recorded and every cluster stops at the cut, L after a version mismatch at its resume word (R317, R318, R319). -/
def Core.stopAtCut (k : Core) (r : TrapReq) : Core :=
  ((if r.cause = causeVersion then k.pastVerchk else k).cutHere.noteCause r).modVis fun v => { v with csr := { v.csr with trappc := r.pcWord } }

/-- The tiles of ACCMASK and every handle that is not FREE are frozen (R321). -/
def Core.freeze (k : Core) : Core :=
  { k with
    frozen := k.vis.csr.accmask
    vis := { k.vis with sh := vmap (fun h => if h = .free then .free else .frozen) k.vis.sh } }

/-- A cluster at a handler word, or stopped when the word is 0 (R320). -/
def Cluster.handler (w : BitVec 16) (t : Nat) : Cluster :=
  ⟨w, Vector.replicate 2 Loop.zero, t, if w = 0 then .stopped else .run, none⟩

/-- TAKING A TRAP whose outcome is the handler (R320, R321): the cluster state is shadowed, ring counters,
loops and return stack are cleared, shapes and tiles are frozen, and the clusters start at TRAPVEC from
count `t`. DESIGN CHOICE (log 98): TRAPVEC is read at the end of the trap's cycle, so a write of it in that very cycle counts. -/
def Core.enterHandler (k : Core) (r : TrapReq) (t firstId : Nat) : Core :=
  let k := k.stopAtCut r
  let tv := k.vis.csr.trapvec
  let sh : Shadow := ⟨k.clus, k.vis.ring, k.rs, k.sc, k.vis.csr.accmask, k.vis.sh, firstId, r.cause⟩
  let k := k.freeze
  { k with
    shadow := some sh
    vis := { k.vis with ring := Vector.replicate 8 0 }
    rs := []
    sc := 0
    clus := #v[Cluster.handler (tv.extractLsb' 0 16) t, Cluster.handler (tv.extractLsb' 16 16) t,
      Cluster.handler (tv.extractLsb' 32 16) t, Cluster.handler (tv.extractLsb' 48 16) t] }

/-- The clusters of a core stop, and no held or queued command starts any more (R227, R247, R316). -/
def Core.halt (k : Core) : Core := { k with
  st := if k.st = .running then .halted else k.st
  clus := vmap (fun u => { u with hold := .stopped }) k.clus }

/-- Causes that R247 replays. -/
def replayable (cause : Nat) : Bool := cause == causeMiss || cause == causeTag || cause == causeBank

/-- Causes with outcome "handler" (R317). -/
def handled (cause : Nat) : Bool :=
  [causeIllegal, causeState, causeRing, causeShape, causeSum, causeDefer, causeVersion, causeSoft,
    causeBreak].contains cause

/-- The handler's words shadow: RETT resumes only after these causes (R317). -/
def resumable (cause : Nat) : Bool :=
  [causeState, causeSum, causeDefer, causeVersion, causeSoft, causeBreak].contains cause

/-- The return from a handler (R322): the shadow and ACCMASK are restored, frozen shapes and tiles are
thawed, and from count `t` held commands are released and every cluster resumes. -/
def Core.leaveHandler (k : Core) (t : Nat) : Core :=
  match k.shadow with
  | none => k
  | some h =>
    { k with
      shadow := none
      frozen := 0
      clus := vmap (fun u => { u with nextAt := max u.nextAt t }) h.clus
      rs := h.rs
      sc := h.sc
      shape := vmap (fun g => { g with held := false }) k.shape
      cmds := k.cmds.map fun m => if m.started then m else { m with at_ := max m.at_ (t - 1) }
      vis := { k.vis with
        ring := h.ring
        csr := { k.vis.csr with accmask := h.accmask }
        sh := Vector.ofFn fun i : Fin 8 => if k.vis.sh[i] = .frozen then h.sh[i] else k.vis.sh[i] } }

end Sys2Proof.Machine
end

