-- ==== Sys2Proof/Machine/Block.lean ====
section
/-!
DEFINITION. The command block's fields (R188), the format table's entries (R56-R58) and the operand rows
of a matrix command in the tile store (R35, R38, R190).
-/

namespace Sys2Proof.Machine

/-- A field of a block: `n` bits from bit `lo` of doubleword `d` (R188). -/
def cbField (b : Vector Dword 8) (d : Fin 8) (lo n : Nat) : Nat := b[d].toNat / 2 ^ lo % 2 ^ n

def cbM (b : Vector Dword 8) : Nat := cbField b 0 0 21
def cbK (b : Vector Dword 8) : Nat := cbField b 0 32 11
def cbN (b : Vector Dword 8) : Nat := cbField b 0 48 11
def cbAcc (b : Vector Dword 8) : Bool := cbField b 0 59 1 == 1
def cbFcol (b : Vector Dword 8) : Fin 8 := Fin.ofNat 8 (cbField b 0 60 3)
def cbAoff (b : Vector Dword 8) : Nat := cbField b 1 0 21
def cbAbg (b : Vector Dword 8) : Nat := cbField b 1 21 1
def cbApitch (b : Vector Dword 8) : Nat := cbField b 1 24 16
def cbAtag (b : Vector Dword 8) : BitVec 16 := BitVec.ofNat 16 (cbField b 1 40 16)
def cbBoff (b : Vector Dword 8) : Nat := cbField b 2 0 21
def cbBbg (b : Vector Dword 8) : Nat := cbField b 2 21 1
def cbBkeep (b : Vector Dword 8) : Bool := cbField b 2 22 1 == 1
def cbBpitch (b : Vector Dword 8) : Nat := cbField b 2 24 16
def cbBtag (b : Vector Dword 8) : BitVec 16 := BitVec.ofNat 16 (cbField b 2 40 16)
def cbAtile (b : Vector Dword 8) : Nat := cbField b 3 0 4
def cbProj (b : Vector Dword 8) : Bool := cbField b 3 4 1 == 1
def cbPslot (b : Vector Dword 8) : Fin 16 := Fin.ofNat 16 (cbField b 3 5 4)
def cbPtile (b : Vector Dword 8) : Nat := cbField b 3 9 4
def cbSketch (b : Vector Dword 8) : Bool := cbField b 3 13 1 == 1
def cbSslot (b : Vector Dword 8) : Fin 16 := Fin.ofNat 16 (cbField b 3 14 4)
def cbStile (b : Vector Dword 8) : Nat := cbField b 3 18 4
def cbStamp (b : Vector Dword 8) : Nat := cbField b 3 32 32
def cbSa (b : Vector Dword 8) : Nat := cbField b 4 0 32
def cbSb (b : Vector Dword 8) : Nat := cbField b 4 32 32
def cbDiag (b : Vector Dword 8) : Int := (BitVec.ofNat 32 (cbField b 5 0 32)).toInt
def cbTconst (b : Vector Dword 8) : Nat := cbField b 5 32 32
def cbGrow (b : Vector Dword 8) : Nat := cbField b 6 0 32
def cbGcol (b : Vector Dword 8) : Nat := cbField b 6 32 32
def cbTolexp (b : Vector Dword 8) : Int := (BitVec.ofNat 8 (cbField b 7 0 8)).toInt

/-- `⌈a / b⌉`. -/
def ceilDiv (a b : Nat) : Nat := (a + b - 1) / b

/-- EFMT, AFMT, SCALED and the DX gap of a format-table entry (R56). -/
def ftEfmt (w : Word) : Nat := w.toNat % 16
def ftAfmt (w : Word) : Nat := w.toNat / 16 % 16
def ftScaled (w : Word) : Bool := w.getLsbD 8
def ftGap (w : Word) : Nat := w.toNat / 512 % 8 + 1

/-- The format-table row an X word reads (R28, R58). -/
def State.ftRow (s : State) : Nat :=
  let x := s.me.clus[clIx .x]
  if s.csr.ftrow = 1 then x.loops[(0 : Fin 2)].index.toNat % 8
  else if s.csr.ftrow = 2 then x.loops[(1 : Fin 2)].index.toNat % 8
  else 0

/-- The entry of a column, column-major (R58, R72). -/
def State.ftEntry (s : State) (col : Fin 8) : Word := s.me.ft[(Fin.ofNat 64 (8 * col.val + s.ftRow))]

/-- A DX format code (R34). -/
def isDx (efmt : Nat) : Bool := efmt == 11 || efmt == 12 || efmt == 13

/-- Bytes of a stored row of `n` elements (R35, R38, R190). -/
def rowBytes (efmt n : Nat) : Nat :=
  if isDx efmt then ceilDiv (n * dxBits efmt) 8 + n / 16 else ceilDiv (n * widthOf efmt) 8

/-- The rows of A: number, elements each (R190). -/
def aRows (b : Vector Dword 8) : Nat × Nat := (cbM b, cbK b)

/-- The stored rows of B: number, elements each (R190). -/
def bRows (efmt : Nat) (b : Vector Dword 8) : Nat × Nat := if isDx efmt then (cbN b, cbK b) else (cbK b, cbN b)

/-- The first byte past `rows` rows of `bytes` bytes (R190). -/
def rowsEnd (off pitch rows bytes : Nat) : Nat := off + (rows - 1) * pitch + bytes

/-- A range shares a byte with some row of an operand (R190). -/
def rowsTouch (off pitch rows bytes lo n : Nat) : Bool :=
  (List.range rows).any fun q => off + q * pitch < lo + n && lo < off + q * pitch + bytes

/-- Every tile the rows of an operand cover carries the tag (R190, R243). -/
def rowsTagged (g : Sparse (BitVec 16)) (bg : Fin 2) (off pitch rows bytes : Nat) (tag : BitVec 16) : Bool :=
  (List.range rows).all fun q => tagMatch g bg (off + q * pitch) bytes tag

/-- A range of a bank group shares a byte with an operand tile of a queued matrix command (R170). -/
def MCmd.touches (m : MCmd) (bg : Fin 2) (lo n : Nat) : Bool :=
  let e := ftEfmt m.fmt
  let a := aRows m.cb
  let b := bRows e m.cb
  let tlo := lo / 512 * 512
  let thi := (lo + n + 511) / 512 * 512
  if bg = 0 then rowsTouch (cbAoff m.cb) (cbApitch m.cb) a.1 (rowBytes e a.2) tlo (thi - tlo)
  else !cbBkeep m.cb && rowsTouch (cbBoff m.cb) (cbBpitch m.cb) b.1 (rowBytes e b.2) tlo (thi - tlo)

/-- Some command of the core that was queued when the cycle began reads a byte of the range's tiles: a word of the same cycle does
not see what X queues in it (R16, R170, R233). -/
def Core.queueTouches (k : Core) (bg : Fin 2) (lo n : Nat) : Bool :=
  k.shape.toList.any fun h => h.queue.any fun m => m.id < k.was.next && m.touches bg lo n

end Sys2Proof.Machine
end

