-- ==== Sys2Proof/Machine/Fetch.lean ====
section
/-!
DEFINITION. Fetching: the head of a cluster's stream in instruction memory and what it decodes to (R12,
R87), and the gang a core runs with.
-/

namespace Sys2Proof.Machine

/-- The word at a word index of a core's instruction memory (R12). -/
def Core.word (k : Core) (pc : BitVec 16) : Word := srd 0 pc.toNat k.imem

/-- The head of a cluster: the word it would issue next (R232), decoded under its map (R12). -/
def Core.head (k : Core) (cl : Cl) : Option (Header × Instr) := decode cl (k.word k.clus[clIx cl].pc)

/-- The header with no sync, link or idle bits. -/
def Header.plain : Header := ⟨false, ⟨false, false, false, false⟩, 0⟩

/-- Give the turn to the head of a cluster of a core. -/
def State.turnTo (s : State) (c : Fin 64) (cl : Cl) : State :=
  { s with turn := ⟨c, cl, match (s.core c).head cl with
    | some (h, _) => h
    | none => Header.plain⟩ }

/-- The issuing core's number. -/
abbrev State.cn (s : State) : Fin 64 := s.turn.core

/-- The cores of a core's gang, itself included (R295, R296). -/
def State.gangOf (s : State) (c : Fin 64) : List (Fin 64) :=
  coreList.filter fun d => d = c || (s.core c).launch.gang.getLsbD d.val

/-- What core `d` of the gang of core `c` has counted: its PHASE and DOMSYNC words per level, kept when another launch
has taken the core (R118, R298). -/
def State.countsOf (s : State) (c d : Fin 64) : Vector Nat 4 × Vector Nat 4 :=
  let k := s.core d
  if k.run = (s.core c).run then (k.phases, k.doms)
  else
    match (s.runs.find? (·.id == (s.core c).run)).bind fun r => r.left.find? (·.core == d) with
    | some x => (x.phases, x.doms)
    | none => (Vector.replicate 4 0, Vector.replicate 4 0)

/-- Commands of an engine that a core holds (R375). -/
def Core.depth (k : Core) (q : Fin 15) : Nat := (k.cmds.filter fun m => engineOf m.op == some q).length

/-- Commands in the Nimbus queue (R291). -/
def State.nimbusDepth (s : State) : Nat := (s.cores.toList.map fun k => k.depth 14).sum

/-- The identifier of a core's domain at levels 0 to 2 (R296). -/
def domainOf (l : Fin 4) (c : Fin 64) : Nat := if l = 0 then c.val / 8 else if l = 1 then c.val / 32 else 0

/-- A core runs words: it has started, is not suspended and has not stopped at a cut (R227, R291, R314). -/
def Core.live (k : Core) : Bool := k.st == .running

/-- An LDB, which is pending until its block is filled (R168). -/
def Cmd.isLdb (m : Cmd) : Bool := match m.op with
  | .ldb _ _ _ => true
  | _ => false

/-- An LDB of a core has a block to fill. -/
def Core.ldbOut (k : Core) : Bool := k.cmds.any Cmd.isLdb

/-- The L queue of a core is empty (R113, R114). -/
def Core.lEmpty (k : Core) : Bool := k.loads.isEmpty && !k.ldbOut && !k.syncs.any (·.cl == .l)

/-- The W queue of a core is empty: every store performed and every release complete (R113, R122). -/
def Core.wEmpty (k : Core) : Bool := k.stts.isEmpty && k.ustores.isEmpty && !k.syncs.any (·.cl == .w)

/-- X is idle: no result is outstanding (R113). -/
def Core.xIdle (k : Core) : Bool := k.xpend.isEmpty && k.laccs.isEmpty

/-- No token is PENDING (R113). -/
def Core.noPending (k : Core) : Bool := k.vis.tok.toList.all (·.st != .pending)

/-- Every shape queue is empty (R113). -/
def Core.queuesEmpty (k : Core) : Bool := k.shape.toList.all (·.queue.isEmpty)

/-- The drain conditions of a YIELD (R113). DEDUCED (log 86): a pending result of a C multiply or divide is waited for too, so
that no register changes after the save began. -/
def Core.drained (k : Core) : Bool :=
  k.queuesEmpty && k.noPending && k.lEmpty && k.wEmpty && k.xIdle && k.cpend.isEmpty

/-- The hold of C, L, X or W. -/
def Core.holdOf (k : Core) (cl : Cl) : Hold := k.clus[clIx cl].hold

end Sys2Proof.Machine
end

