-- ==== Sys2Proof/Machine/Translate.lean ====
section
/-!
DEFINITION. Translation and what rests on it: the context table and page walk (R303-R305), the MTUs
with their frame owners (R308-R310), fault-ring records (R312, R313), write-backs and late faults (R311,
R315), home accesses by engines (R218, R268), and the load, store and cleaning paths (R160, R266-R269, R285).
-/

namespace Sys2Proof.Machine

/-! ## Walks -/

/-- A leaf found by a walk: the 2 MiB frame number of the page asked for, size, rights and policy. -/
structure Leaf where
  frame : Nat
  big   : Bool
  r     : Bool
  w     : Bool
  unc   : Bool
  deriving DecidableEq, Repr

/-- The root of a context's tables; none when the entry is not LIVE or a reserved bit is set (R303). -/
def ctxRoot (m : Memory) (base : Nat) (cid : BitVec 12) : Option Nat :=
  let e := m.read (base + 16 * cid.toNat) 16
  let root := e / 2 ^ 12 % 2 ^ 28
  if e = 1 + root * 2 ^ 12 then some (root * 2 ^ 12) else none

/-- A pointer entry of level 1 or 2 to the next table (R304, R305). -/
def ptrOf (e : Nat) : Option Nat :=
  if e % 4 = 1 ∧ e / 2 ^ 6 % 2 ^ 6 = 0 ∧ e / 2 ^ 40 = 0 then some (e / 2 ^ 12 % 2 ^ 28 * 2 ^ 12) else none

/-- A leaf entry of a page of `2 ^ sz` bytes (R304, R305): address field, rights, policy. -/
def leafOf (e sz : Nat) : Option (Nat × Bool × Bool × Bool) :=
  let r := e / 4 % 2 == 1
  let w := e / 8 % 2 == 1
  let pol := e / 16 % 4
  let addr := e / 2 ^ 12 % 2 ^ 28 * 2 ^ 12
  if e % 4 = 3 ∧ pol ≤ 1 ∧ !(w && !r) ∧ e / 2 ^ 6 % 2 ^ 6 = 0 ∧ e / 2 ^ 40 = 0 ∧ addr % 2 ^ sz = 0 then
    some (addr, r, w, pol == 1)
  else none

/-- The home rule: the frame lies on the page's home die (R271). -/
def homeRule (page frame : Nat) : Bool :=
  (page % 4 ^^^ page / 4 % 4) == (frame % 4 ^^^ frame / 4 % 4)

/-- The walk of a 2 MiB page number (R303-R305, R271). -/
def walk (m : Memory) (base : Nat) (cid : BitVec 12) (page : Nat) : Option Leaf := do
  let root ← ctxRoot m base cid
  let l2 ← ptrOf (m.read (root + 8 * (page / 2 ^ 18 % 512)) 8)
  let e2 := m.read (l2 + 8 * (page / 2 ^ 9 % 512)) 8
  match leafOf e2 30 with
  | some (a, r, w, u) =>
    let f := a / 2 ^ 21 + page % 512
    if homeRule page f then some ⟨f, true, r, w, u⟩ else none
  | none =>
    let l3 ← ptrOf e2
    let e3 := m.read (l3 + 8 * (page % 512)) 8
    let (a, r, w, u) ← leafOf e3 21
    let f := a / 2 ^ 21
    if homeRule page f then some ⟨f, false, r, w, u⟩ else none

/-- The answer of a translation. -/
inductive Xl where
  | ok (l : Leaf)
  | none
  | synonym
  deriving DecidableEq, Repr

/-- The Cumulus index of a frame (R271). -/
def frameIdx (f : Nat) : Fin 4 := ⟨(f % 4 ^^^ f / 4 % 4) % 4, by omega⟩

/-- The install check of one frame (R310). -/
def Owner.install (o : Option Owner) (cid : BitVec 12) (page : Nat) (w unc : Bool) : Option Owner :=
  match o with
  | none => some (if w then .writer cid page else .readers unc [(cid, page)])
  | some (.writer c p) =>
    if c = cid ∧ p = page then some (if w then .writer cid page else .readers unc [(cid, page)]) else none
  | some (.readers u ms) =>
    if w || u != unc then none else some (.readers u (if ms.contains (cid, page) then ms else ms ++ [(cid, page)]))

/-- The frames and pages a leaf maps: itself, or the 512 of a 1 GiB leaf (R310). -/
def Leaf.parts (l : Leaf) (page : Nat) : List (Nat × Nat) :=
  if l.big then
    (List.range 512).map fun i => (l.frame - l.frame % 512 + i, page - page % 512 + i)
  else [(l.frame, page)]

/-- The owner entry of a frame. -/
def State.owner (s : State) (f : Nat) : Option Owner := sget f s.mtu[frameIdx f].owners

/-- Change one MTU. -/
def State.modMtu (s : State) (d : Fin 4) (f : Mtu → Mtu) : State := { s with mtu := s.mtu.set d (f s.mtu[d]) }

/-- Set the owner entry of a frame. -/
def State.setOwner (s : State) (f : Nat) (o : Owner) : State :=
  s.modMtu (frameIdx f) fun m => { m with owners := sput f o m.owners }

/-- A leaf's install in the owner tables; none when some frame refuses it (R310). -/
def State.installLeaf (s : State) (cid : BitVec 12) (page : Nat) (l : Leaf) : Option State :=
  (l.parts page).foldl
    (fun acc x => acc.bind fun t =>
      (Owner.install (t.owner x.1) cid x.2 l.w l.unc).map fun o => t.setOwner x.1 o) (some s)

/-- A translation-cache entry answers for a page. -/
def MtuEnt.covers (e : MtuEnt) (cid : BitVec 12) (page : Nat) : Bool :=
  e.cid == cid && (if e.big then e.page / 512 == page / 512 else e.page == page)

/-- Translate a 2 MiB page at the MTU of its home die: its cache, else a walk and an install (R308). -/
def State.xlate (s : State) (cid : BitVec 12) (page : Nat) : State × Xl :=
  let d := homeIdx (page * 2 ^ 21)
  match s.mtu[d].tc.find? (·.covers cid page) with
  | some e => (s, .ok ⟨if e.big then e.frame - e.frame % 512 + page % 512 else e.frame, e.big, e.r, e.w, e.unc⟩)
  | none =>
    match walk s.mem s.regs.ctxbase.toNat cid page with
    | none => (s, .none)
    | some l =>
      match s.installLeaf cid page l with
      | none => (s, .synonym)
      | some t =>
        (t.modMtu d fun m => { m with
            tc := (⟨cid, page, l.big, l.r, l.w, l.unc, l.frame⟩ :: m.tc).take 4096 }, .ok l)

/-- The physical address of a virtual address on a leaf. -/
def Leaf.pa (l : Leaf) (va : Nat) : Nat := l.frame * 2 ^ 21 + va % 2 ^ 21

/-! ## Records and the end of a context -/

/-- The fields of a fault-ring record (R313). -/
structure Rec where
  kind   : Nat
  cause  : Nat
  cid    : BitVec 12
  core   : Nat
  cl     : Nat
  die    : Nat
  mode   : Nat
  pin    : Bool
  va     : Nat
  stamp  : Nat
  widx   : Nat
  lfb    : Nat
  parked : Bool
  pa     : Nat
  deriving DecidableEq, Repr

/-- The 64 bytes of a record, as a number (R313). -/
def Rec.number (r : Rec) (zc rseq logn : Nat) : Nat :=
  let d0 := r.kind + r.cause * 2 ^ 8 + r.cid.toNat * 2 ^ 16 + r.core * 2 ^ 28 + r.cl * 2 ^ 34 + r.die * 2 ^ 36
    + r.mode * 2 ^ 40 + r.pin.toNat * 2 ^ 42
  let d3 := r.widx + r.lfb * 2 ^ 16 + r.parked.toNat * 2 ^ 22
  d0 + r.va % 2 ^ 48 * 2 ^ 64 + r.stamp * 2 ^ 128 + d3 * 2 ^ 192 + r.pa % 2 ^ 40 * 2 ^ 256
    + zc % 2 ^ 64 * 2 ^ 320 + rseq * 2 ^ 384 + rseq / 2 ^ logn % 2 * 2 ^ 448

/-- Write a fault-ring record (R312). -/
def State.record (s : State) (r : Rec) : State :=
  let g := s.regs
  let logn := g.frctl.toNat % 32
  if g.frctl.getLsbD 5 then
    if (g.frhead - g.frtail).toNat = 2 ^ logn then { s with regs := { g with frlost := g.frlost + 1 } }
    else
      let h := g.frhead.toNat
      ({ s with
        mem := s.mem.write (g.frbase.toNat + 64 * (h % 2 ^ logn)) (r.number s.zc h logn) 64
        regs := { g with frhead := g.frhead + 1 } }).msi 0
  else s

/-- A context is ending: its end has not reached every die (R300, R316). -/
def State.ending (s : State) (cid : BitVec 12) : Bool :=
  s.agenda.any fun t => t.op == .contextEnd && t.ev.args.getD 1 0 == cid.toNat

/-- The receiving context of what another device sends is live: its entry says so, and it has not ended since and is not
ending (R301, R303, R316, R334, R383). -/
def State.rcidLive (s : State) (cid : BitVec 12) : Bool :=
  (ctxRoot s.mem s.regs.ctxbase.toNat cid).isSome && !s.ended.contains cid && !s.ending cid

/-- The end code of a context that a memory fault ends: its cause, or in a save sequence SAVE FAILED (R316, R325). -/
def State.faultEnd (s : State) (cid : BitVec 12) (cause : Nat) : Nat :=
  if s.cores.toList.any fun k => k.runs cid && k.saving then codeSaveFailed else cause

/-- A context has ended, and no launch of it has been made since (R301, R316). -/
def State.over (s : State) (cid : BitVec 12) : Bool := s.ended.contains cid && !s.runs.any (·.cid == cid)

/-- The fault that ends a context is detected on a die now: its end reaches the cores of each Zenith die
after the report and the distributor's order, and with it the TRAPCAUSE of a fault attributed to a core (R300, R316, R317).
A context that is ending or over does not end again (R367). -/
def State.endCtxNote (s : State) (cid : BitVec 12) (code : Nat) (die : Fin 8) (note : List Nat) : State :=
  if s.ending cid || s.over cid then s
  else
    let t := s.zc + s.lat die 0
    (s.at_ (t + s.lat 0 0) .contextEnd (.nums ([0, cid.toNat, code] ++ note))).at_ (t + s.lat 0 1)
      .contextEnd (.nums ([1, cid.toNat, code] ++ note))

/-- The end of a context with no fault attributed to a core. -/
def State.endCtx (s : State) (cid : BitVec 12) (code : Nat) (die : Fin 8) : State := s.endCtxNote cid code die []

/-- A memory fault attributed to a core, or to every core of the context for a number of 64, ends a context; in a save the
save fails (R316, R317, R325). -/
def State.endFor (s : State) (core : Nat) (cid : BitVec 12) (r : TrapReq) (die : Fin 8) : State :=
  s.endCtxNote cid (s.faultEnd cid r.cause) die [core, r.causeWord.toNat]

/-- The kind of record of a memory fault (R313). -/
def faultKind (cause : Nat) : Nat :=
  if cause = causePerm then 2 else if cause = causeSynonym then 4 else 3

/-- The physical address the translation of an access gives; zero when there is none (R313). -/
def State.faultPa (s : State) (cid : BitVec 12) (addr : Nat) : Nat :=
  match s.xlate cid (addr / 2 ^ 21) with
  | (_, .ok l) => l.pa addr
  | _ => 0

/-- The record of a memory fault at a word of a core, as the die that found it reports it (R312, R313); a die under reset
is no memory fault (R371). -/
def State.memRecord (s : State) (c : Fin 64) (cid : BitVec 12) (cl : Cl) (die : Fin 8) (pc : BitVec 16) (addr cause : Nat) :
    State :=
  if cause = codeDieReset then s
  else s.record ⟨faultKind cause, cause, cid, c.val, cl.code, die.val, 0, false, addr, 0, pc.toNat, 0, false,
    s.faultPa cid addr⟩

/-! ## Home and memory -/

/-- The late fault of a write-back (R315). -/
def State.lateFault (s : State) (l : Line) : State :=
  let d := homeIdx (l.la * 128)
  let late := s.mtu[d].late
  let slot := ((List.range 64).find? fun i => !(late.any (·.slot == i))).getD 64
  let parked := slot < 64
  let t := if parked then s.modMtu d fun m => { m with late := m.late ++ [⟨l, slot⟩] } else s
  let die : Fin 8 := homeDie (l.la * 128)
  let t := t.record ⟨5, causeLate, l.cid, l.stamp.toNat / 2 ^ 12 % 64, 3, die.val, 0, false, l.la * 128,
    l.stamp.toNat, 0xFFFF, if parked then slot else 0, parked, 0⟩
  t.endFor (l.stamp.toNat / 2 ^ 12 % 64) (BitVec.ofNat 12 l.stamp.toNat) ⟨causeLate, 0, .w, 3, 0xFFFF, 0⟩ die

/-- Set the dirty-bitmap bits of the granules of a line (R311). -/
def State.markDirty (s : State) (frame va : Nat) : State :=
  s.modMtu (frameIdx frame) fun m =>
    { m with dirty := sset 0 frame (srd 0 frame m.dirty ||| BitVec.ofNat 512 (2 ^ (va % 2 ^ 21 / 4096))) m.dirty }

/-- Write the dirty bytes of a home copy to memory, or park them (R268, R311, R315). -/
def State.writeBack (s : State) (l : Line) : State :=
  let va := l.la * 128
  match s.xlate l.cid (va / 2 ^ 21) with
  | (s, .ok f) =>
    ({ s with mem := s.mem.writeMask (f.pa va) l.data.toNat l.dirty.toNat 128 }).markDirty f.frame va
  | (s, _) => s.lateFault l

/-- A home copy leaves home (R268). -/
def State.evictHome (s : State) (cid : BitVec 12) (la : Nat) : State :=
  match findLine s.home cid la with
  | none => s
  | some l =>
    let s := { s with home := dropLine s.home cid la }
    if l.dirty = 0 then s else s.writeBack l

/-- A copy is put at home; when its set is full another leaves (R266, R268). -/
def State.putHome (s : State) (l : Line) : State :=
  let s := { s with home := putLine s.home l }
  match victim s.home homeSet (fun _ => true) l.cid l.la s.choice with
  | none => s
  | some v => s.chosen.evictHome v.cid v.la

/-- A copy's dirty bytes are written down to home (R267, R269). -/
def State.mergeHome (s : State) (l : Line) : State := s.putHome (mergedBelow s.home l)

/-- The level that serves a line (R240). -/
inductive Level where
  | block | rdc | home | memory
  deriving DecidableEq, Repr

/-- What a read of a line finds: bytes, whether all of them are valid, and the level that served; or the cause that
refuses it. -/
inductive Got where
  | got (data : BitVec 1024) (whole : Bool) (lv : Level)
  | refused (cause : Nat)
  deriving DecidableEq, Repr

/-- The cause of a refused translation (R317). -/
def Xl.cause : Xl → Nat
  | .synonym => causeSynonym
  | _ => causeTrans

/-- The bytes of a line at home, filled from memory when home lacks some of `need`; a filled copy is
installed (R266, R267). -/
def State.homeLine (s : State) (cid : BitVec 12) (la : Nat) (need : BitVec 128) : State × Got :=
  let l := lineOr s.home cid la
  if l.holds need then (s, .got l.data l.whole .home)
  else
    let va := la * 128
    match s.xlate cid (va / 2 ^ 21) with
    | (s, .ok f) =>
      let n := l.fill (BitVec.ofNat 1024 (s.mem.read (f.pa va) 128))
      (if f.unc then s else s.putHome n, .got n.data true .memory)
    | (s, x) => (s, .refused x.cause)

/-- The pieces of `[a, a + n)` line by line: line number, first byte, bytes, bytes before. -/
def linePieces (a n : Nat) : List (Nat × Nat × Nat × Nat) :=
  (linesOf a n).map fun la =>
    let lo := max a (la * 128)
    let hi := min (a + n) (la * 128 + 128)
    (la, lo - la * 128, hi - lo, lo - a)

/-- A page as an engine finds it: refused, or its leaf; a die that takes no access is refused, and nothing lies past 2⁴⁸ (R158,
R218, R371, R372). -/
def State.enginePage (s : State) (cid : BitVec 12) (va : Nat) (wr : Bool) : State × Option Leaf × Nat :=
  if 2 ^ 48 ≤ va then (s, none, causeTrans)
  else if s.dieBusy (homeDie va).val then (s, none, codeDieReset)
  else match s.xlate cid (va / 2 ^ 21) with
  | (s, .ok f) =>
    if (if wr then f.w else f.r) then (s, some f, 0) else (s, none, causePerm)
  | (s, .synonym) => (s, none, causeSynonym)
  | (s, .none) => (s, none, causeTrans)

/-- What the current event's pending item does, given by `f`: one that was outstanding at the GO of a die reset is still served by
the die while STATE is 1 (R370). -/
def State.served (s : State) (f : State → Host.Outcome State Fault Refusal) : Host.Outcome State Fault Refusal :=
  let g := s.regs
  if g.drstState = 1 ∧ 2 ≤ g.drstCur ∧ s.ev.id < g.drstMark then
    match f { s with regs := { g with drstState := 0, ready0 := g.ready0 ||| BitVec.twoPow 64 (27 + (g.drstCur - 2)) } } with
    | .next t => .next { t with regs := { t.regs with drstState := g.drstState, ready0 := g.ready0 } }
    | o => o
  else f s

/-- An engine's result: the state, and the bytes read or the address and cause that stopped it. -/
abbrev EngRes := State × (Nat ⊕ (Nat × Nat))

/-- An engine reads `n` bytes of home or, on an UNCACHED page, of memory (R218, R306). -/
def State.engineRead (s : State) (cid : BitVec 12) (a n : Nat) : EngRes :=
  (linePieces a n).foldl
    (fun acc p =>
      match acc with
      | (s, .inr e) => (s, .inr e)
      | (s, .inl x) =>
        let (la, o, k, before) := p
        match s.enginePage cid (la * 128) false with
        | (s, none, c) => (s, .inr (la * 128 + o, c))
        | (s, some f, _) =>
          if f.unc then (s, .inl (x + s.mem.read (f.pa (la * 128 + o)) k * 2 ^ (8 * before)))
          else
            match s.homeLine cid la (spanMask o k) with
            | (s, .got d _ _) => (s, .inl (x + lineBytes d o k * 2 ^ (8 * before)))
            | (s, .refused c) => (s, .inr (la * 128 + o, c))) (s, .inl 0)

/-- Bytes merged into a home copy (R218, R267). -/
def State.homeWrite (s : State) (cid : BitVec 12) (la o k x : Nat) (stamp : BitVec 48) : State :=
  s.putHome ((lineOr s.home cid la).write (spanMask o k) (BitVec.ofNat 1024 (x * 2 ^ (8 * o))) stamp)

/-- An engine writes `n` bytes to home or, on an UNCACHED page, to memory; bytes before a refused page
stay written (R218, R306). -/
def State.engineWrite (s : State) (cid : BitVec 12) (a n x : Nat) (stamp : BitVec 48) : EngRes :=
  (linePieces a n).foldl
    (fun acc p =>
      match acc with
      | (s, .inr e) => (s, .inr e)
      | (s, .inl _) =>
        let (la, o, k, before) := p
        let piece := x / 2 ^ (8 * before) % 2 ^ (8 * k)
        match s.enginePage cid (la * 128) true with
        | (s, none, c) => (s, .inr (la * 128 + o, c))
        | (s, some f, _) =>
          if f.unc then ({ s with mem := s.mem.write (f.pa (la * 128 + o)) piece k }, .inl 0)
          else (s.homeWrite cid la o k piece stamp, .inl 0)) (s, .inl 0)

/-! ## The core's caches -/

/-- The RDC of a core's Zenith die. -/
def State.rdcOf (s : State) (z : Fin 2) : List Line := s.rdc[z]

/-- Change an RDC. -/
def State.setRdc (s : State) (z : Fin 2) (ls : List Line) : State := { s with rdc := s.rdc.set z ls }

/-- The Zenith index of a core. -/
def zIdx (c : Fin 64) : Fin 2 := ⟨c.val / 32, by omega⟩

/-- The dirty bytes of an RDC copy are written to home; the copy stays, now clean (R176). -/
def State.cleanRdc (s : State) (z : Fin 2) (cid : BitVec 12) (la : Nat) : State :=
  match findLine (s.rdcOf z) cid la with
  | none => s
  | some l =>
    if l.dirty = 0 then s
    else
      let s := s.mergeHome l
      s.setRdc z (putLine (s.rdcOf z) l.clean)

/-- Drop an RDC copy. -/
def State.dropRdc (s : State) (z : Fin 2) (cid : BitVec 12) (la : Nat) : State :=
  s.setRdc z (dropLine (s.rdcOf z) cid la)

/-- A copy is put in an RDC; when its set is full another leaves (R266, R268). -/
def State.putRdc (s : State) (z : Fin 2) (l : Line) : State :=
  let s := s.setRdc z (putLine (s.rdcOf z) l)
  match victim (s.rdcOf z) rdcSet (fun _ => true) l.cid l.la s.choice with
  | none => s
  | some v => (s.chosen.cleanRdc z v.cid v.la).dropRdc z v.cid v.la

/-- A copy's dirty bytes are written down to an RDC (R267, R269). -/
def State.mergeRdc (s : State) (z : Fin 2) (l : Line) : State := s.putRdc z (mergedBelow (s.rdcOf z) l)

/-- The dirty bytes of a block-cache copy are written to the RDC; the copy stays, now
clean (R176). -/
def State.cleanBlock (s : State) (c : Fin 64) (cid : BitVec 12) (la : Nat) : State :=
  match findLine (s.core c).bc cid la with
  | none => s
  | some l =>
    if l.dirty = 0 then s
    else (s.mergeRdc (zIdx c) l).modCore c fun k => { k with bc := putLine k.bc l.clean }

/-- Drop a core's block-cache copy. -/
def State.dropBlock (s : State) (c : Fin 64) (cid : BitVec 12) (la : Nat) : State :=
  s.modCore c fun k => { k with bc := dropLine k.bc cid la }

/-- A line lies in a block whose fill is pending (R168). -/
def Core.filling (k : Core) (la : Nat) : Bool := k.blocks.any fun b => b.fill && b.line ≤ la && la < b.line + b.n

/-- Lines of blocks with a pending fill in the set of a line; each holds a way (R168). -/
def Core.heldWays (k : Core) (la : Nat) : List Nat :=
  ((k.blocks.filter (·.fill)).map fun b =>
    ((List.range b.n).map (b.line + ·)).filter fun x => blockSet x == blockSet la).flatten

/-- Blocks that share a line with `n` lines. -/
def Core.blocksOn (k : Core) (line n : Nat) : List Block :=
  k.blocks.filter fun b => b.line < line + n && line < b.line + b.n

/-- The blocks that hold line `la` of context `cid`: blocks are of the context the core runs (R168, R266). -/
def Core.blocksAt (k : Core) (cid : BitVec 12) (la : Nat) : List Block := if cid = k.vis.csr.cid then k.blocksOn la 1 else []

/-- Line `la` of context `cid` lies in a block whose fill is pending, and does not leave (R168). -/
def Core.fillHolds (k : Core) (cid : BitVec 12) (la : Nat) : Bool := cid == k.vis.csr.cid && k.filling la

/-- A filled block is evicted whole: its dirty lines go to the RDC, its lines leave (R168). -/
def State.evictBlock (s : State) (c : Fin 64) (b : Block) : State :=
  let cid := (s.core c).vis.csr.cid
  let s := (List.range b.n).foldl
    (fun s i => (s.cleanBlock c cid (b.line + i)).dropBlock c cid (b.line + i)) s
  s.modCore c fun k => { k with blocks := k.blocks.filter (· != b) }

/-- A block-cache line leaves, and with it the filled block it lies in (R168, R268). -/
def State.evictLine (s : State) (c : Fin 64) (cid : BitVec 12) (la : Nat) : State :=
  match (s.core c).blocksAt cid la with
  | b :: _ => s.evictBlock c b
  | [] => (s.cleanBlock c cid la).dropBlock c cid la

/-- Line `la` of context `cid` has just taken a way of a core's block cache: when its set has no way left another that no
pending fill holds leaves, and where pending fills hold all 16 the line itself (R168, R266). -/
def State.makeRoom (s : State) (c : Fin 64) (cid : BitVec 12) (la : Nat) : State :=
  let k := s.core c
  let absent := ((k.heldWays la).filter fun x => (findLine k.bc k.vis.csr.cid x).isNone).map (Line.blank k.vis.csr.cid)
  match victim (absent ++ k.bc) blockSet (fun l => !k.fillHolds l.cid l.la) cid la s.choice with
  | none => s
  | some v => s.chosen.evictLine c v.cid v.la

/-- A copy is put in a core's block cache (R266). -/
def State.putBlock (s : State) (c : Fin 64) (l : Line) : State :=
  (s.modCore c fun k => { k with bc := putLine k.bc l }).makeRoom c l.cid l.la

/-- What a partial copy has served, made whole for its installation above: it keeps its own bytes and takes the rest from
home, or from memory by home; when the translation of the rest is refused it stays as it was served (R160, R267, R268; log
25). -/
def State.madeWhole (s : State) (cid : BitVec 12) (la : Nat) (l : Line) (lv : Level) : State × Got :=
  if l.whole then (s, .got l.data true lv)
  else
    match s.homeLine cid la fullMask with
    | (t, .got d _ _) => (t, .got (l.fill d).data true lv)
    | _ => (s, .got l.data false lv)

/-- The MTU refuses the page of a line: a write-back of it fails (R315). -/
def State.refusesLine (s : State) (cid : BitVec 12) (la : Nat) : Bool :=
  match (s.xlate cid (la * 128 / 2 ^ 21)).2 with
  | .ok _ => false
  | _ => true

/-- Home, or memory by home, serves the bytes of `need` to the levels above, with the line made whole (R267, R268). -/
def State.homeServe (s : State) (cid : BitVec 12) (la : Nat) (need : BitVec 128) : State × Got :=
  match s.homeLine cid la need with
  | (s, .got _ false lv) => s.madeWhole cid la (lineOr s.home cid la) lv
  | x => x

/-- Read the bytes of `need` of a line below a core's block cache: the first level that holds all of them serves, and a line
served from home or memory is installed in the RDC (R160, R267, R268). -/
def State.belowLine (s : State) (c : Fin 64) (cid : BitVec 12) (la : Nat) (need : BitVec 128) : State × Got :=
  let z := zIdx c
  let r := lineOr (s.rdcOf z) cid la
  if r.holds need then s.madeWhole cid la r .rdc
  else
    match s.homeServe cid la (need &&& ~~~r.valid) with
    | (s, .got d whole lv) =>
      let n := r.fill d
      (if whole then s.putRdc z n else s, .got n.data whole lv)
    | (s, g) => (s, g)

/-- Read a line for a core's load: the nearest level holding the needed bytes serves it, and the line is installed above
(R160, R267, R268); an UNCACHED page is served by memory (R306). -/
def State.loadLine (s : State) (c : Fin 64) (cid : BitVec 12) (la : Nat) (need : BitVec 128) (unc : Bool) : State × Got :=
  if unc then
    match s.xlate cid (la * 128 / 2 ^ 21) with
    | (s, .ok f) => (s, .got (BitVec.ofNat 1024 (s.mem.read (f.pa (la * 128)) 128)) true .memory)
    | (s, x) => (s, .refused x.cause)
  else
    let b := lineOr (s.core c).bc cid la
    if b.holds need then (s, .got b.data b.whole .block)
    else
      match s.belowLine c cid la (need &&& ~~~b.valid) with
      | (s, .got d whole lv) =>
        let n := b.fill d
        (if whole then s.putBlock c n else s, .got n.data whole lv)
      | (s, g) => (s, g)

/-- Read `n` bytes for a core's load: the bytes, or the address that is refused and its cause, and the levels that
served. -/
def State.loadBytes (s : State) (c : Fin 64) (cid : BitVec 12) (a n : Nat) (unc : Nat → Bool) :
    State × (Nat ⊕ (Nat × Nat)) × List (Nat × Level) :=
  (linePieces a n).foldl
    (fun acc p =>
      match acc with
      | (s, .inr e, ls) => (s, .inr e, ls)
      | (s, .inl x, ls) =>
        let (la, o, k, before) := p
        match s.loadLine c cid la (spanMask o k) (unc (la * 128 / 2 ^ 21)) with
        | (s, .got d _ lv) => (s, .inl (x + lineBytes d o k * 2 ^ (8 * before)), ls ++ [(la, lv)])
        | (s, .refused e) => (s, .inr (la * 128 + o, e), ls)) (s, .inl 0, [])

/-- A store is performed in the core's block cache (R160). -/
def State.storeBytes (s : State) (c : Fin 64) (cid : BitVec 12) (a n x : Nat) (stamp : BitVec 48) : State :=
  (linePieces a n).foldl
    (fun s p =>
      let (la, o, k, before) := p
      let piece := x / 2 ^ (8 * before) % 2 ^ (8 * k)
      s.putBlock c ((lineOr (s.core c).bc cid la).write (spanMask o k) (BitVec.ofNat 1024 (piece * 2 ^ (8 * o))) stamp)) s

/-- The dirty bytes of a home copy are written to memory; the copy stays, now clean, unless its translation fails, when it
leaves home (R176, R315). -/
def State.cleanHome (s : State) (cid : BitVec 12) (la : Nat) : State :=
  match findLine s.home cid la with
  | none => s
  | some l =>
    if l.dirty = 0 then s
    else
      match s.xlate cid (la * 128 / 2 ^ 21) with
      | (s, .ok _) => ({ s with home := putLine s.home l.clean }).writeBack l
      | (s, _) => ({ s with home := dropLine s.home cid la }).lateFault l

/-- The dirty bytes of a block-cache copy go to home past the RDC: an RDC copy takes them and holds them clean, its
other dirty bytes stay (R285). -/
def State.passHome (s : State) (c : Fin 64) (cid : BitVec 12) (la : Nat) : State :=
  match findLine (s.core c).bc cid la with
  | none => s
  | some l =>
    if l.dirty = 0 then s
    else
      let z := zIdx c
      let s := s.mergeHome l
      let s := match findLine (s.rdcOf z) cid la with
        | none => s
        | some r => s.setRdc z (putLine (s.rdcOf z) (r.pour l.dirty l.data))
      s.modCore c fun k => { k with bc := putLine k.bc l.clean }

/-- Every dirty byte of a line that a core's block cache or RDC holds is at home; an RDC that holds no copy of the
line is passed by (R285). -/
def State.cleanToHome (s : State) (c : Fin 64) (cid : BitVec 12) (la : Nat) : State :=
  match findLine (s.rdcOf (zIdx c)) cid la with
  | none => s.passHome c cid la
  | some _ => (s.cleanBlock c cid la).cleanRdc (zIdx c) cid la

/-! ## Permissions (R159, R307) -/

/-- The answer a permission buffer holds for a page. -/
def plbFind (ps : List Plb) (page : Nat) : Option PageAns :=
  (ps.find? fun p => if p.big then p.page / 512 == page / 512 else p.page == page).map (·.ans)

/-- The MTU's answer as a permission buffer holds it. -/
def Xl.plb (x : Xl) (page : Nat) : Plb :=
  match x with
  | .ok l => ⟨page, l.big, .page l.r l.w l.unc⟩
  | _ => ⟨page, false, .none⟩

/-- A stream PLB takes an answer; it keeps two (R307). -/
def Core.streamPut (k : Core) (i : Fin 3) (p : Plb) : Core :=
  { k with splb := k.splb.set i ((p :: k.splb[i].filter fun q => q.page != p.page).take 2) }

/-- A stream PLB fetches a page its command has not reached; an absence is recorded, and a refused install is found only by
the access that needs the page (R307). -/
def State.prefetch (s : State) (c : Fin 64) (i : Fin 3) (page : Nat) : State :=
  if (plbFind (s.core c).splb[i] page).isSome then s
  else
    match s.xlate (s.core c).vis.csr.cid page with
    | (_, .synonym) => s
    | (t, x) => t.modCore c (·.streamPut i (x.plb page))

/-- A core's answer for a page, from its PLB or the stream PLB of a cluster (R159, R307). -/
def Core.pageAns (k : Core) (cl : Cl) (page : Nat) : Option PageAns :=
  (plbFind k.plb page).orElse fun _ =>
    match cl with
    | .l => plbFind k.splb[(0 : Fin 3)] page
    | .w => plbFind k.splb[(1 : Fin 3)] page
    | _ => none

/-- What an access needs of a page (R159). -/
inductive Need where
  | read | write | rw | access
  deriving DecidableEq, Repr

/-- A page answer meets a need (R159, R305). -/
def PageAns.meets : PageAns → Need → Bool
  | .none, _ => false
  | .page r _ _, .read => r
  | .page _ w _, .write => w
  | .page r w _, .rw => r && w
  | .page r w _, .access => r || w

/-- Pages a word touches whose permissions the core does not know yet (R159). -/
def Core.unknown (k : Core) (cl : Cl) (pages : List Nat) : List Nat :=
  pages.filter fun p => (k.pageAns cl p).isNone

/-- The first page that refuses the access, with its fault (R159). -/
def Core.refused (k : Core) (cl : Cl) (pages : List Nat) (n : Need) : Option (Nat × Nat) :=
  pages.findSome? fun p =>
    match k.pageAns cl p with
    | some .none => some (causeTrans, p * 2 ^ 21)
    | some a => if a.meets n then none else some (causePerm, p * 2 ^ 21)
    | none => some (causeTrans, p * 2 ^ 21)

/-- A page is UNCACHED as the core knows it (R306). -/
def Core.uncached (k : Core) (cl : Cl) (page : Nat) : Bool :=
  match k.pageAns cl page with
  | some (.page _ _ u) => u
  | _ => false

end Sys2Proof.Machine
end

