-- ==== Sys2Proof/Machine/Bound.lean ====
section
/-!
DEFINITION. The bounds of R239 and R240 on demand and scheduled requests, and requests that end at an open
count within them.
-/

namespace Sys2Proof.Machine

/-- One unit of a request: the level that serves it, and its home die as a Cumulus index. -/
abbrev Served := Level × Fin 4

/-- A Cumulus die is paired with a core's Zenith die (R4, R240). -/
def paired (c : Fin 64) (d : Fin 4) : Bool := d.val / 2 == c.val / 32

/-- The first-unit term of a unit (R240). -/
def firstTerm (sched : Bool) (c : Fin 64) (u : Served) : Nat :=
  if sched then (if u.2 = cumIdx c then 96 else 128)
  else
    match u.1 with
    | .block => 6
    | .rdc => 24
    | _ => if paired c u.2 then 64 else 88

/-- The further-unit term of a unit (R240). -/
def furtherTerm (c : Fin 64) (u : Served) : Nat :=
  match u.1 with
  | .memory => 3
  | .home => if paired c u.2 then 1 else 2
  | _ => 1

/-- The bound of a request: the largest first-unit term, the memory addition, the further units and the
pages whose translation is missing (R240). DESIGN CHOICE (log 113): of units that tie for the largest, the earliest is the first
unit. -/
def boundOf (sched : Bool) (c : Fin 64) (us : List Served) (miss : Nat) : Nat :=
  let top := us.foldl (fun a u => if firstTerm sched c a < firstTerm sched c u then u else a)
    (us.headD (.block, 0))
  let mem := if us.any (·.1 == .memory) then 192 else 0
  let rest := (us.map (furtherTerm c)).foldl (· + ·) 0
  if us.isEmpty then 160 * miss
  else firstTerm sched c top + mem + (rest - furtherTerm c top) + 160 * miss

/-- A page as it is mapped: 2 MiB number, or 1 GiB number; pages without a mapping count as 2 MiB. -/
def State.mapped (s : State) (cid : BitVec 12) (p : Nat) : Nat × Bool :=
  match walk s.mem s.regs.ctxbase.toNat cid p with
  | some l => if l.big then (p / 512, true) else (p, false)
  | none => (p, false)

/-- Pages, as they are mapped, whose translation is not in their MTU's cache (R240). -/
def State.missing (s : State) (cid : BitVec 12) (pages : List Nat) : Nat :=
  ((pages.filter fun p => !(s.mtu[homeIdx (p * 2 ^ 21)].tc.any (·.covers cid p))).map (s.mapped cid)).dedup.length

/-- The 512-byte units of a scheduled request at home (R240). -/
def State.schedUnits (s : State) (cid : BitVec 12) (a n : Nat) : List Served :=
  (List.range (ceilOf n)).map fun u =>
    let lo := a + 512 * u
    let hi := min (a + n) (lo + 512)
    let here := (linesOf lo (hi - lo)).all fun la => (lineOr s.home cid la).valid == fullMask
    (if here then .home else .memory, homeIdx lo)
where
  /-- Units of `n` bytes. -/
  ceilOf (n : Nat) : Nat := (n + 511) / 512

/-- The bound of a scheduled request of `n` bytes on memory, the pages of its other end included (R240). -/
def State.schedBound (s : State) (c : Fin 64) (cid : BitVec 12) (a n : Nat) (other : Option Nat) : Nat :=
  boundOf true c (s.schedUnits cid a n) (s.missing cid (pagesOf a n ++ (other.map fun b => pagesOf b n).getD []))

/-- The bound of a transfer of the core's own tile store alone (R240). -/
def tileBound (n : Nat) : Nat := 40 + ((n + 511) / 512 - 1)

/-- An unscheduled request ends at an open count (R239). -/
def State.unbounded (s : State) (i : Instr) (e : Ev) : State := s.later 1 (s.choices.headD 0) i e

/-- A copy command every byte of which lies on this package (R239). -/
def isScheduled : Instr → Bool
  | .cpLink _ _ | .cpLinkFold _ _ _ | .cpLinkCrc _ _ _ => false
  | i => engineOf i == some 12

/-- Scheduled commands of a core outstanding: copies, STTs, and LTVs, which are loads of no line (R239, R240). -/
def Core.scheduled (k : Core) : Nat :=
  (k.cmds.filter fun m => isScheduled m.op).length + k.stts.length + (k.loads.filter (·.lines == 0)).length

/-- Demand line requests of a core outstanding: of its loads, and of its LDBs (R239, R240). -/
def Core.demandLines (k : Core) : Nat :=
  (k.loads.map (·.lines)).sum + ((k.cmds.filter Cmd.isLdb).map fun m => m.args.getD 1 0).sum

/-- The bounds hold: at most 64 scheduled commands and 1024 demand lines of the core are outstanding, and no die is being
reset (R240). A context is pre-empted only where it has drained, after every request of it has ended (R113, R324). Repairs and
link retries of a memory channel are CORRECTABLE_ERROR's. -/
def State.boundsHold (s : State) (c : Fin 64) : Bool :=
  let k := s.core c
  k.scheduled ≤ 64 && k.demandLines ≤ 1024 && s.regs.drstState == 0

/-- The pending bounded requests of the cores whose bounds do not hold end later by an open delay (R240). -/
def State.unbound (s : State) : State := s.loosen fun x => !s.boundsHold x.ev.core

/-- A request of core `e.core` ends at an open count, at most `bound` counts from now where the bounds hold (R239, R240). -/
def State.within (s : State) (bound : Nat) (i : Instr) (e : Ev) : State :=
  if s.boundsHold e.core then s.later 1 (bound - 1) i e else s.unbounded i e

/-- A memory fault an engine meets in a context, attributed to a word of a core: one record, the cause in TRAPCAUSE, and the
end of the context; in a save the save fails (R218, R300, R313, R317, R325). -/
def State.accessEndIn (s : State) (cid : BitVec 12) (c : Fin 64) (cl : Cl) (queue : Nat) (pc : BitVec 16) (addr cause : Nat) :
    State :=
  (s.memRecord c cid cl (homeDie addr) pc addr cause).endFor c.val cid ⟨cause, 0, cl, queue, pc, addr⟩ (homeDie addr)

/-- A memory fault of a command of a core, in the context the core runs. -/
def State.accessEnd (s : State) (c : Fin 64) (cl : Cl) (queue : Nat) (pc : BitVec 16) (addr cause : Nat) : State :=
  s.accessEndIn (s.core c).vis.csr.cid c cl queue pc addr cause

end Sys2Proof.Machine
end

