-- ==== Sys2Proof/Machine/Integer.lean ====
section
/-!
DEFINITION. The integer words of C: arithmetic (R91, R92), immediates (R94) and compares (R95), with the
latencies of R93.
-/

namespace Sys2Proof.Machine

/-- The outcome type of a meaning. -/
abbrev Out := Host.Outcome State Fault Refusal

/-- A single-cycle result is written to gd (R93, R14). -/
def alu (d : Fin 64) (x : Dword) (s : State) : Out := .next (s.issued fun t => t.wg d x)

/-- The latency of a multiply (R93). -/
def mulLatency : Nat := 3

/-- The latency of a divide (R93). -/
def divLatency : Nat := 18

/-- A result that lands `n` cycles after issue: gd is pending until then (R93). In its cycle it lands before a load
that lands in the same register, whose value is kept (R16). -/
def aluLater (d : Fin 64) (x : Dword) (n : Nat) (s : State) : Out :=
  .next (s.issued fun t =>
    (t.modMe fun k => { k with cpend := k.cpend ++ [⟨d, x⟩] }).first (t.zc + (n - 1)) .cResultLands
      (.of t.turn.core d.val))

/-- A shift amount: bits [5:0] of the operand (R91). -/
def amount (x : Dword) : Nat := x.toNat % 64

/-- Signed minimum. -/
def smin (a b : Dword) : Dword := if a.sle b then a else b

/-- Signed maximum. -/
def smax (a b : Dword) : Dword := if a.sle b then b else a

/-- Unsigned minimum. -/
def umin (a b : Dword) : Dword := if a ≤ b then a else b

/-- Unsigned maximum. -/
def umax (a b : Dword) : Dword := if a ≤ b then b else a

/-- The high half of the signed product (R91). -/
def mulHigh (a b : Dword) : Dword := BitVec.ofInt 64 (a.toInt * b.toInt / 2 ^ 64)

/-- The high half of the unsigned product (R91). -/
def mulHighN (a b : Dword) : Dword := BitVec.ofNat 64 (a.toNat * b.toNat / 2 ^ 64)

/-- Signed quotient rounded toward zero; all ones for a zero divisor (R91, R92). -/
def divS (a b : Dword) : Dword := if b = 0 then BitVec.allOnes 64 else BitVec.ofInt 64 (a.toInt.tdiv b.toInt)

/-- Unsigned quotient; all ones for a zero divisor (R91, R92). -/
def divU (a b : Dword) : Dword := if b = 0 then BitVec.allOnes 64 else BitVec.ofNat 64 (a.toNat / b.toNat)

/-- Remainder with the sign of the dividend; the dividend for a zero divisor (R91, R92). -/
def remS (a b : Dword) : Dword := if b = 0 then a else BitVec.ofInt 64 (a.toInt.tmod b.toInt)

/-- Unsigned remainder; the dividend for a zero divisor (R91, R92). -/
def remU (a b : Dword) : Dword := if b = 0 then a else BitVec.ofNat 64 (a.toNat % b.toNat)

/-- Leading zero bits among the low `n` bits. -/
def leadZeros (x : Dword) : Nat → Nat
  | 0 => 0
  | n + 1 => if x.getLsbD n then 0 else 1 + leadZeros x n

/-- Trailing zero bits from bit `i`, `n` bits left. -/
def trailZeros (x : Dword) : Nat → Nat → Nat
  | _, 0 => 0
  | i, n + 1 => if x.getLsbD i then 0 else 1 + trailZeros x (i + 1) n

/-- One bits among the low `n` bits. -/
def oneBits (x : Dword) : Nat → Nat
  | 0 => 0
  | n + 1 => (if x.getLsbD n then 1 else 0) + oneBits x n

/-- Bits above bit `n` replaced by bit `n` (R91). -/
def sextAt (a : Dword) (n : Nat) : Dword := (a <<< (63 - n)).sshiftRight (63 - n)

/-- Bits above bit `n` cleared (R91). -/
def zextAt (a : Dword) (n : Nat) : Dword := (a <<< (63 - n)) >>> (63 - n)

/-- 1 or 0 (R95). -/
def truth (b : Bool) : Dword := if b then 1 else 0

def execAdd (d a b : Fin 64) (s : State) : Out := alu d (s.rg a + s.rg b) s
def execSub (d a b : Fin 64) (s : State) : Out := alu d (s.rg a - s.rg b) s
def execAnd (d a b : Fin 64) (s : State) : Out := alu d (s.rg a &&& s.rg b) s
def execOr (d a b : Fin 64) (s : State) : Out := alu d (s.rg a ||| s.rg b) s
def execXor (d a b : Fin 64) (s : State) : Out := alu d (s.rg a ^^^ s.rg b) s
def execAndn (d a b : Fin 64) (s : State) : Out := alu d (s.rg a &&& ~~~s.rg b) s
def execShl (d a b : Fin 64) (s : State) : Out := alu d (s.rg a <<< amount (s.rg b)) s
def execShr (d a b : Fin 64) (s : State) : Out := alu d (s.rg a >>> amount (s.rg b)) s
def execSha (d a b : Fin 64) (s : State) : Out := alu d ((s.rg a).sshiftRight (amount (s.rg b))) s
def execRol (d a b : Fin 64) (s : State) : Out := alu d ((s.rg a).rotateLeft (amount (s.rg b))) s
def execMin (d a b : Fin 64) (s : State) : Out := alu d (smin (s.rg a) (s.rg b)) s
def execMax (d a b : Fin 64) (s : State) : Out := alu d (smax (s.rg a) (s.rg b)) s
def execMinn (d a b : Fin 64) (s : State) : Out := alu d (umin (s.rg a) (s.rg b)) s
def execMaxn (d a b : Fin 64) (s : State) : Out := alu d (umax (s.rg a) (s.rg b)) s
def execMul (d a b : Fin 64) (s : State) : Out := aluLater d (s.rg a * s.rg b) mulLatency s
def execMulh (d a b : Fin 64) (s : State) : Out := aluLater d (mulHigh (s.rg a) (s.rg b)) mulLatency s
def execMulhn (d a b : Fin 64) (s : State) : Out := aluLater d (mulHighN (s.rg a) (s.rg b)) mulLatency s
def execDiv (d a b : Fin 64) (s : State) : Out := aluLater d (divS (s.rg a) (s.rg b)) divLatency s
def execDivn (d a b : Fin 64) (s : State) : Out := aluLater d (divU (s.rg a) (s.rg b)) divLatency s
def execRem (d a b : Fin 64) (s : State) : Out := aluLater d (remS (s.rg a) (s.rg b)) divLatency s
def execRemn (d a b : Fin 64) (s : State) : Out := aluLater d (remU (s.rg a) (s.rg b)) divLatency s
def execClz (d a : Fin 64) (s : State) : Out := alu d (BitVec.ofNat 64 (leadZeros (s.rg a) 64)) s
def execCtz (d a : Fin 64) (s : State) : Out := alu d (BitVec.ofNat 64 (trailZeros (s.rg a) 0 64)) s
def execPopc (d a : Fin 64) (s : State) : Out := alu d (BitVec.ofNat 64 (oneBits (s.rg a) 64)) s
def execSext (d a b : Fin 64) (s : State) : Out := alu d (sextAt (s.rg a) (amount (s.rg b))) s
def execZext (d a b : Fin 64) (s : State) : Out := alu d (zextAt (s.rg a) (amount (s.rg b))) s
def execAddsh (d a b : Fin 64) (s : State) : Out := alu d (s.rg a + 128 * s.rg b) s
def execSel (d a b : Fin 64) (s : State) : Out := alu d (if s.rg d ≠ 0 then s.rg a else s.rg b) s

/-! Immediates (R94). -/

/-- imm9 sign-extended (R94). -/
def imm9 (i : BitVec 9) : Dword := i.signExtend 64

def execAddi (d a : Fin 64) (i : BitVec 9) (s : State) : Out := alu d (s.rg a + imm9 i) s
def execAndi (d a : Fin 64) (i : BitVec 9) (s : State) : Out := alu d (s.rg a &&& imm9 i) s
def execOri (d a : Fin 64) (i : BitVec 9) (s : State) : Out := alu d (s.rg a ||| imm9 i) s
def execXori (d a : Fin 64) (i : BitVec 9) (s : State) : Out := alu d (s.rg a ^^^ imm9 i) s
def execShli (d a : Fin 64) (n : BitVec 6) (s : State) : Out := alu d (s.rg a <<< n.toNat) s
def execShri (d a : Fin 64) (n : BitVec 6) (s : State) : Out := alu d (s.rg a >>> n.toNat) s
def execShai (d a : Fin 64) (n : BitVec 6) (s : State) : Out := alu d ((s.rg a).sshiftRight n.toNat) s
def execLi (d : Fin 64) (i : BitVec 15) (s : State) : Out := alu d (i.zeroExtend 64) s
def execLih (d : Fin 64) (i : BitVec 15) (s : State) : Out := alu d (s.rg d * 32768 + i.zeroExtend 64) s

/-! Compares (R95). -/

/-- imm6 sign-extended (R95). -/
def imm6 (i : BitVec 6) : Dword := i.signExtend 64

def execCmpEq (d a b : Fin 64) (s : State) : Out := alu d (truth (s.rg a == s.rg b)) s
def execCmpNe (d a b : Fin 64) (s : State) : Out := alu d (truth (s.rg a != s.rg b)) s
def execCmpLt (d a b : Fin 64) (s : State) : Out := alu d (truth ((s.rg a).slt (s.rg b))) s
def execCmpLe (d a b : Fin 64) (s : State) : Out := alu d (truth ((s.rg a).sle (s.rg b))) s
def execCmpLtn (d a b : Fin 64) (s : State) : Out := alu d (truth ((s.rg a).ult (s.rg b))) s
def execCmpLen (d a b : Fin 64) (s : State) : Out := alu d (truth ((s.rg a).ule (s.rg b))) s
def execCmpiEq (d a : Fin 64) (i : BitVec 6) (s : State) : Out := alu d (truth (s.rg a == imm6 i)) s
def execCmpiNe (d a : Fin 64) (i : BitVec 6) (s : State) : Out := alu d (truth (s.rg a != imm6 i)) s
def execCmpiLt (d a : Fin 64) (i : BitVec 6) (s : State) : Out := alu d (truth ((s.rg a).slt (imm6 i))) s
def execCmpiLe (d a : Fin 64) (i : BitVec 6) (s : State) : Out := alu d (truth ((s.rg a).sle (imm6 i))) s
def execCmpiLtn (d a : Fin 64) (i : BitVec 6) (s : State) : Out := alu d (truth ((s.rg a).ult (imm6 i))) s
def execCmpiLen (d a : Fin 64) (i : BitVec 6) (s : State) : Out := alu d (truth ((s.rg a).ule (imm6 i))) s

/-- C_RESULT_LANDS: the pending result of core `ev.core` for register `ev.id` is written (R93). -/
def execCResultLands (s : State) : Out :=
  let d : Fin 64 := Fin.ofNat 64 s.ev.id
  match (s.core s.ev.core).cpend.find? (·.d == d) with
  | none => .next s
  | some p =>
    .next (s.modCore s.ev.core fun k =>
      { k with cpend := k.cpend.filter (·.d != d), vis := k.vis.wg d p.val })

end Sys2Proof.Machine
end

