-- ==== Sys2Proof/Config.lean ====
section
/-!
DEFINITION. What an implementation fixes and what the spec leaves open. None has a body, so no proof can lean on a
value. Open data values are applied to the counter `freeCtr` of the state.
-/

namespace Sys2Proof.Config

/-- The device's ML-DSA-44 signature over a digest (R378): byte `i` of the `n`-th one made. -/
opaque signature : Nat → List Byte → Nat → Byte

/-- The firmware image that the device holds when it leaves the factory (R377). -/
opaque firmware : List Byte

/-- What the security root reads of a firmware image (R377; the places of the header's fields and the keys are the device's
own): its magic word is right, its body length, its SVN, and the signature in its last 2420 bytes verifies over a digest
against the vendor key. -/
opaque fwMagic : List Byte → Bool
opaque fwBody : List Byte → Nat
opaque fwSvn : List Byte → BitVec 32
opaque fwSigned : List Byte → List Byte → Bool

/-- The bytes of a control image, whose layout is the device's own (R324): byte `i` of the `n`-th open value. -/
opaque freeImage : Nat → Nat → Byte

/-- Whether the product is the ZVF-M1 rather than the ZVF-P1 (R1). -/
opaque isZvfM1 : Bool

/-- The free entries of the Nimbus queue, whose capacity the spec does not state, by the number in it (R375). -/
opaque nimbusFree : Nat → Nat

/-- What the device's meters read (R352-R363): the `n`-th reading of a quantity. Quantities 0 to 7 are the energy in mJ that
the work of a die has used since the last reading, 8 to 15 its temperature in °C, 16 to 23 the energy of its charge-balance
filler since the last reading, 24 the package power in W. -/
opaque reading : Nat → Nat → Nat

/-- The energy in mJ that ramp filler can take in the idle slots of a die, by die, idle slots and the `n`-th reading (R353). Of
Stratus, whose slots the spec does not count, they are those of a collective stall, as number 0. -/
opaque idleEnergy : Nat → Nat → Nat → Nat

/-- The mean package current in A since a window began, in which the dies used these energies in mJ, by the `n`-th reading of
the rail voltages (R352). -/
opaque packageAmps : Nat → List Nat → Nat

/-- Whether a started entry waits for link credit at a count, which no register shows (R353). -/
opaque creditStall : Nat → Bool

/-- The doubleword at an offset of the capability range, of which VER and the identity's keys and signature are read (R373). -/
opaque capability : Nat → Dword

end Sys2Proof.Config
end

