-- ==== Sys2Proof/Machine/Sha3.lean ====
section
/-!
DEFINITION. SHA3-256, which R376 to R378 name and do not define: taken from FIPS 202 (PRESUMED, log 91). A lane is a number
below 2⁶⁴; the lane of column `x` and row `y` has index `x + 5 y`.
-/

namespace Sys2Proof.Machine

/-- A lane turned left by `n` places, `n` below 64. -/
def laneRotl (a n : Nat) : Nat := (a <<< n ||| a >>> (64 - n)) % 2 ^ 64

/-- The turns of the lanes, by index (step ρ). -/
def laneTurns : List Nat := [0, 1, 62, 28, 27, 36, 44, 6, 55, 20, 3, 10, 43, 25, 39, 41, 45, 15, 21, 8, 18, 2, 61, 56, 14]

/-- The constants of the 24 rounds (step ι). -/
def roundConsts : List Nat :=
  [0x0000000000000001, 0x0000000000008082, 0x800000000000808A, 0x8000000080008000, 0x000000000000808B, 0x0000000080000001,
   0x8000000080008081, 0x8000000000008009, 0x000000000000008A, 0x0000000000000088, 0x0000000080008009, 0x000000008000000A]
  ++ [0x000000008000808B, 0x800000000000008B, 0x8000000000008089, 0x8000000000008003, 0x8000000000008002, 0x8000000000000080,
   0x000000000000800A, 0x800000008000000A, 0x8000000080008081, 0x8000000000008080, 0x0000000080000001, 0x8000000080008008]

/-- Step θ: every lane takes the parities of two neighbouring columns. -/
def keccakTheta (a : List Nat) : List Nat :=
  let c := (List.range 5).map fun x => (List.range 5).foldl (fun p y => p ^^^ a.getD (x + 5 * y) 0) 0
  (List.range 25).map fun i =>
    a.getD i 0 ^^^ c.getD ((i + 4) % 5) 0 ^^^ laneRotl (c.getD ((i + 1) % 5) 0) 1

/-- Steps ρ and π: the lanes are turned and moved. -/
def keccakRhoPi (a : List Nat) : List Nat :=
  (List.range 25).map fun i =>
    let j := (i % 5 + 3 * (i / 5)) % 5 + 5 * (i % 5)
    laneRotl (a.getD j 0) (laneTurns.getD j 0)

/-- Step χ: every lane takes the lane after the next where the next has zeros. -/
def keccakChi (a : List Nat) : List Nat :=
  (List.range 25).map fun i =>
    a.getD i 0 ^^^ ((2 ^ 64 - 1 - a.getD ((i + 1) % 5 + 5 * (i / 5)) 0) &&& a.getD ((i + 2) % 5 + 5 * (i / 5)) 0)

/-- A round: θ, ρ, π, χ, then ι on lane 0. -/
def keccakRound (a : List Nat) (rc : Nat) : List Nat :=
  let b := keccakChi (keccakRhoPi (keccakTheta a))
  b.set 0 (b.getD 0 0 ^^^ rc)

/-- The permutation Keccak-f[1600]. -/
def keccakF (a : List Nat) : List Nat := roundConsts.foldl keccakRound a

/-- A message with its domain bits and padding, in whole blocks of 136 bytes. -/
def sha3Padded (b : List Byte) : List Byte :=
  let k := 136 - b.length % 136
  b ++ if k = 1 then [0x86] else 0x06 :: (List.replicate (k - 2) 0 ++ [0x80])

/-- The lanes after block `k` has been absorbed. -/
def sha3Absorb (m : List Byte) (a : List Nat) (k : Nat) : List Nat :=
  keccakF ((List.range 25).map fun i =>
    a.getD i 0 ^^^ if i < 17 then bytesNat ((m.drop (136 * k + 8 * i)).take 8) else 0)

/-- The SHA3-256 digest of bytes, 32 bytes (R376-R378). -/
def digestOf (b : List Byte) : List Byte :=
  let m := sha3Padded b
  let a := (List.range (m.length / 136)).foldl (sha3Absorb m) (List.replicate 25 0)
  natBytes 32 (a.getD 0 0 + 2 ^ 64 * a.getD 1 0 + 2 ^ 128 * a.getD 2 0 + 2 ^ 192 * a.getD 3 0)

end Sys2Proof.Machine
end

