-- ==== Sys2Proof/Machine/Image.lean ====
section
/-!
DEFINITION. The Scaik image as a loader reads it (R71-R73): header, kernel records, yield and tile
records, and the checks that refuse an image.
-/

namespace Sys2Proof.Machine

/-- `n` little-endian bytes of an image at an offset. -/
def imgNum (b : Runs Byte) (o : Nat) : Nat → Nat
  | 0 => 0
  | n + 1 => (rget 0 b o).toNat + 256 * imgNum b (o + 1) n

/-- A kernel record (R72). -/
structure Kernel where
  nameOff : Nat
  origin  : Nat
  entry   : Nat
  streams : List (Nat × Nat)
  ovlOff  : Nat
  ovlLen  : Nat
  ftOff   : Nat
  yOff    : Nat
  yCount  : Nat
  tCount  : Nat
  tOff    : Nat
  argOff  : Nat
  argLen  : Nat
  dataOff : Nat
  dataLen : Nat
  deriving DecidableEq, Repr

/-- The kernels of an image (R71). -/
def kCount (b : Runs Byte) : Nat := imgNum b 0x06 2

/-- The record of kernel `i` (R72). -/
def kernelAt (b : Runs Byte) (i : Nat) : Kernel :=
  let o := imgNum b 0x0C 4 + 64 * i
  { nameOff := imgNum b o 4
    origin := imgNum b (o + 0x04) 2
    entry := imgNum b (o + 0x06) 2
    streams := (List.range 4).map fun j => (imgNum b (o + 0x08 + 4 * j) 2, imgNum b (o + 0x0A + 4 * j) 2)
    ovlOff := imgNum b (o + 0x18) 4
    ovlLen := imgNum b (o + 0x1C) 4
    ftOff := imgNum b (o + 0x20) 4
    yOff := imgNum b (o + 0x24) 4
    yCount := imgNum b (o + 0x28) 2
    tCount := imgNum b (o + 0x2A) 2
    tOff := imgNum b (o + 0x2C) 4
    argOff := imgNum b (o + 0x30) 4
    argLen := imgNum b (o + 0x34) 4
    dataOff := imgNum b (o + 0x38) 4
    dataLen := imgNum b (o + 0x3C) 4 }

/-- A yield record (R73). -/
structure YRec where
  id      : Nat
  save    : BitVec 16
  restore : BitVec 16
  live    : Nat
  deriving DecidableEq, Repr

/-- The yield records of a kernel (R73). -/
def yieldsOf (b : Runs Byte) (k : Kernel) : List YRec :=
  (List.range k.yCount).map fun i =>
    let o := k.yOff + 16 * i
    ⟨imgNum b o 1, BitVec.ofNat 16 (imgNum b (o + 2) 2), BitVec.ofNat 16 (imgNum b (o + 4) 2), imgNum b (o + 8) 8⟩

/-- A tile preload (R73): source offset, length, bank group, tag, offset in the bank group. -/
structure TRec where
  src : Nat
  len : Nat
  bg  : Fin 2
  tag : BitVec 16
  off : Nat
  deriving DecidableEq, Repr

/-- The tile preloads of a kernel (R73). -/
def tilesRec (b : Runs Byte) (k : Kernel) : List TRec :=
  (List.range k.tCount).map fun i =>
    let o := k.tOff + 16 * i
    ⟨imgNum b o 4, imgNum b (o + 4) 4, Fin.ofNat 2 (imgNum b (o + 8) 1), BitVec.ofNat 16 (imgNum b (o + 10) 2),
      imgNum b (o + 12) 4⟩

/-- An offset names a zero-terminated string of the image (R71, R72). -/
def namesString (b : Runs Byte) (o : Nat) : Bool := (rdrop o b).any fun r => r.1 != 0 && r.2 == 0

/-- The records of a kernel reach inside the image, its name ends in it, its fields are in range and its reserved fields
zero (R72, R73). DESIGN CHOICE (log 69): an offset past the image is refused even where its count or length is 0, and
so is a tile preload whose bank group or range does not exist, and a record whose ORIGIN + OVLLEN passes word 0xFFFF, which R66
and R74 forbid to the assembler alone. -/
def kernelOk (b : Runs Byte) (k : Kernel) : Bool :=
  let n := rlen b
  let inside (o len : Nat) : Bool := o + len ≤ n
  let yOk (i : Nat) : Bool :=
    let o := k.yOff + 16 * i
    imgNum b (o + 1) 1 == 0 && imgNum b (o + 6) 2 == 0 && imgNum b (o + 8) 8 < 512
  let tOk (i : Nat) : Bool :=
    let o := k.tOff + 16 * i
    imgNum b (o + 9) 1 == 0 && imgNum b (o + 8) 1 < 2 && inside (imgNum b o 4) (imgNum b (o + 4) 4)
      && imgNum b (o + 12) 4 + imgNum b (o + 4) 4 ≤ 2 ^ 21
  namesString b k.nameOff && inside k.ovlOff (4 * k.ovlLen) && k.origin + k.ovlLen ≤ 65536 && inside k.ftOff 256
    && k.yCount ≤ 256 && inside k.yOff (16 * k.yCount) && inside k.tOff (16 * k.tCount)
    && inside k.argOff k.argLen && inside k.dataOff k.dataLen
    && (List.range k.yCount).all yOk && (List.range k.tCount).all tOk

/-- A loader accepts an image (R71-R73). -/
def imageOk (b : Runs Byte) : Bool :=
  let n := rlen b
  let kc := kCount b
  16 ≤ n && imgNum b 0 4 == 0x4B414353 && imgNum b 4 2 == 1 && 1 ≤ kc && kc ≤ 1024
    && namesString b (imgNum b 0x08 4) && imgNum b 0x0C 4 + 64 * kc ≤ n
    && (List.range kc).all fun i => kernelOk b (kernelAt b i)

/-! ## Firmware images (R377) -/

/-- The header and the body of a firmware image, which its signature is over (R377). -/
def fwSignedPart (b : List Byte) : List Byte := b.take (b.length - 2420)

/-- The security version in the header of a firmware image (R377). -/
def fwSvnOf (b : List Byte) : BitVec 32 := Config.fwSvn (b.take 64)

/-- The security root accepts a firmware image: header, body and signature are what the header says, the signature verifies,
and the security version is not below the fused minimum (R377). -/
def verified (minSvn : Nat) (b : List Byte) : Bool :=
  Config.fwMagic (b.take 64) && b.length == 64 + Config.fwBody (b.take 64) + 2420
    && Config.fwSigned (digestOf (fwSignedPart b)) (b.drop (b.length - 2420)) && minSvn ≤ (fwSvnOf b).toNat

/-- The firmware image that runs (R377). -/
def Trust.firmware (t : Trust) : List Byte := (t.running.map rlist).getD Config.firmware

/-- The image and the kernel a handle names (R287). -/
def State.kernelOf (s : State) (image : Dword) : Option (Runs Byte × Kernel) :=
  match sget (image.toNat / 2 ^ 16 % 2 ^ 16) s.images with
  | none => none
  | some i => if image.toNat % 2 ^ 16 < kCount i.bytes then some (i.bytes, kernelAt i.bytes (image.toNat % 2 ^ 16)) else none

/-- The yield record of point `id` of the kernel a core runs (R103, R113). DESIGN CHOICE (log 69): of two records with one ID,
which R68 rules out in source and no loader rule refuses, the first counts. -/
def State.yieldRec (s : State) (c : Fin 64) (id : Byte) : Option YRec :=
  match s.kernelOf (s.core c).launch.image with
  | none => none
  | some (b, k) => (yieldsOf b k).find? (·.id == id.toNat)

end Sys2Proof.Machine
end

