-- ==== Sys2Proof/Machine/Control.lean ====
section
/-!
DEFINITION. The common majors (R82, R102-R108), the branches, calls and returns of C (R96-R101), traps and
the return from a handler (R109, R110), and the CSR words (R111, R112).
-/

namespace Sys2Proof.Machine

/-! ## Common majors -/

/-- NOP has no effect (R108). -/
def execNop (s : State) : Out := .next (s.issued id)

/-- NOP in X (R108). -/
def execNopX (s : State) : Out := .next (s.issued id)

/-- The bodies `[p + 1, p + len]` of an outer and an inner level nest (R103). -/
def bodiesNest (outerLo outerHi innerLo innerHi : Nat) : Bool := outerLo ≤ innerLo && innerHi ≤ outerHi

/-- The new level would put an active level 1 outside an active level 0 (R103). -/
def badNest (u : Cluster) (lv : Fin 2) (p len : Nat) : Bool :=
  let o := u.loops[(1 - lv : Fin 2)]
  if o.active then
    let a := o.start.toNat
    let b := o.stop
    if lv = 1 then !bodiesNest a b (p + 1) (p + len) else !bodiesNest (p + 1) (p + len) a b
  else false

/-- LOOP in any cluster (R102, R103). DESIGN CHOICE (log 95): a LOOP of n = 0, whose level stays inactive, takes the nesting trap
like any other. DESIGN CHOICE (log 107): one of level 1 whose body ends with level 0's goes on behind both and leaves level 0
active. -/
def loopWord (lv : Fin 2) (pf : Bool) (gc : Fin 64) (len stages : Nat) (s : State) : Out :=
  let x := s.rg gc
  let n := x.toNat % 2 ^ 32
  let yp : Byte := x.extractLsb' 32 8
  let u := s.clu
  let p := u.pc.toNat
  if 0xFFFFFFF8 < n || u.loops[lv].active || badNest u lv p len
      || (pf && (s.yieldRec s.turn.core yp).isNone) then .next s.illegal
  else if n = 0 then
    if 0xFFFF < p + len + 1 then .next s.illegal
    else .next (s.settle { u with pc := BitVec.ofNat 16 (p + len + 1) } 0)
  else if p = 0xFFFF then .next s.illegal
  else
    .next (s.settle
      { u with pc := u.pc + 1, loops := u.loops.set lv (Loop.setup u.pc len stages n 0 pf yp) } 0)

/-- LOOP in C, L and W: one stage (R102). -/
def execLoop (lv : Fin 2) (pf : Bool) (gc : Fin 64) (len : BitVec 12) (s : State) : Out :=
  loopWord lv pf gc len.toNat 1 s

/-- LOOP in X (R102). -/
def execLoopX (lv : Fin 2) (pf : Bool) (gc : Fin 16) (ns : Fin 8) (len : BitVec 9) (s : State) : Out :=
  loopWord lv pf (gx gc) len.toNat (ns.val + 1) s

/-- A break of a level when `go` (R106). -/
def breakWord (lv : Fin 2) (go : Bool) (s : State) : Out :=
  if s.clu.loops[lv].active then
    .next (s.issued fun t =>
      if go then
        t.modMe fun k =>
          let i := clIx t.turn.cl
          let u := k.clus[i]
          { k with clus := k.clus.set i { u with loops := u.loops.set lv u.loops[lv].brk } }
      else t)
  else .next s.illegal

/-- LBREAK in C, L and W (R106). -/
def execLbreak (lv : Fin 2) (gc : Fin 64) (s : State) : Out := breakWord lv (s.rg gc != 0) s

/-- LBREAK.A in C, L and W (R106). -/
def execLbreakA (lv : Fin 2) (s : State) : Out := breakWord lv true s

/-- LBREAK in X (R106). -/
def execLbreakX (lv : Fin 2) (gc : Fin 16) (s : State) : Out := breakWord lv (s.rg (gx gc) != 0) s

/-- LBREAK.A in X (R106). -/
def execLbreakAX (lv : Fin 2) (s : State) : Out := breakWord lv true s

/-- The check of a token at issue: the fault of WAITK when it does not pass (R107). PENDING stalls C, L and
W before their words issue; a word that issues on a PENDING token is X's schedule miss. -/
def tokCheck (t : Token) : Option (Nat × Byte) :=
  match t.st with
  | .done => none
  | .pending => some (causeMiss, 0x04)
  | .failed => some (causeState, t.code)
  | .empty => some (causeState, 0)

/-- A word that passes only when token `k` is DONE (R107). -/
def waitWord (k : Fin 64) (s : State) : Out :=
  match tokCheck (s.tok k) with
  | none => .next (s.issued id)
  | some (cause, code) => .next (s.raise cause code)

/-- WAITK in C, L and W (R107): on a PENDING token the word has not issued and nothing changes. -/
def execWaitk (k : Fin 64) (s : State) : Out :=
  if (s.tok k).st = .pending then .next s else waitWord k s

/-- WAITK in X (R107). -/
def execWaitkX (k : Fin 64) (s : State) : Out := waitWord k s

/-! ## Branches (R96-R98, R101) -/

/-- The number of the word now issuing in C, counted since launch. -/
def State.cWord (s : State) : Nat := s.me.seqs[(0 : Fin 15)] + 1

/-- Write a branch-target register (R96). -/
def setB (b : Fin 8) (target : BitVec 16) (s : State) : State :=
  s.modMe fun k => { k with b := k.b.set b ⟨target, true, s.cWord⟩ }

/-- PBR: the word index plus the offset, inside instruction memory (R96). -/
def execPbr (b : Fin 8) (off : BitVec 18) (s : State) : Out :=
  let t : Int := s.clu.pc.toNat + off.toInt
  if 0 ≤ t ∧ t ≤ 0xFFFF then .next (s.issued (setB b (BitVec.ofInt 16 t))) else .next s.illegal

/-- PBRG: the target is ga[15:0] (R96). -/
def execPbrg (b : Fin 8) (a : Fin 64) (s : State) : Out :=
  let x := s.rg a
  if x.toNat ≤ 0xFFFF then .next (s.issued (setB b (x.extractLsb' 0 16))) else .next s.illegal

/-- Bubble cycles of a taken BR or a CALL (R98). -/
def State.bubbles (s : State) (b : BReg) : Nat := 4 - (s.cWord - b.seq)

/-- A conditional branch through `b` (R97, R98, R101). -/
def branchWord (b : Fin 8) (taken : Bool) (s : State) : Out :=
  let r := s.me.b[b]
  if !r.valid then .next s.illegal
  else if taken then .next (s.jumped r.target (s.bubbles r))
  else .next (s.issued id)

def execBrT (b : Fin 8) (a : Fin 64) (s : State) : Out := branchWord b (s.rg a != 0) s
def execBrZ (b : Fin 8) (a : Fin 64) (s : State) : Out := branchWord b (s.rg a == 0) s
def execBrA (b : Fin 8) (s : State) : Out := branchWord b true s

/-! ## Calls (R99, R100) -/

/-- The spill address for a spill count (R100). -/
def State.spillAt (s : State) (sc : Nat) : Nat := s.csr.spillbase.toNat + 16 * sc

/-- Eight 16-bit entries as 16 bytes, oldest first (R100). -/
def packRs : List (BitVec 16) → Nat
  | [] => 0
  | x :: r => x.toNat + 65536 * packRs r

/-- Eight entries of 16 bytes (R100). -/
def unpackRs (x : Nat) : Nat → List (BitVec 16)
  | 0 => []
  | n + 1 => BitVec.ofNat 16 x :: unpackRs (x / 65536) n

/-- The issuing core's writer stamp (R269). -/
def State.stamp (s : State) : BitVec 48 := stampOf s.csr.cid s.turn.core s.me.seqs[(3 : Fin 15)]

/-- CALL: push the next word index, spilling the eight oldest entries first at depth 16 (R99, R100). The
return stack is held oldest first; loop engines stay as they are (R99). DESIGN CHOICE (log 85): a spill area whose page is
mapped without the permission is refused as one without a translation, here and in RET. -/
def execCall (b : Fin 8) (s : State) : Out :=
  let k := s.me
  let r := k.b[b]
  let ret := s.clu.pc + 1
  let push (t : State) : State := t.modMe fun k => { k with rs := k.rs ++ [ret] }
  if !r.valid then .next s.illegal
  else if k.rs.length < 16 then .next ((push s).settle { s.clu with pc := r.target } (s.bubbles r))
  else if k.sc = 4096 then .next s.illegal
  else
    match s.engineWrite s.csr.cid (s.spillAt k.sc) 16 (packRs (k.rs.take 8)) s.stamp with
    | (t, .inr (a, cause)) => .next (t.raiseAt (if cause = causePerm then causeTrans else cause) a)
    | (t, .inl _) =>
      let t := t.modMe fun k => { k with rs := k.rs.drop 8, sc := k.sc + 1 }
      .next ((push t).chosen.settle { s.clu with pc := r.target } (s.bubbles r + s.choices.headD 0))

/-- RET: pop the top entry, filling eight entries first at depth 0 (R98-R100). -/
def execRet (s : State) : Out :=
  let k := s.me
  match k.rs.getLast? with
  | some top => .next ((s.modMe fun k => { k with rs := k.rs.dropLast }).settle { s.clu with pc := top } 1)
  | none =>
    if k.sc = 0 then .next s.illegal
    else
      match s.engineRead s.csr.cid (s.spillAt (k.sc - 1)) 16 with
      | (t, .inr (a, cause)) => .next (t.raiseAt (if cause = causePerm then causeTrans else cause) a)
      | (t, .inl x) =>
        let es := unpackRs x 8
        let t := t.modMe fun k => { k with rs := es.take 7, sc := k.sc - 1 }
        .next (t.chosen.settle { s.clu with pc := es.getD 7 0 } (1 + s.choices.headD 0))

/-! ## Traps and the return from a handler (R109, R110, R322) -/

/-- TRAP n: the word issues, and the trap is taken at the end of its cycle (R109). -/
def execTrap (n : BitVec 9) (s : State) : Out :=
  let r : TrapReq := ⟨if n.getLsbD 8 then causeBreak else causeSoft, n.extractLsb' 0 8, .c, 0, s.clu.pc, 0⟩
  .next (s.issued fun t => t.modMe (·.raise r))

/-- The context of the issuing core ends: its clusters stop and the end is reported (R300, R316). -/
def State.abandon (s : State) (code : Nat) : State :=
  (s.modMe Core.halt).endCtx s.csr.cid code (zenithOf s.turn.core)

/-- RETT: illegal-state with no handler; the end of the context after a fault that is not resumable; else
C holds until the handler is idle (R110, R317, R322). -/
def execRett (s : State) : Out :=
  match s.me.shadow with
  | none => .next s.illegal
  | some h =>
    if resumable h.cause then .next (s.issued fun t => t.holds .rett) else .next (s.abandon h.cause)

/-! ## CSRs (R26-R32, R111, R112) -/

/-- One row of LATT as a CSR (R26). -/
def State.lattWord (s : State) (d : Fin 8) : Dword :=
  BitVec.ofNat 64 ((List.finRange 8).foldr (fun e acc => s.lat d e + 256 * acc) 0)

/-- DQSTAT (R32): occupancy counts entries. -/
def Core.dqstat (k : Core) : Dword := BitVec.ofNat 64 (k.dq.length + k.dn * 2 ^ 16)

/-- Reading CSR number `n` (R26, R111). -/
def State.csrRead (s : State) (n : Nat) : Dword :=
  let c := s.csr
  if n = 0x000 then s.localCount (zenithOf s.turn.core)
  else if n = 0x001 then c.zbase
  else if n = 0x002 then c.step
  else if n = 0x003 then c.cid.zeroExtend 64
  else if n = 0x004 then c.dmr
  else if n = 0x008 then c.fflags.zeroExtend 64
  else if n = 0x009 then c.ftrow.zeroExtend 64
  else if n = 0x010 then c.trapvec
  else if n = 0x011 then c.trapcause
  else if n = 0x012 then c.trappc
  else if 0x020 ≤ n ∧ n < 0x030 then c.cut[(Fin.ofNat 16 n)]
  else if n = 0x030 then c.retrylim.zeroExtend 64
  else if n = 0x031 then c.errinj
  else if n = 0x032 then c.preempt
  else if n = 0x033 then c.psub
  else if n = 0x034 then c.haloctl.zeroExtend 64
  else if n = 0x035 then c.accmask.zeroExtend 64
  else if n = 0x036 then s.me.dqstat
  else if n = 0x037 then c.spillbase
  else if 0x040 ≤ n ∧ n < 0x048 then c.scratch[(Fin.ofNat 8 n)]
  else if 0x050 ≤ n ∧ n < 0x058 then s.lattWord (Fin.ofNat 8 n)
  else 0

/-- The fields of an ERRINJ write: reserved bits dropped, ARM cleared where R284 and R369 say so. -/
def errinjWord (x : Dword) : Dword :=
  let y := x &&& 0x1F7F7FFF
  let target := y.toNat / 2 % 8
  let tile := y.toNat / 16 % 16
  let col := y.toNat / 2 ^ 16 % 128
  let ok := target = 1 ∨ target = 2 ∨ (target = 3 ∧ tile < 12) ∨ (target = 4 ∧ tile = 0 ∧ col = 0)
  if ok then y else y &&& ~~~1

/-- Writing CSR number `n`; read-only CSRs and reserved fields ignore the write (R8, R9, R26). -/
def Csr.write (c : Csr) (n : Nat) (x : Dword) : Csr :=
  if n = 0x001 then { c with zbase := x }
  else if n = 0x002 then { c with step := x }
  else if n = 0x008 then { c with fflags := x.extractLsb' 0 5 }
  else if n = 0x009 then { c with ftrow := x.extractLsb' 0 2 }
  else if n = 0x010 then { c with trapvec := x }
  else if n = 0x030 then { c with retrylim := x.extractLsb' 0 4 }
  else if n = 0x031 then { c with errinj := errinjWord x }
  else if n = 0x033 then { c with psub := x &&& ~~~0x3F }
  else if n = 0x034 then { c with haloctl := x.extractLsb' 0 2 }
  else if n = 0x035 then { c with accmask := x.extractLsb' 0 12 }
  else if 0x040 ≤ n ∧ n < 0x048 then { c with scratch := c.scratch.set (Fin.ofNat 8 n) x }
  else c

/-- A write of a CSR: the traps of R28 and R112, and PSUB's report to the governor (R359). -/
def csrWriteWord (n : Nat) (x : Dword) (s : State) : Out :=
  if n = 0x009 ∧ x.extractLsb' 0 2 = 3#2 then .next s.illegal
  else if n = 0x002 ∧ s.me.old.slot.toList.any (·.pvalid) then .next s.illegal
  else
    .next (s.issued fun t =>
      let t := t.modCsr fun c => c.write n x
      if n = 0x033 then t.psubWritten t.turn.core (x &&& ~~~0x3F) else t)

def execCsrr (g : Fin 64) (csr : BitVec 12) (s : State) : Out :=
  .next (s.issued fun t => t.wg g (s.csrRead csr.toNat))

def execCsrw (g : Fin 64) (csr : BitVec 12) (s : State) : Out := csrWriteWord csr.toNat (s.rg g) s

def execCsrs (g : Fin 64) (csr : BitVec 12) (s : State) : Out :=
  csrWriteWord csr.toNat (s.csrRead csr.toNat ||| s.rg g) s

def execCsrc (g : Fin 64) (csr : BitVec 12) (s : State) : Out :=
  csrWriteWord csr.toNat (s.csrRead csr.toNat &&& ~~~s.rg g) s

end Sys2Proof.Machine
end

