-- ==== Sys2Proof/Machine/System.lean ====
section
/-!
DEFINITION. The words of C that speak for the core to the distributor, the MTUs and the other cores:
yields (R113), probes and pins (R114, R115), time and domains (R116-R119), launch and end (R120-R122), and
the events that complete them.
-/

namespace Sys2Proof.Machine

/-! ## Yield points (R113) -/

/-- YIELD: an S = 1 word naming a yield record; C then waits for the drain conditions, and no cluster of
the core issues a further word (R113, R325, R326). -/
def execYield (id : BitVec 8) (s : State) : Out :=
  if !s.turn.hdr.sync || (s.yieldRec s.cn id).isNone then .next s.illegal
  else .next (s.issued fun t => t.holds (.yield id))

/-! ## Probes and pins (R114, R115, R314) -/

/-- Probe modes: 1 R, 2 W, 3 RW (R114, R313). -/
def probeNeed (mode : Nat) : Need :=
  if mode = 1 then .read else if mode = 2 then .write else .rw

/-- A command that belongs to no queue of L, W or an engine. -/
def Cmd.control (m : Cmd) : Bool := match m.op with
  | .tkJoin _ _ _ | .klaunch _ _ | .shapeAlloc _ _ _ | .shapeFree _ _ | .shapeCut _ _ _ _ | .shapeChain _ _ _ => true
  | _ => false

/-- PROBE: its checks at issue; then C stalls at it until the MTUs answer (R114). A length of 0 has no
effect. DESIGN CHOICE (log 106): the checks come first, so one of length 0 that fails them traps. -/
def probeWord (d a : Fin 64) (mode : Nat) (pin : Bool) (s : State) : Out :=
  let base := (s.rg a).toNat
  let len := (s.rg d).toNat
  let k := s.me
  if !(k.lEmpty && k.wEmpty && k.cmds.all Cmd.control) || 2 ^ 48 < base + len then .next s.illegal
  else if len = 0 then .next (s.issued id)
  else .next ((s.holds (.probe base len mode pin)).later 1 (s.choices.headD 0) .probeComplete (.of s.cn 0))

def execProbeR (d a : Fin 64) (pin : Bool) (s : State) : Out := probeWord d a 1 pin s
def execProbeW (d a : Fin 64) (pin : Bool) (s : State) : Out := probeWord d a 2 pin s
def execProbeRw (d a : Fin 64) (pin : Bool) (s : State) : Out := probeWord d a 3 pin s

/-- The pages of a range as they are mapped, or the page that fails with its cause: missing or not permitted, or a refused
install (R114, R115, R310). -/
def State.probePages (s : State) (cid : BitVec 12) (need : Need) (pages : List Nat) :
    State × List (Nat × Bool) × Option (Nat × Nat) :=
  pages.foldl
    (fun acc p =>
      match acc with
      | (s, ps, some e) => (s, ps, some e)
      | (s, ps, none) =>
        match s.xlate cid p with
        | (s, .ok l) =>
          let key := if l.big then p - p % 512 else p
          if (PageAns.page l.r l.w l.unc).meets need then
            (s, if ps.contains (key, l.big) then ps else ps ++ [(key, l.big)], none)
          else (s, ps, some (key, causeProbe))
        | (s, .none) => (s, ps, some (p, causeProbe))
        | (s, .synonym) =>
          (s, ps, some (if (walk s.mem s.regs.ctxbase.toNat cid p).any (·.big) then p - p % 512 else p, causeSynonym)))
    (s, [], none)

/-- The count of a pin (R115). -/
def State.pinCount (s : State) (cid : BitVec 12) (c : Fin 64) (p : Nat × Bool) : Nat :=
  ((s.pins.find? fun q => q.cid == cid && q.core == c && q.page == p.1 && q.big == p.2).map (·.count)).getD 0

/-- Set the count of a pin; zero removes it (R115). -/
def State.setPin (s : State) (cid : BitVec 12) (c : Fin 64) (p : Nat × Bool) (n : Nat) : State :=
  let rest := s.pins.filter fun q => !(q.cid == cid && q.core == c && q.page == p.1 && q.big == p.2)
  { s with pins := if n = 0 then rest else rest ++ [⟨cid, c, p.1, p.2, n⟩] }

/-- Add one to the pin count of every page (R114). -/
def State.pinAll (s : State) (cid : BitVec 12) (c : Fin 64) (ps : List (Nat × Bool)) : State :=
  ps.foldl (fun s p => s.setPin cid c p (s.pinCount cid c p + 1)) s

/-- Some count would pass 255 (R115). -/
def State.pinFull (s : State) (cid : BitVec 12) (c : Fin 64) (ps : List (Nat × Bool)) : Bool :=
  ps.any fun p => 255 ≤ s.pinCount cid c p

/-- The record of a PROBE that finds a failing page: KIND 1, or 4 for a refused install (R114, R313). -/
def State.probeRecord (s : State) (c : Fin 64) (cause mode : Nat) (pin : Bool) (page : Nat) : State :=
  let k := s.core c
  s.record ⟨if cause = causeProbe then 1 else faultKind cause, cause, k.vis.csr.cid, c.val, 0, (homeDie (page * 2 ^ 21)).val,
    mode, pin, page * 2 ^ 21, 0, k.clus[clIx .c].pc.toNat, 0, false, s.faultPa k.vis.csr.cid (page * 2 ^ 21)⟩

/-- A PROBE that finds a failing page suspends the context on its core at the cut (R114, R314, R318). In a trap handler too:
DESIGN CHOICE (log 82), for R110 and R114 do not say which. -/
def State.probeSuspend (s : State) (c : Fin 64) : State :=
  s.modCore c fun k => { (k.stopAtCut ⟨causeProbe, 0, .c, 0, k.clus[clIx .c].pc, 0⟩) with st := .suspended }

/-- A fault of a PROBE that ends its context: the core stops at its cut. In a save sequence the save fails, and in a handler it
is a handler fault (R110, R317, R318, R325). -/
def State.probeFatal (s : State) (c : Fin 64) (r : TrapReq) (die : Fin 8) : State :=
  let k := s.core c
  let t := s.modCore c fun k => (k.stopAtCut r).halt
  if k.saving then t.endCtx k.vis.csr.cid codeSaveFailed die
  else if k.shadow.isSome then
    (t.modCore c (·.noteCause { r with cause := causeHandler })).endCtx k.vis.csr.cid causeHandler die
  else t.endCtx k.vis.csr.cid r.cause die

/-- A PROBE hold. -/
def Hold.probing : Hold → Bool
  | .probe _ _ _ _ => true
  | _ => false

/-- The PROBE of a core waits in the shadow of a handler. -/
def Core.probeShadowed (k : Core) : Bool := k.shadow.any fun h => h.clus[clIx .c].hold.probing

/-- PROBE_COMPLETE: the MTUs answer the PROBE of core `ev.core`; under a handler the answer waits for its end. A failing page
has its record; one that is missing or not permitted suspends the context, or in a save sequence fails the save with the probe's
own cause; a refused install is a fatal fault. A PROBE issues, with its link bits and its count, when it completes: DEDUCED
(log 71) (R78, R114, R115, R310, R314, R325). -/
def execProbeComplete (s : State) : Out :=
  let c := s.ev.core
  let k := s.core c
  match k.holdOf .c with
  | .probe base len mode pin =>
    if !k.live then .next s
    else
      match s.probePages k.vis.csr.cid (probeNeed mode) (pagesOf base len) with
      | (s, _, some (page, cause)) =>
        let t := s.probeRecord c cause mode pin page
        .next (if k.saving ∨ cause ≠ causeProbe then
            t.probeFatal c ⟨cause, 0, .c, 0, k.clus[clIx .c].pc, page * 2 ^ 21⟩ (homeDie (page * 2 ^ 21))
          else t.probeSuspend c)
      | (s, ps, none) =>
        let s := (s.modCore c fun k => k.setHold .c .run).turnTo c .c
        if pin && s.pinFull k.vis.csr.cid c ps then .next s.illegal
        else .next (s.issued fun t => if pin then t.pinAll k.vis.csr.cid c ps else t)
  | _ => .next (if k.live && k.probeShadowed then s.at_ (s.zc + 1) .probeComplete s.ev else s)

/-- UNPIN: one less on every page of the range that its own core holds pinned (R115). -/
def execUnpin (d a : Fin 64) (s : State) : Out :=
  let base := (s.rg a).toNat
  let len := (s.rg d).toNat
  if 2 ^ 48 < base + len then .next s.illegal
  else
    .next (s.issued fun t =>
      { t with pins := t.pins.filterMap fun p =>
          let n := if p.big then 512 else 1
          let hit := p.cid == s.csr.cid && p.core == s.cn && len != 0
            && base < (p.page + n) * 2 ^ 21 && p.page * 2 ^ 21 < base + len
          if hit then (if p.count ≤ 1 then none else some { p with count := p.count - 1 }) else some p })

/-! ## Time and domains (R116-R118, R231, R296-R298) -/

/-- REALIGN: an S = 1 word with every shape queue empty; C holds at it for the gang (R116). Its link bits act when the
barrier lets it go on: a REALIGN that faults changes no ring counter (R78), and until then no cluster issues. -/
def execRealign (a : Fin 64) (s : State) : Out :=
  if !s.turn.hdr.sync || !s.me.queuesEmpty then .next s.illegal
  else .next (s.holds (.realign (s.rg a).toNat s.clu.pc))

/-- The count a core's REALIGN names, when C holds at one. -/
def Core.realignT (k : Core) : Option (Nat × BitVec 16) :=
  match k.holdOf .c with
  | .realign t pc => some (t, pc)
  | _ => none

/-- Every participant of a core's REALIGN has arrived (R116). -/
def State.realignReady (s : State) (c : Fin 64) : Bool :=
  (s.core c).live && (s.gangOf c).all fun d =>
    (s.core d).live && (s.core d).realignT.isSome && (s.core d).run == (s.core c).run

/-- REALIGN_RELEASE: the last participant of the gang of core `ev.core` has arrived; every participant
resumes at local count T, or takes the schedule miss at its REALIGN (R116, R231). T is compared in the turn of the 64-bit
count that the lead of 64 reaches (R228; log 81). -/
def execRealignRelease (s : State) : Out :=
  let c := s.ev.core
  if !s.realignReady c then .next s
  else
    let gang := s.gangOf c
    let t0 := (((s.core c).realignT).map (·.1)).getD 0
    let same := gang.all fun d => ((s.core d).realignT.map (·.1)) == some t0
    let ok := same && (s.zc + 64) % 2 ^ 64 ≤ t0
    .next (gang.foldl
      (fun s d =>
        let s := (s.modCore d (·.setHold .c .run)).turnTo d .c
        if ok then
          let t := (s.zc + 64) / 2 ^ 64 * 2 ^ 64 + t0 + s.lat 0 (zenithOf d)
          (s.issued id).modCore d fun k => { k with clus := vmap (fun u => { u with nextAt := max u.nextAt t }) k.clus }
        else s.raise causeMiss 0x0A) s)

/-- The domain identifier of a level (R296). -/
def Csr.dom (c : Csr) (l : Fin 4) : BitVec 16 := c.dmr.extractLsb' (16 * l.val) 16

/-- A PHASE word of a level has issued at count `t`; the reports of level 2 are kept until they have arrived (R117, R357). -/
def Core.phasePassed (k : Core) (lvl : Fin 4) (t : Nat) : Core :=
  let n := k.phases[lvl] + 1
  { k with
    phases := k.phases.set lvl n
    reports := if lvl = 2 then k.reports.filter (t < ·.2 + 64) ++ [(n, t)] else k.reports }

/-- PHASE: a boundary is counted and reported; no register changes (R117, R298). -/
def execPhase (lvl : Fin 4) (s : State) : Out :=
  if s.csr.dom lvl = 0xFFFF then .next s.illegal
  else .next (s.issued fun t => t.modMe fun k => k.phasePassed lvl t.zc)

/-- DOMSYNC: C holds until every member has issued its own of that number (R118, R298). -/
def execDomsync (lvl : Fin 4) (s : State) : Out :=
  if s.csr.dom lvl = 0xFFFF then .next s.illegal
  else
    let n := s.me.doms[lvl] + 1
    .next (s.issued fun t =>
      (t.modMe fun k => { k with doms := k.doms.set lvl n }).holds (.domsync lvl n))

/-- The members of a core's domain at a level below 3 (R296). -/
def State.members (s : State) (c : Fin 64) (l : Fin 4) : List (Fin 64) :=
  (s.gangOf c).filter fun d => domainOf l d == domainOf l c

/-- Arrivals of a level-3 barrier held by this device (R297). -/
def State.arrived (s : State) (d3 : BitVec 16) (n : Nat) : Nat :=
  (s.arrivals.filter fun a => a.1 == d3 && a.2.1 == n).length

/-- What the launch of core `c` has recorded of its level-3 barrier `n`: that it is formed, and whether it has completed
(R297). -/
def State.l3Of (s : State) (c : Fin 64) (n : Nat) : Option Bool :=
  let d3 := (s.core c).vis.csr.dom 3
  ((s.runs.find? fun r => r.id == (s.core c).run).bind fun r => r.l3.find? fun e => e.1 == d3 && e.2.1 == n).map (·.2.2)

/-- Barrier `n` of a level is complete for core `c`: for levels 0 to 2 every member has issued it; for level 3 the device holds
D3N arrivals, its own among them, or it has completed before (R118, R297, R298). DESIGN CHOICE (log 94): a barrier that has
completed stays so for a gang that a replay takes back before it. -/
def State.barrierDone (s : State) (c : Fin 64) (l : Fin 4) (n : Nat) : Bool :=
  let d3 := (s.core c).vis.csr.dom 3
  if l = 3 then
    s.l3Of c n == some true || (s.arrivals.contains (d3, n, s.dev) && (s.core c).launch.d3n.toNat ≤ s.arrived d3 n)
  else (s.members c l).all fun d => n ≤ (s.countsOf c d).2[l]

/-- The level-2 domain of a core forms its level-3 barrier `n`: every member has issued it, and its launch has not formed it
before (R297). -/
def State.formsL3 (s : State) (c : Fin 64) (n : Nat) : Bool :=
  (s.members c 2).all (fun d => n ≤ (s.countsOf c d).2[(3 : Fin 4)])
    && s.runs.any (·.id == (s.core c).run) && (s.l3Of c n).isNone

/-- The devices of a replica domain in the replica table (R338). -/
def State.replicas (s : State) (d3 : BitVec 16) : Option Nat :=
  (s.regs.replica.toList.find? fun e => e.1.extractLsb' 0 16 == d3 && e.1.getLsbD 16).map
    fun e => e.2.toNat % 2 ^ 48

/-- The device numbers of a rank list read from home; none when the list is refused, with the address and cause of a page that
refuses it (R337). -/
def State.readRanks (s : State) (cid : BitVec 12) (addr : Nat) : State × Option (List Nat) × Option (Nat × Nat) :=
  match s.engineRead cid addr 8 with
  | (s, .inr e) => (s, none, some e)
  | (s, .inl h) =>
    let n := h % 2 ^ 16
    if n = 0 ∨ h / 2 ^ 16 ≠ 0 then (s, none, none)
    else
      match s.engineRead cid (addr + 8) (2 * n) with
      | (s, .inr e) => (s, none, some e)
      | (s, .inl x) => (s, some ((List.range n).map fun i => x / 2 ^ (16 * i) % 2 ^ 16), none)

/-- A level-3 barrier of core `c` is formed: its launch records it, and this device's one arrival is counted and sent to the other
devices of the list (R297, R338). Where another launch of the device under the same D3ID has one held, that one counts. -/
def State.formL3 (s : State) (c : Fin 64) (n : Nat) (devs : List Nat) : State :=
  let d3 := (s.core c).vis.csr.dom 3
  let s : State := { s with runs := s.runs.map fun r =>
    if r.id == (s.core c).run then { r with l3 := r.l3 ++ [(d3, n, false)] } else r }
  if s.arrivals.contains (d3, n, s.dev) then s
  else
    { s with
      arrivals := s.arrivals ++ [(d3, n, s.dev)]
      outbox := s.outbox ++ (devs.filter (· != s.dev)).map fun d => Msg.domsync d d3 n }

/-- A launch knows that level-3 barrier `n` of a D3ID, which it had formed, has completed (R297). -/
def Run.passL3 (r : Run) (d3 : BitVec 16) (n : Nat) : Run :=
  { r with l3 := r.l3.map fun e => if e.1 = d3 ∧ e.2.1 = n then (d3, n, true) else e }

/-- A completed barrier lets the cores that hold in it go on; a level-3 one uses its arrivals up (R118, R297). -/
def State.passBarrier (s : State) (c : Fin 64) (l : Fin 4) (n : Nat) : State :=
  let go (s : State) (d : Fin 64) : State := s.modCore d fun k => k.release .c (· == .domsync l n) (s.zc + 1)
  if l = 3 then
    let d3 := (s.core c).vis.csr.dom 3
    let s := ((s.members c 2).filter fun d => (s.core d).run == (s.core c).run).foldl go s
    { s with
      arrivals := s.arrivals.filter fun a => !(a.1 == d3 && a.2.1 == n)
      runs := s.runs.map (·.passL3 d3 n) }
  else go s c

/-- DOMSYNC_COMPLETE: a barrier of core `ev.core` has every member; C is released. For a level-3 barrier that
this device forms, its own arrival is counted and sent to the other devices first (R118, R297, R338). -/
def execDomsyncComplete (s : State) : Out :=
  let c := s.ev.core
  let k := s.core c
  match k.holdOf .c with
  | .domsync l n =>
    let d3 := k.vis.csr.dom 3
    let s :=
      if l = 3 && s.formsL3 c n then
        match s.replicas d3 with
        | none => s
        | some list =>
          match s.readRanks 0 list with
          | (s, some devs, _) => s.formL3 c n devs
          | (s, none, _) => s
      else s
    if s.barrierDone c l n then .next (s.passBarrier c l n)
    else .next s
  | _ => .next s

/-- DOMSYNC_ARRIVAL: a level-3 arrival reaches the device: D3ID, number, device (R297). It is held until its
barrier counts it. -/
def execDomsyncArrival (s : State) : Out :=
  .next { s with arrivals := s.arrivals ++ [(BitVec.ofNat 16 (s.arg 0), s.arg 1, s.arg 2)] }

/-! ## STEPADV (R119) -/

/-- STEPADV holds C at it; the switch is STEP_SWITCH, in this cycle when nothing is awaited (R119). -/
def execStepadv (s : State) : Out := .next (s.holds .stepadv)

/-- The slots due at step `new`, in ascending order (R119). -/
def Core.dueSlots (k : Core) (new : Dword) : List (Fin 16) :=
  (List.finRange 16).filter fun h => k.vis.slot[h].pvalid && k.vis.slot[h].swstep ≤ new

/-- The first due slot that is not PREADY, or has failed (R119). -/
def Core.awaited (k : Core) : Option (Fin 16) :=
  (k.dueSlots (k.vis.csr.step + 1)).find? fun h => !k.vis.slot[h].pready || k.vis.slot[h].pfail

/-- C stands at a STEPADV whose switches are ready, or one of which has failed (R119). -/
def Core.stepReady (k : Core) : Bool :=
  k.live && k.holdOf .c == .stepadv &&
    match k.awaited with
    | none => true
    | some h => k.vis.slot[h].pfail

/-- The switch of one slot (R119). -/
def Slot.switch (x : Slot) : Slot := { x with gen := x.pgen, pvalid := false, pready := false }

/-- STEP_SWITCH: STEP and the GEN of every due slot of core `ev.core` change in one cycle, or STEPADV traps
on the first failed one (R119). DEDUCED (log 71): its link bits act and it counts as issued at the switch. -/
def execStepSwitch (s : State) : Out :=
  let c := s.ev.core
  let k := s.core c
  if !k.stepReady then .next s
  else
    let s := (s.modCore c fun k => k.setHold .c .run).turnTo c .c
    match k.awaited with
    | some h =>
      .next ((s.raise causeState k.vis.slot[h].pcode).modMe fun k => k.modVis fun v =>
        { v with slot := v.slot.set h { v.slot[h] with pvalid := false, pfail := false, pcode := 0 } })
    | none =>
      .next (s.issued fun t => t.modMe fun k =>
        let due := k.dueSlots (k.vis.csr.step + 1)
        k.modVis fun v =>
          { v with
            csr := { v.csr with step := v.csr.step + 1 }
            slot := due.foldl (fun (a : Vector Slot 16) (h : Fin 16) => a.set h a[h].switch) v.slot })

/-! ## Launch and end (R120-R122, R290, R299) -/

/-- The four registers of a quad at `q` (R81). -/
def State.quad (s : State) (q : Fin 64) : Dword × Dword × Dword × Dword :=
  let r (i : Nat) : Dword := s.rg (Fin.ofNat 64 (q.val + i))
  (r 0, r 1, r 2, r 3)

/-- KLAUNCH: the distributor writes the mailbox of every core of the mask; token k follows (R120). -/
def execKlaunch (a k : Fin 64) (s : State) : Out :=
  let q := s.quad a
  if (s.tok k).st = .pending ∨ q.2.2.1 = 0 ∨ 4 ≤ q.2.2.2.toNat then .next s.illegal
  else
    .next (s.issued fun t =>
      ((t.modMe fun x => x.pend k).addCmd { t.newCmd (.klaunch a k) k [] with quad := q, started := true }).later 1
        (s.choices.headD 0) .klaunchComplete (.of s.cn t.nextId))

/-- KEND: an S = 1 word; after its bundle no cluster of the core issues (R122). -/
def execKend (s : State) : Out :=
  if !s.turn.hdr.sync then .next s.illegal else .next (s.issued fun t => t.holds (.kend s.clu.pc))

/-- The word index of the KEND at which C holds (R122). -/
def Core.kendAt (k : Core) : Option (BitVec 16) :=
  match k.holdOf .c with
  | .kend pc => some pc
  | _ => none

/-- The waits of KEND that need no translation: tokens resolved, W drained, every queue empty (R122). -/
def Core.kendReady (k : Core) : Bool :=
  k.live && k.kendAt.isSome && k.noPending && k.cmds.isEmpty && k.wEmpty && k.loads.isEmpty && k.xIdle
    && k.queuesEmpty

/-- An entry a core posted has fired and is not acknowledged everywhere (R122, R329). -/
def State.entryOut (s : State) (c : Fin 64) : Bool :=
  s.qps.any fun q => q.2.ents.any fun e => e.core == c && (match e.st with
    | .fired _ | .started => true
    | _ => false)

/-- The waits of KEND, acknowledgements of one-sided writes included (R122). -/
def State.kendReady (s : State) (c : Fin 64) : Bool := (s.core c).kendReady && !s.entryOut c

/-- The completion word (R122). -/
def Core.completion (k : Core) : Nat :=
  match k.vis.tok.toList.find? (·.st == .failed) with
  | some t => 3 + t.code.toNat * 2 ^ 8
  | none => 1

/-- The lines dirty under a core's and context's stamp in a list (R122). -/
def stampedLines (ls : List Line) (cid : BitVec 12) (c : Fin 64) : List Nat :=
  (ls.filter fun l => l.dirty != 0 && l.cid == cid
    && l.stamp.toNat % 2 ^ 18 == cid.toNat + c.val * 2 ^ 12).map (·.la)

/-- The translation check of a line, made as a write-back of it would be translated, for the store that `stamp` names when home
holds no dirty byte of it: a failed check is a failed write-back (R122, R173, R315). The line stays dirty in home; one of an
UNCACHED page goes to memory (R173, R306). -/
def State.checkLine (s : State) (cid : BitVec 12) (stamp : BitVec 48) (la : Nat) : State :=
  let l := lineOr s.home cid la
  match s.xlate cid (la * 128 / 2 ^ 21) with
  | (s, .ok f) => if f.unc then s.evictHome cid la else s
  | (s, _) =>
    ({ s with home := dropLine s.home cid la }).lateFault { l with stamp := if l.dirty = 0 then stamp else l.stamp }

/-- The clean of a KEND and the lines it checks: every dirty line of the core's block cache, and of its RDC under a stamp of the
core and context, is cleaned to home; each of them, and every line dirty in home under such a stamp, is checked (R122, R285). -/
def State.kendLines (s : State) (c : Fin 64) : State × List (BitVec 12 × Nat) :=
  let cid := (s.core c).vis.csr.cid
  let mine := ((s.core c).bc.filter fun l => l.dirty != 0).map fun l => (l.cid, l.la)
  let s := mine.foldl (fun (s : State) (x : BitVec 12 × Nat) => s.passHome c x.1 x.2) s
  let low := (stampedLines (s.rdcOf (zIdx c)) cid c).map fun la => (cid, la)
  let s := low.foldl (fun (s : State) (x : BitVec 12 × Nat) => s.cleanRdc (zIdx c) x.1 x.2) s
  let at_ := (stampedLines s.home cid c).map fun la => (cid, la)
  (s, (mine ++ low ++ at_).dedup)

/-- The checks of a KEND on the lines it has cleaned or found dirty (R122). -/
def State.kendCheck (s : State) (xs : List (BitVec 12 × Nat)) : State :=
  xs.foldl (fun (s : State) (x : BitVec 12 × Nat) =>
    if (findLine s.home x.1 x.2).any fun l => l.dirty != 0 then s.checkLine x.1 0 x.2 else s) s

/-- A die reports its free cells; the distributor has the report after its latency (R291). -/
def State.reportCells (s : State) (i : Fin 4) : State :=
  s.at_ (s.zc + s.lat ⟨2 + i.val, by omega⟩ 0) .freeCellReport (.nums [i.val, 64 - s.cells[i].length])

/-- The cells of a core's handles return to the pool (R122, R182). -/
def State.freeCells (s : State) (c : Fin 64) (p : Fin 8 → Bool) : State :=
  let i := cumIdx c
  let s := { s with cells := s.cells.set i (s.cells[i].filter fun x => !(x.2.1 == c && p x.2.2)) }
  s.reportCells i

/-- The subscriptions of a core end (R359). -/
def State.dropSubs (s : State) (c : Fin 64) : State :=
  { s with gov := { s.gov with subs := s.gov.subs.filter (·.core != c), reads := s.gov.reads.filter (·.1 != c) } }

/-- A result is reported in PRST (R302, R382). -/
def State.prst (s : State) (cid : BitVec 12) (res : BitVec 3) : State :=
  State.msi { s with regs := { s.regs with prstCid := cid, prstRes := res } } 5

/-- The cores a saved context restarts on: those that have saved. -/
def Run.savedMask (r : Run) : Dword := (r.saved.map fun x => BitVec.ofNat 64 (2 ^ x.1.val)).foldl (· ||| ·) 0

/-- A core runs a launch. -/
def Core.onRun (k : Core) (r : Run) : Bool := k.run == r.id && k.st != .idle && k.st != .taken

/-- No core of a running launch runs any more. -/
def State.runOver (s : State) (r : Run) : Bool :=
  r.st == .running && coreList.all fun d => !(r.gang.getLsbD d.val && (s.core d).onRun r)

/-- A launch that is over leaves the distributor; if cores of it have saved, it stays as saved. -/
def State.closeRun (s : State) (r : Run) : Option Run :=
  if !s.runOver r then some r
  else if r.saved.isEmpty then none
  else some { r with st := .saved, gang := r.savedMask }

/-- A running launch none of whose cores runs any more is over; if cores of it have saved, the context is reported
saved (R299, R325). -/
def State.closeRuns (s : State) : State :=
  let t := { s with runs := s.runs.filterMap s.closeRun }
  (s.runs.filter fun r => s.runOver r && !r.saved.isEmpty).foldl (fun (t : State) (r : Run) => t.prst r.cid 1) t

/-- A late store fault of a context has been found and its end is on its way (R122, R315, R316). -/
def State.endsLate (s : State) (cid : BitVec 12) : Bool :=
  s.ending cid &&
    ((s.agenda.any fun t => t.op == .contextEnd && t.ev.args.getD 1 0 == cid.toNat && t.ev.args.getD 2 0 == causeLate)
      || s.mtu.toList.any fun m => m.late.any fun e => BitVec.ofNat 12 e.line.stamp.toNat == cid)

/-- KEND_COMPLETE: the waits of the KEND of core `ev.core` are met. Its dirty lines are cleaned to home and
checked; unless a check fails, or a late fault that ends the context has been found, shapes and pins are released and the completion
word is written. The cells are free at the end of the next cycle (R122, R260, R291, R299). -/
def execKendComplete (s : State) : Out :=
  let c := s.ev.core
  let k := s.core c
  if !s.kendReady c then .next s
  else
    let cid := k.vis.csr.cid
    let (t, xs) := s.kendLines c
    let bad := xs.any fun x => t.refusesLine x.1 x.2
    let t := t.kendCheck xs
    if bad || t.endsLate cid then .next (t.modCore c Core.halt)
    else
      let t : State := { t with pins := t.pins.filter fun p => !(p.cid == cid && p.core == c) }
      match t.engineWrite cid k.launch.caddr.toNat 8 k.completion (stampOf cid c k.seqs[(3 : Fin 15)]) with
      | (t, .inr (a, cause)) =>
        let pc := k.kendAt.getD 0
        .next (((t.memRecord c cid .c (homeDie a) pc a cause).modCore c Core.halt).endCtx cid cause (homeDie a))
      | (t, .inl _) =>
        let t := t.modCore c fun k =>
          { k.halt with
            st := .idle, idleAt := s.zc + 1, replay := none
            shape := Vector.replicate 8 Shape.zero
            vis := { k.vis with sh := Vector.replicate 8 .free } }
        .next ((t.at_ (s.zc + 1) .cellsLive ⟨c, 0, [1], []⟩).dropSubs c).closeRuns

end Sys2Proof.Machine
end

