-- ==== Sys2Proof/Machine/Engine.lean ====
section
/-!
DEFINITION. Engine words at issue (R215-R217, R220, R223), the token words (R224), the remote atomics at
issue (R178), and how consumers see their tokens (R386).
-/

namespace Sys2Proof.Machine

/-! ## The auxiliary word (R178, R210, R216) -/

/-- The consumed tokens of an auxiliary word, in the order T0, T1, T2. -/
def auxToks (x : Dword) : List (Fin 64) :=
  let t (lo : Nat) : List (Fin 64) := if x.getLsbD (lo + 6) then [Fin.ofNat 64 (x.toNat / 2 ^ lo)] else []
  t 0 ++ t 8 ++ t 16

/-- Bits 7, 15 and [31:24] of an auxiliary word, and CHAIN unless the command may chain, are zero. -/
def auxLow (x : Dword) (chainOk : Bool) : Bool :=
  !x.getLsbD 7 && !x.getLsbD 15 && x.extractLsb' 24 8 == 0 && (chainOk || !x.getLsbD 23)

/-- CHAIN (R216). -/
def auxChain (x : Dword) : Bool := x.getLsbD 23

/-- XV (R216). -/
def auxXv (x : Dword) : Nat := x.toNat / 2 ^ 32

/-- A consumed token is EMPTY or is the produced one (R216). -/
def badToks (v : Vis) (kd : Fin 64) (ts : List (Fin 64)) : Bool :=
  ts.any fun t => v.tok[t].st == .empty || t == kd

/-- The record of a command with its quad and consumed tokens; `args` are the slots' generations at its
issue (R286). -/
def State.quadCmd (s : State) (op : Instr) (kd : Fin 64) (q : Dword × Dword × Dword × Dword)
    (ts : List (Fin 64)) : Cmd :=
  { s.newCmd op kd (s.me.old.slot.toList.map (·.gen.toNat)) with quad := q, waits := ts.map fun t => (t, false) }

/-- An engine word (R161, R216): the checks common to all, the command's own limits `ok`, then kd becomes
PENDING and the command enters its engine's queue. -/
def engineWord (op : Instr) (kd q : Fin 64) (chainOk : Bool) (ok : Dword × Dword × Dword × Dword → Bool)
    (s : State) : Out :=
  let x := s.quad q
  let aux := x.2.2.2
  let ts := auxToks aux
  if s.taken kd ∨ !auxLow aux chainOk ∨ badToks s.me.old kd ts
      ∨ (auxChain aux && !aux.getLsbD 6) ∨ !ok x then .next s.illegal
  else .next (s.issued fun t => (t.modMe fun k => k.pend kd).addCmd (t.quadCmd op kd x ts))

/-! ## Copy commands (R217, R220) -/

/-- `[a, a + n)` ends at or below 2⁴⁸ (R158, R217). DESIGN CHOICE (log 103): so an empty range whose address lies above 2⁴⁸ is
refused as well. -/
def rangeOk48 (a n : Nat) : Bool := a + n ≤ 2 ^ 48

/-- Two ranges share no byte. -/
def disjoint (a b n : Nat) : Bool := n == 0 || a + n ≤ b || b + n ≤ a

/-- The length of a copy command and its reserved bits (R217). -/
def lenOk (x : Dword) : Bool := x.toNat / 2 ^ 40 == 0

def lenOf (x : Dword) : Nat := x.toNat % 2 ^ 40

/-- CP.COPY (R217). -/
def execCpCopy (k q : Fin 64) (s : State) : Out :=
  engineWord (.cpCopy k q) k q false
    (fun (a, b, n, x) =>
      lenOk n && auxXv x == 0 && rangeOk48 a.toNat (lenOf n) && rangeOk48 b.toNat (lenOf n)
        && disjoint a.toNat b.toNat (lenOf n)) s

/-- The limits of a checksummed copy: words, alignment, and ranges equal or apart (R217); with CHAIN and
no .LAST the XV is zero (R220). -/
def sumLimits (last same : Bool) (a b n len : Nat) (x : Dword) : Bool :=
  n % 4 == 0 && a % 4 == 0 && b % 4 == 0 && len == n && rangeOk48 a n && rangeOk48 b n
    && (!same || a == b || disjoint a b n) && (!auxChain x || last || auxXv x == 0)

def execCpSumFold (k q : Fin 64) (last : Bool) (s : State) : Out :=
  engineWord (.cpSumFold k q last) k q true
    (fun (a, b, n, x) => lenOk n && sumLimits last true a.toNat b.toNat (lenOf n) (lenOf n) x) s

def execCpSumCrc (k q : Fin 64) (last : Bool) (s : State) : Out :=
  engineWord (.cpSumCrc k q last) k q true
    (fun (a, b, n, x) => lenOk n && sumLimits last true a.toNat b.toNat (lenOf n) (lenOf n) x) s

/-- Bytes of a size code (R84). -/
def StSize.bytes : StSize → Nat
  | .b => 1 | .h => 2 | .w => 4 | .d => 8

/-- CP.FILL (R217). -/
def execCpFill (k q : Fin 64) (width : StSize) (s : State) : Out :=
  let w := StSize.bytes width
  engineWord (.cpFill k q width) k q false
    (fun (a, b, n, x) =>
      lenOk n && auxXv x == 0 && lenOf n % w == 0 && b.toNat % w == 0 && a.toNat / 2 ^ (8 * w) == 0
        && rangeOk48 b.toNat (lenOf n)) s

/-- The destination device of CP.LINK (R217). -/
def linkDev (n : Dword) : Nat := n.toNat / 2 ^ 40 % 2 ^ 16

/-- CP.LINK without a checksum (R217). -/
def execCpLink (k q : Fin 64) (s : State) : Out :=
  let dev := s.dev
  engineWord (.cpLink k q) k q false
    (fun (a, b, n, x) =>
      n.toNat / 2 ^ 56 == 0 && auxXv x == 0 && rangeOk48 a.toNat (lenOf n) && rangeOk48 b.toNat (lenOf n)
        && linkDev n != dev) s

/-- The limits of a checksummed CP.LINK (R217, R220). -/
def linkLimits (last : Bool) (dev : Nat) : Dword × Dword × Dword × Dword → Bool :=
  fun (a, b, n, x) =>
    n.toNat / 2 ^ 56 == 0 && sumLimits last false a.toNat b.toNat (lenOf n) (lenOf n) x && linkDev n != dev

def execCpLinkFold (k q : Fin 64) (last : Bool) (s : State) : Out :=
  engineWord (.cpLinkFold k q last) k q true (linkLimits last s.dev) s

def execCpLinkCrc (k q : Fin 64) (last : Bool) (s : State) : Out :=
  engineWord (.cpLinkCrc k q last) k q true (linkLimits last s.dev) s

/-- The tag word of a tile transfer: SEQ and LAY in [15:0], TW in [16], the rest zero (R169, R217). -/
def tagWordOk (x : Nat) : Bool := x / 2 ^ 17 == 0

/-- A tile range: 512-byte aligned, inside its bank group (R217). -/
def tileRange (off n : Nat) : Bool := off % 512 == 0 && n % 512 == 0 && off + n ≤ 2 ^ 21

/-- CP.TILE.TO (R170, R217). -/
def execCpTileTo (k q : Fin 64) (b : Fin 2) (s : State) : Out :=
  let c := s.me
  engineWord (.cpTileTo k q b) k q false
    (fun (a, o, n, x) =>
      lenOk n && tileRange o.toNat (lenOf n) && tagWordOk (auxXv x) && rangeOk48 a.toNat (lenOf n)
        && (lenOf n == 0 || !c.queueTouches b o.toNat (lenOf n))) s

/-- CP.TILE.FROM (R217). -/
def execCpTileFrom (k q : Fin 64) (b : Fin 2) (s : State) : Out :=
  engineWord (.cpTileFrom k q b) k q false
    (fun (o, d, n, x) =>
      lenOk n && tileRange o.toNat (lenOf n) && tagWordOk (auxXv x) && rangeOk48 d.toNat (lenOf n)) s

/-! ## Collective and counter words at issue (R223) -/

/-- CQ.POST: its entry's page is checked as a read at issue (R159, R223, R328). -/
def execCqPost (k q : Fin 64) (s : State) : Out :=
  let a := (s.quad q).1.toNat
  match (if a + 64 ≤ 2 ^ 48 then s.me.refused .w (pagesOf a 64) .read else none) with
  | some (cause, addr) =>
    match engineWord (.cqPost k q) k q false
      (fun (a, n, z, x) => a.toNat % 64 == 0 && n.toNat < 256 && z == 0 && auxXv x == 0) s with
    | .next t => if t.me.trap.isSome && s.me.trap.isNone then .next t else .next (s.raiseAt cause addr)
    | o => o
  | none =>
    engineWord (.cqPost k q) k q false
      (fun (a, n, z, x) => a.toNat % 64 == 0 && a.toNat + 64 ≤ 2 ^ 48 && n.toNat < 256 && z == 0 && auxXv x == 0) s

/-- CQ.ARM (R223). -/
def execCqArm (k q : Fin 64) (s : State) : Out :=
  engineWord (.cqArm k q) k q false (fun (n, _, c, _) => n.toNat < 256 && c.toNat < 4096) s

/-- CNT.ADD (R223). -/
def execCntAdd (k q : Fin 64) (s : State) : Out :=
  engineWord (.cntAdd k q) k q false (fun (n, z, _, x) => n.toNat < 4096 && z == 0 && auxXv x == 0) s

/-- CNT.WAIT (R223). -/
def execCntWait (k q : Fin 64) (s : State) : Out :=
  engineWord (.cntWait k q) k q false (fun (n, z, _, x) => n.toNat < 4096 && z == 0 && auxXv x == 0) s

/-- RL.INV (R223). -/
def execRlInv (k q : Fin 64) (s : State) : Out :=
  engineWord (.rlInv k q) k q false
    (fun (a, z, y, x) => a.toNat % 64 == 0 && a.toNat < 2 ^ 48 && z == 0 && y == 0 && auxXv x == 0) s

/-! ## Remote atomics at issue (R178) -/

/-- An AMOR word: CAS alone has a new value; reserved bits of the auxiliary word are zero; its address is aligned and
below 2⁴⁸ (R158, R178). -/
def amorWord (op : Instr) (kd q : Fin 64) (dw cas : Bool) (s : State) : Out :=
  let w := if dw then 8 else 4
  engineWord op kd q false
    (fun (_, a, n, x) => x.toNat / 2 ^ 48 == 0 && (cas || n == 0) && a.toNat % w == 0 && rangeOk48 a.toNat w) s

def execAmorAdd (k q : Fin 64) (dw : Bool) (s : State) : Out := amorWord (.amorAdd k q dw) k q dw false s
def execAmorMin (k q : Fin 64) (dw : Bool) (s : State) : Out := amorWord (.amorMin k q dw) k q dw false s
def execAmorMax (k q : Fin 64) (dw : Bool) (s : State) : Out := amorWord (.amorMax k q dw) k q dw false s
def execAmorOr (k q : Fin 64) (dw : Bool) (s : State) : Out := amorWord (.amorOr k q dw) k q dw false s
def execAmorAnd (k q : Fin 64) (dw : Bool) (s : State) : Out := amorWord (.amorAnd k q dw) k q dw false s
def execAmorXchg (k q : Fin 64) (dw : Bool) (s : State) : Out := amorWord (.amorXchg k q dw) k q dw false s
def execAmorCas (k q : Fin 64) (dw : Bool) (s : State) : Out := amorWord (.amorCas k q dw) k q dw true s

/-! ## Token words (R224) -/

/-- TK.ZERO: EMPTY with code 0; traps on a PENDING token (R224). -/
def execTkZero (k : Fin 64) (s : State) : Out :=
  if (s.tok k).st = .pending then .next s.illegal
  else .next (s.issued fun t => t.modMe fun c => c.setTok k Token.zero)

/-- TK.JOIN: a producer of k that consumes ka and kb (R224, R386). -/
def execTkJoin (k a b : Fin 64) (s : State) : Out :=
  if (s.tok k).st = .pending ∨ (s.tok a).st = .empty ∨ (s.tok b).st = .empty ∨ k = a ∨ k = b then .next s.illegal
  else
    .next (s.issued fun t => (t.modMe fun c => c.pend k).addCmd (t.quadCmd (.tkJoin k a b) k (0, 0, 0, 0) [a, b]))

/-- TK.TEST: the 16-bit image of the token (R15, R224). -/
def execTkTest (d a : Fin 64) (s : State) : Out :=
  .next (s.issued fun t => t.wg d ((s.tok a).image.zeroExtend 64))

/-! ## Consumers (R386) -/

/-- A command still waits for its consumed tokens and has stood since an earlier cycle. -/
def Cmd.waiting (c : Cmd) (zc : Nat) : Bool := !c.started && c.at_ < zc

/-- Every consumed token has been seen DONE, this cycle's start included (R386). -/
def Cmd.allSeen (c : Cmd) (v : Vis) : Bool := c.waits.all fun w => w.2 || v.tok[w.1].st == .done

/-- The first consumed token not yet seen DONE that is seen FAILED, in order (R386). -/
def Cmd.failSeen (c : Cmd) (v : Vis) : Option Byte :=
  (c.waits.find? fun w => !w.2 && v.tok[w.1].st == .failed).map fun w => v.tok[w.1].code

/-- The consumers of a core read their tokens in this cycle: those seen DONE are remembered (R386). -/
def Core.seeTokens (k : Core) (zc : Nat) : Core :=
  { k with cmds := k.cmds.map fun c =>
      if c.waiting zc then
        { c with waits := c.waits.map fun w => (w.1, w.2 || k.old.tok[w.1].st == .done) }
      else c }

/-- A queued command may start: no cut, handler or suspension holds an engine's (R227, R314). No rule holds a JOIN or an
AMOR, which are in no engine's queue and complete as words before the cut (R318, R386). -/
def Core.mayStart (k : Core) (c : Cmd) : Bool :=
  match engineOf c.op with
  | none => k.st == .running || k.st == .suspended
  | some _ => k.live && match k.shadow with
    | none => true
    | some h => h.firstId ≤ c.id

/-- A collective post (R278). -/
def isPost : Instr → Bool
  | .cqPost _ _ | .cqArm _ _ | .cntAdd _ _ => true
  | _ => false

/-- Earlier commands of its core that a queued command follows: the collective posts before another (R280). The earlier loads
and LDBs of L hold back no engine command: they are performed when their value is bound, which is at their issue (R273, R278;
log 10). -/
def Core.behind (k : Core) (c : Cmd) : Bool := isPost c.op && k.cmds.any fun m => m.id < c.id && isPost m.op

/-- The first command of a core that starts in this cycle (R386). -/
def Core.starting (k : Core) (zc : Nat) : Option Cmd :=
  k.cmds.find? fun c => c.waiting zc && k.mayStart c && (c.failSeen k.old).isNone && c.allSeen k.old && !k.behind c

/-- The first command of a core that a consumed token fails in this cycle (R386). DESIGN CHOICE (log 93): one that a handler or
a suspension holds behind the cut fails too, in the first cycle in which it sees the token FAILED; the hold of R227 and R314 is
on its start. -/
def Core.failing (k : Core) (zc : Nat) : Option Cmd :=
  k.cmds.find? fun c => c.waiting zc && (k.st == .running || k.st == .suspended) && (c.failSeen k.old).isSome

/-- Change the record of a pending command. -/
def Core.modCmd (k : Core) (id : Nat) (f : Cmd → Cmd) : Core :=
  { k with cmds := k.cmds.map fun c => if c.id = id then f c else c }

/-- The engine has started a command: it is counted before the cut (R227, R319). -/
def Core.startCmd (k : Core) (m : Cmd) : Core :=
  let k := k.modCmd m.id fun x => { x with started := true }
  match engineOf m.op with
  | some q => { k with seqs := k.seqs.set q (k.seqs[q] + 1) }
  | none => k

/-- A command leaves its queue; an entry of an engine's queue that ends without a start lies before the cut as well (R319). -/
def Core.leave (k : Core) (id : Nat) : Core :=
  match (k.cmd id).bind fun m => if m.started then none else engineOf m.op with
  | some q => { k.dropCmd id with seqs := k.seqs.set q (k.seqs[q] + 1) }
  | none => k.dropCmd id

/-- A command of core `c` completes: its token takes the result and it leaves the queue. One whose report a
replay has discarded changes no token (R247). -/
def State.finish (s : State) (c : Fin 64) (m : Cmd) (r : Core → Core) : State :=
  s.modCore c fun k => if m.gone then k.leave m.id else r (k.leave m.id)

/-- A command completes DONE with no chain value. -/
def State.finishDone (s : State) (c : Fin 64) (m : Cmd) : State := s.finish c m fun k => k.done m.tok none

/-- A command fails with a code. -/
def State.finishFail (s : State) (c : Fin 64) (m : Cmd) (code : Byte) : State :=
  s.finish c m fun k => k.fail m.tok code

/-- PFAIL and PCODE of the slot whose recorded switch is this command (R119, R214). -/
def Core.switchFail (k : Core) (m : Cmd) (h : Fin 16) (code : Byte) : Core :=
  if k.switch[h] = some m.id then
    k.modVis fun v => { v with slot := v.slot.set h { v.slot[h] with pfail := true, pcode := code } }
  else k

/-- PREADY of the slot whose recorded switch is this command (R214). -/
def Core.switchReady (k : Core) (m : Cmd) (h : Fin 16) : Core :=
  if k.switch[h] = some m.id then
    k.modVis fun v => { v with slot := v.slot.set h { v.slot[h] with pready := true } }
  else k

/-- CONSUMED_TOKEN_FAILED: the first such command of core `ev.core` fails with its token's code and does
nothing; a failed NBSWITCH records PFAIL (R214, R386). -/
def execConsumedTokenFailed (s : State) : Out :=
  let c := s.ev.core
  match (s.core c).failing s.zc with
  | none => .next s
  | some m =>
    let code := (m.failSeen (s.core c).old).getD 0
    let s := s.finishFail c m code
    match m.op with
    | .nbswitch _ _ h => .next (s.modCore c fun k => k.switchFail m h code)
    | _ => .next s

end Sys2Proof.Machine
end

