-- ==== Sys2Proof/Machine/Copy.lean ====
section
/-!
DEFINITION. The copy engine (R217-R222, R384), the links it writes through (R383, R387) and the remote
atomics (R178): starts, completions, arrivals and acknowledgements. A command reads its source at its start and
writes its destination at its completion.
-/

namespace Sys2Proof.Machine

/-! ## Running checksums (R220) -/

/-- One byte of the CRC step. -/
def crcByte (c : Word) (b : Byte) : Word :=
  (List.range 8).foldl
    (fun c _ => if c.getLsbD 0 then (c >>> 1) ^^^ 0x82F63B78 else c >>> 1) (c ^^^ b.zeroExtend 32)

/-- The CRC step on a word. -/
def crcWord (c w : Word) : Word := (wordBytes w).foldl crcByte c

/-- The FOLD step on a word. -/
def foldWord (c w : Word) : Word := c.rotateLeft 1 ^^^ w

/-- The running value of a kind, CRC or FOLD, over words in order. -/
def runSum (crc : Bool) (c : Word) (ws : List Word) : Word := ws.foldl (if crc then crcWord else foldWord) c

/-- The result a .LAST command compares. -/
def sumResult (crc : Bool) (c : Word) : Word := if crc then c ^^^ 0xFFFFFFFF else c

/-- The checksum of a copy command: CRC or FOLD, and .LAST. -/
def sumOf : Instr → Option (Bool × Bool)
  | .cpSumFold _ _ last | .cpLinkFold _ _ last => some (false, last)
  | .cpSumCrc _ _ last | .cpLinkCrc _ _ last => some (true, last)
  | _ => none

/-- XV of a command. -/
def Cmd.xv (m : Cmd) : Nat := auxXv m.quad.2.2.2

/-- The running value a checksummed command starts from; none is CHAIN LOST (R220, R221). -/
def Core.startSum (k : Core) (m : Cmd) (crc last : Bool) : Option Word :=
  if auxChain m.quad.2.2.2 then
    match m.waits with
    | [] => none
    | w :: _ =>
      match k.old.tok[w.1].chain with
      | some (kind, c) => if kind == crc then some c else none
      | none => none
  else if last then some 0xFFFFFFFF
  else some (BitVec.ofNat 32 m.xv)

/-! ## Starts -/

/-- Source in memory, destination in memory of a copy command. -/
def Cmd.memEnds (m : Cmd) : Option Nat × Option Nat :=
  let a := m.quad.1.toNat
  let b := m.quad.2.1.toNat
  match m.op with
  | .cpCopy _ _ => (some a, some b)
  | .cpSumFold _ _ _ | .cpSumCrc _ _ _ => (some a, if a = b then none else some b)
  | .cpFill _ _ _ => (none, some b)
  | .cpTileTo _ _ _ => (some a, none)
  | .cpTileFrom _ _ _ => (none, some b)
  | .cpLink _ _ | .cpLinkFold _ _ _ | .cpLinkCrc _ _ _ => (some a, none)
  | _ => (none, none)

/-- Length of a copy command. -/
def Cmd.len (m : Cmd) : Nat := lenOf m.quad.2.2.1

/-- `n` bytes of a pattern of `w` bytes (R217). -/
def fillBytes (pat w n : Nat) : List Byte := (List.replicate (n / w) (natBytes w pat)).flatten

/-- Bytes of the source that can be read, and the page that stops them. -/
def State.readable (s : State) (cid : BitVec 12) (a n : Nat) : State × List Byte × Option (Nat × Nat) :=
  match s.engineRead cid a n with
  | (s, .inl x) => (s, natBytes n x, none)
  | (s, .inr (e, cause)) =>
    match s.engineRead cid a (e - a) with
    | (s, .inl x) => (s, natBytes (e - a) x, some (e, cause))
    | (s, .inr _) => (s, [], some (e, cause))

/-- The copy stream of a core reaches the pages of a range: its PLB answers, or takes the MTU's answer, a refused install
aside, and then fetches the page behind; the address and cause of the first page that refuses (R218, R307, R310). -/
def State.copyPages (s : State) (c : Fin 64) (need : Need) (a n : Nat) : State × Option (Nat × Nat) :=
  let pages := pagesOf a n
  pages.foldl
    (fun (acc : State × Option (Nat × Nat)) p =>
      match acc with
      | (s, some e) => (s, some e)
      | (s, none) =>
        let s := s.prefetch c 2 p
        let next := if pages.contains (p + 1) then s.prefetch c 2 (p + 1) else s
        match plbFind (s.core c).splb[(2 : Fin 3)] p with
        | some .none => (next, some (max a (p * 2 ^ 21), causeTrans))
        | some x => (next, if x.meets need then none else some (max a (p * 2 ^ 21), causePerm))
        | none => (s, some (max a (p * 2 ^ 21), causeSynonym))) (s, none)

/-- Bytes of a copy command's source that can be read, and the page that stops them (R218). -/
def State.copyRead (s : State) (c : Fin 64) (cid : BitVec 12) (a n : Nat) : State × List Byte × Option (Nat × Nat) :=
  match s.copyPages c .read a n with
  | (s, none) => s.readable cid a n
  | (s, some e) =>
    match s.readable cid a (e.1 - a) with
    | (s, bs, err) => (s, bs, err.orElse fun _ => some e)

/-- Write the bytes of a copy command that can be written; the page that stops them (R218). -/
def State.copyWrite (s : State) (c : Fin 64) (cid : BitVec 12) (a n x : Nat) (stamp : BitVec 48) : State × Option (Nat × Nat) :=
  let (s, stop) := s.copyPages c .write a n
  let m := match stop with
    | none => n
    | some e => e.1 - a
  match s.engineWrite cid a m (x % 2 ^ (8 * m)) stamp with
  | (s, .inl _) => (s, stop)
  | (s, .inr e) => (s, some e)

/-- The tag word of a tile transfer: the tag, and TW (R169, R217). -/
def Cmd.tagWord (m : Cmd) : BitVec 16 × Bool := (BitVec.ofNat 16 m.xv, m.xv / 2 ^ 16 % 2 == 1)

/-- The fused ERRINJ injection of TARGET 4, taken by the first checksummed CP.LINK long enough (R369):
row and bit. -/
def Csr.linkInj (c : Csr) (len : Nat) : Option (Nat × Nat) :=
  let x := c.errinj.toNat
  let row := x / 2 ^ 8 % 128
  if x % 2 = 1 ∧ x / 2 % 8 = 4 ∧ 4 * row < len then some (row, x / 2 ^ 24 % 32) else none

/-- The waits for acknowledgements of a device run from here: a send or a retry toward it (R387). -/
def State.noteSend (s : State) (dev : Nat) : State := { s with sent := sput dev s.time s.sent }

/-- A message leaves for a device (R387). -/
def State.send (s : State) (dev : Nat) (m : Msg) : State := { s.noteSend dev with outbox := s.outbox ++ [m] }

/-- Nothing has been sent or retried toward a device for 100 ms of Stratus time (R387). -/
def State.overdue (s : State) (dev : Nat) : Bool := (sget dev s.sent).any fun t => t + 100000000 * unitsPerNs ≤ s.time

/-- Some port is up: the model's route to every other device (log 13). -/
def State.routed (s : State) : Bool := s.regs.portUp.toList.any id

/-- A CP.LINK leaves for its destination, or finds no route (R178, R217, R218). -/
def State.linkStart (s : State) (c : Fin 64) (m : Cmd) (kind : Option (Bool × Word)) (data : List Byte) : State :=
  if !s.routed then s.finishFail c m 0x50
  else
    let k := s.core c
    let inj := match kind with
      | some _ => k.old.csr.linkInj m.len
      | none => none
    let (fold, start) : Nat × Word := match kind with
      | none => (0, 0)
      | some (crc, v) => (if crc then 2 else 1, v)
    let s := if inj.isSome then s.modCore c Core.disarm else s
    let dev := linkDev m.quad.2.2.1
    s.send dev (.link dev k.vis.csr.cid c m.id m.quad.2.1.toNat fold start inj (rof data))

/-- A copy command starts (R217, R218, R220, R221), a cycle after the count from which its bound runs (R239). DESIGN CHOICE (log 103): a CHAIN command whose T0 holds no chain value of its
kind fails with CHAIN LOST though its length is 0. DESIGN CHOICE (log 111): a CP.LINK whose source meets a refused page sends
nothing. -/
def State.copyStart (s : State) (c : Fin 64) (m : Cmd) : State :=
  let k := s.core c
  let cid := k.vis.csr.cid
  let n := m.len
  let s := s.modCore c (·.startCmd m)
  let start : Option Word := match sumOf m.op with
    | none => some 0
    | some (crc, last) => k.startSum m crc last
  match start with
  | none => s.finishFail c m 0x14
  | some v =>
    if n = 0 then
      s.finish c m fun k => k.done m.tok (match sumOf m.op with
        | some (crc, false) => some (crc, v)
        | _ => none)
    else
      let bad := match m.op with
        | .cpTileFrom _ _ b => m.tagWord.2 && !tagMatch k.tag b m.quad.1.toNat n m.tagWord.1
        | _ => false
      if bad then s.finishFail c m 0x13
      else
        let ends := m.memEnds
        let bound := match ends.1 with
          | some a => s.schedBound c cid a n ends.2
          | none =>
            match m.op with
            | .cpFill _ _ _ | .cpTileFrom _ _ _ => s.schedBound c cid m.quad.2.1.toNat n none
            | _ => tileBound n
        let (s, data, err) : State × List Byte × Option (Nat × Nat) :=
          match m.op with
          | .cpFill _ _ sz => (s, fillBytes m.quad.1.toNat (StSize.bytes sz) n, none)
          | .cpTileFrom _ _ b => (s, natBytes n (tileRead k.tile b m.quad.1.toNat n), none)
          | _ => s.copyRead c cid m.quad.1.toNat n
        let s := s.modCore c fun k => k.modCmd m.id fun x => { x with data := rof data, chain := v, err := err }
        match m.op, err with
        | .cpLink _ _, none => s.linkStart c m none data
        | .cpLinkFold _ _ _, none => s.linkStart c m (some (false, v)) data
        | .cpLinkCrc _ _ _, none => s.linkStart c m (some (true, v)) data
        | _, _ => s.within (bound - 1) .copyComplete (.of c m.id)

/-! ## Completions -/

/-- A checksummed command has its running value: the chain value, or the comparison of .LAST with the
trap of R222. -/
def State.sumDone (s : State) (c : Fin 64) (m : Cmd) (v : Word) : State :=
  match sumOf m.op with
  | none => s.finishDone c m
  | some (crc, false) => s.finish c m fun k => k.done m.tok (some (crc, v))
  | some (crc, true) =>
    if (sumResult crc v).toNat = m.xv then s.finishDone c m
    else
      (s.finishFail c m 0x12).modCore c fun k =>
        if m.gone then k else k.raise ⟨causeSum, 0x12, .l, 12, m.pc, 0⟩

/-- A copy command stopped by a page: ACCESS, and the end of the context (R218). -/
def State.copyRefused (s : State) (c : Fin 64) (m : Cmd) (e : Nat × Nat) : State :=
  (s.finishFail c m 0x10).accessEnd c m.cl (cmdQueue m) m.pc e.1 e.2

/-- COPY_COMPLETE: the command `ev.id` of core `ev.core` has written every byte it can; each tile that CP.TILE.TO has written
whole has its tag (R217-R219, R242). -/
def execCopyComplete (s : State) : Out :=
  let c := s.ev.core
  match (s.core c).cmd s.ev.id with
  | none => .next s
  | some m =>
    let k := s.core c
    let cid := k.vis.csr.cid
    let bytes := rlist m.data
    let n := bytes.length
    let x := bytesNat bytes
    let stamp := stampOf cid c k.seqs[(3 : Fin 15)]
    match m.op with
    | .cpTileTo _ _ b =>
      let s := s.modCore c fun k =>
        { k with
          tile := tileWrite k.tile b m.quad.2.1.toNat n x
          tag := if m.tagWord.2 then tagWrite k.tag b m.quad.2.1.toNat (n / 512 * 512) m.tagWord.1 else k.tag }
      .next (match m.err with
        | some e => s.copyRefused c m e
        | none => s.finishDone c m)
    | _ =>
      let (s, stop) : State × Option (Nat × Nat) :=
        match m.memEnds.2 with
        | none => (s, none)
        | some a => s.copyWrite c cid a n x stamp
      .next (match stop.orElse fun _ => m.err with
        | some e => s.copyRefused c m e
        | none =>
          match sumOf m.op with
          | some (crc, _) => s.sumDone c m (runSum crc m.chain (bytesWords bytes))
          | none => s.finishDone c m)

/-! ## The destination's side of a CP.LINK (R369, R383, R384) -/

/-- An acknowledgement leaves, or waits for a port (R387); one to this device comes back at an open count. -/
def State.answer (s : State) (a : Msg) : State :=
  let out := if s.routed then { s with outbox := s.outbox ++ [a] } else { s with ackHeld := s.ackHeld ++ [a] }
  match a with
  | .ack dev core id code _ =>
    if dev = s.dev then s.unbounded .amorAck ⟨Fin.ofNat 64 core, id, [code.toNat], []⟩ else out
  | .entAck dev qp ent code =>
    if dev = s.dev then s.unbounded .entryComplete (.nums [qp, ent, code.toNat, dev]) else out
  | _ => out

/-- One bit of one 32-bit word inverted (R369). -/
def invertWord (inj : Option (Nat × Nat)) (x : Nat) : Nat :=
  match inj with
  | some (row, bit) => x ^^^ 2 ^ (32 * row + bit)
  | none => x

/-- LINK_WRITE_ARRIVAL: numbers source device, CID, core, command, address, fold kind, start value,
injection present, row, bit; the data in `ev.data`. A context that is not live, or a page, refuses it (R369, R383, R384). -/
def execLinkWriteArrival (s : State) : Out :=
  let n := rlen s.ev.data
  let inj := if s.arg 7 = 1 then some (s.arg 8, s.arg 9) else none
  let x := invertWord inj (bytesNat (rlist s.ev.data)) % 2 ^ (8 * n)
  let cid := BitVec.ofNat 12 (s.arg 1)
  let core : Fin 64 := Fin.ofNat 64 (s.arg 2)
  let v0 : Word := BitVec.ofNat 32 (s.arg 6)
  let v := if s.arg 5 = 0 then 0 else runSum (s.arg 5 == 2) v0 (bytesWords (natBytes n x))
  if !s.rcidLive cid then .next (s.answer (.ack (s.arg 0) (s.arg 2) (s.arg 3) 0x51 0))
  else
    match s.engineWrite cid (s.arg 4) n x (stampOf cid core 0) with
    | (t, .inl _) => .next (t.answer (.ack (s.arg 0) (s.arg 2) (s.arg 3) 0 v))
    | (t, .inr _) => .next (t.answer (.ack (s.arg 0) (s.arg 2) (s.arg 3) 0x51 0))

/-- LINK_ACK: command `ev.id` of core `ev.core` is answered; numbers code, running value. One that comes
after the command has failed is discarded (R218, R384, R387). -/
def execLinkAck (s : State) : Out :=
  let c := s.ev.core
  match (s.core c).cmd s.ev.id with
  | none => .next s
  | some m =>
    if s.arg 0 = 0 then .next (s.sumDone c m (BitVec.ofNat 32 (s.arg 1)))
    else .next (s.finishFail c m (BitVec.ofNat 8 (s.arg 0)))

/-! ## Atomics (R177, R178) -/

/-- The operations of R177. -/
inductive AmoOp where
  | add | min | max | or | and | xchg | cas
  deriving DecidableEq, Repr

/-- The op code of an operation (R85, R178). -/
def AmoOp.code : AmoOp → Nat
  | .add => 0 | .min => 1 | .max => 2 | .or => 3 | .and => 4 | .xchg => 5 | .cas => 6

/-- Reading an op code. -/
def AmoOp.ofCode : Nat → AmoOp
  | 0 => .add | 1 => .min | 2 => .max | 3 => .or | 4 => .and | 5 => .xchg | _ => .cas

/-- The operation and size of an AMOR. -/
def amorOf : Instr → Option (AmoOp × Bool)
  | .amorAdd _ _ dw => some (.add, dw)
  | .amorMin _ _ dw => some (.min, dw)
  | .amorMax _ _ dw => some (.max, dw)
  | .amorOr _ _ dw => some (.or, dw)
  | .amorAnd _ _ dw => some (.and, dw)
  | .amorXchg _ _ dw => some (.xchg, dw)
  | .amorCas _ _ dw => some (.cas, dw)
  | _ => none

/-- The new value of `n` bytes, or none when a CAS misses (R177). -/
def AmoOp.apply (op : AmoOp) (n old x new : Nat) : Option Nat :=
  let m := 2 ^ (8 * n)
  let a := old % m
  let b := x % m
  match op with
  | .add => some ((a + b) % m)
  | .min => some (if bitsInt (8 * n) a ≤ bitsInt (8 * n) b then a else b)
  | .max => some (if bitsInt (8 * n) a ≤ bitsInt (8 * n) b then b else a)
  | .or => some (a ||| b)
  | .and => some (a &&& b)
  | .xchg => some b
  | .cas => if a = b then some (new % m) else none

/-- Bytes of an atomic (R177). -/
def amoBytes (dw : Bool) : Nat := if dw then 8 else 4

/-- One atomic at home: the result code, 0 or CAS MISS, or the page fault (R177, R383). -/
def State.atomic (s : State) (cid : BitVec 12) (op : AmoOp) (dw : Bool) (a x new : Nat) (stamp : BitVec 48) :
    State × (Nat ⊕ (Nat × Nat)) :=
  let n := amoBytes dw
  match s.enginePage cid a true with
  | (s, none, c) => (s, .inr (a, c))
  | (s, some _, _) =>
    match s.engineRead cid a n with
    | (s, .inr e) => (s, .inr e)
    | (s, .inl old) =>
      match op.apply n old x new with
      | none => (s, .inl 0x41)
      | some y =>
        match s.engineWrite cid a n y stamp with
        | (s, .inl _) => (s, .inl 0)
        | (s, .inr e) => (s, .inr e)

/-- The device an AMOR names (R178). -/
def Cmd.amorDev (m : Cmd) : Nat := auxXv m.quad.2.2.2 % 2 ^ 16

/-- An AMOR starts: it leaves for its destination, or finds no route (R178). -/
def State.amorStart (s : State) (c : Fin 64) (m : Cmd) (op : AmoOp) (dw : Bool) : State :=
  let s := s.modCore c (·.startCmd m)
  let cid := (s.core c).vis.csr.cid
  if m.amorDev = s.dev then
    (s.noteSend s.dev).unbounded .amorArrival (.nums [s.dev, cid.toNat, c.val, m.id, op.code, dw.toNat, m.quad.2.1.toNat, m.quad.1.toNat,
      m.quad.2.2.1.toNat])
  else if !s.routed then s.finishFail c m 0x50
  else
    s.send m.amorDev (.amor m.amorDev cid c m.id op.code dw m.quad.2.1.toNat m.quad.1 m.quad.2.2.1)

/-- The device whose acknowledgement a started command waits for (R387). -/
def Cmd.owes (m : Cmd) : Option Nat :=
  match m.op with
  | .cpLink _ _ | .cpLinkFold _ _ _ | .cpLinkCrc _ _ _ => some (linkDev m.quad.2.2.1)
  | _ => if (amorOf m.op).isSome then some m.amorDev else none

/-- A command of a core whose acknowledgement has not come in time (R387). -/
def State.lateCmd (s : State) (c : Fin 64) : Option Cmd :=
  (s.core c).cmds.find? fun m => m.started && m.err.isNone && m.owes.any s.overdue

/-- AMOR_ARRIVAL: numbers source device, CID, core, command, op, size, address, operand, new value. One for a context that
is not live is refused; an address past 2⁴⁸ or not aligned has no translation to grant it and is refused as well (R178, R383;
log 14). -/
def execAmorArrival (s : State) : Out :=
  let cid := BitVec.ofNat 12 (s.arg 1)
  let core : Fin 64 := Fin.ofNat 64 (s.arg 2)
  let dw := s.arg 5 == 1
  let a := s.arg 6
  let ans (t : State) (code : Nat) : State := t.answer (.ack (s.arg 0) (s.arg 2) (s.arg 3) (BitVec.ofNat 8 code) 0)
  if !s.rcidLive cid ∨ a % amoBytes dw ≠ 0 ∨ 2 ^ 48 < a + amoBytes dw then .next (ans s 0x51)
  else
    match s.atomic cid (AmoOp.ofCode (s.arg 4)) dw a (s.arg 7) (s.arg 8) (stampOf cid core 0) with
    | (t, .inl code) => .next (ans t code)
    | (t, .inr _) => .next (ans t 0x51)

/-- AMOR_ACK: command `ev.id` of core `ev.core` completes with the answer's code (R178). -/
def execAmorAck (s : State) : Out :=
  let c := s.ev.core
  match (s.core c).cmd s.ev.id with
  | none => .next s
  | some m =>
    if s.arg 0 = 0 then .next (s.finishDone c m) else .next (s.finishFail c m (BitVec.ofNat 8 (s.arg 0)))

end Sys2Proof.Machine
end

