-- ==== Sys2Proof/Machine/Collective.lean ====
section
/-!
DEFINITION. The collective engine: counters and queue pairs (R223, R327-R329), work entries (R330, R331),
reduction (R332, R333, R335), generations (R336), rank lists (R337) and the failures of R334.
-/

namespace Sys2Proof.Machine

/-! ## Counters and queue pairs -/

/-- A counter (R327). -/
def State.cnt (s : State) (n : Nat) : Cnt := srd Cnt.reset n s.cnts

/-- A counter is assigned to a context; counter 0 never is (R327). -/
def State.cntOwned (s : State) (n : Nat) (cid : BitVec 12) : Bool :=
  n != 0 && (s.cnt n).asg && (s.cnt n).cid == cid

/-- Increase a counter, modulo 2⁶⁴ (R223). -/
def State.addCnt (s : State) (n : Nat) (x : Dword) : State :=
  if n = 0 then s else { s with cnts := sset Cnt.reset n { s.cnt n with val := (s.cnt n).val + x } s.cnts }

/-- A queue pair (R327). -/
def State.qp (s : State) (q : Nat) : Qp := srd Qp.reset q s.qps

/-- Replace a queue pair. -/
def State.setQp (s : State) (q : Nat) (x : Qp) : State := { s with qps := sset Qp.reset q x s.qps }

/-- A queue pair is open to a context (R223). -/
def Qp.openTo (x : Qp) (cid : BitVec 12) : Bool := x.open_ && x.cid == cid

/-- Change one entry of a queue pair. -/
def State.modEnt (s : State) (q id : Nat) (f : Ent → Ent) : State :=
  s.setQp q { s.qp q with ents := (s.qp q).ents.map fun e => if e.id = id then f e else e }

/-- An entry leaves its slot (R328). -/
def State.dropEnt (s : State) (q id : Nat) : State :=
  s.setQp q { s.qp q with ents := (s.qp q).ents.filter (·.id != id) }

/-- An entry of a queue pair. -/
def State.ent (s : State) (q id : Nat) : Option Ent := (s.qp q).ents.find? (·.id == id)

/-! ## The fields of a work entry (R330) -/

/-- `n` bits of the doubleword at byte `o` of an entry, from bit `lo`. -/
def entField (b : BitVec 512) (o lo n : Nat) : Nat := b.toNat / 2 ^ (8 * o + lo) % 2 ^ n

def entType (b : BitVec 512) : Nat := entField b 0x00 0 8
def entOp (b : BitVec 512) : Nat := entField b 0x00 8 8
def entWire (b : BitVec 512) : Nat := entField b 0x00 16 8
def entSlot (b : BitVec 512) : Nat := entField b 0x00 24 4
def entSv (b : BitVec 512) : Bool := entField b 0x00 28 1 == 1
def entDev (b : BitVec 512) : Nat := entField b 0x00 32 16
def entSrc (b : BitVec 512) : Nat := entField b 0x08 0 48
def entDst (b : BitVec 512) : Nat := entField b 0x10 0 48
def entLen (b : BitVec 512) : Nat := entField b 0x18 0 40
def entStatus (b : BitVec 512) : Nat := entField b 0x20 0 48
def entDcnt (b : BitVec 512) : Nat := entField b 0x28 0 12
def entCcnt (b : BitVec 512) : Nat := entField b 0x30 0 12
def entChk (b : BitVec 512) : Nat := entField b 0x30 12 3
def entPkg (b : BitVec 512) : Bool := entField b 0x30 15 1 == 1
def entExpect (b : BitVec 512) : Nat := entField b 0x30 16 8
def entRlist (b : BitVec 512) : Nat := entField b 0x38 0 48

/-- Reserved bits of an entry are zero (R330). -/
def entReserved (b : BitVec 512) : Bool :=
  entField b 0x00 29 3 == 0 && entField b 0x00 48 16 == 0 && entField b 0x08 48 16 == 0
    && entField b 0x10 48 16 == 0 && entField b 0x18 40 24 == 0 && entField b 0x20 48 16 == 0
    && entField b 0x28 12 52 == 0 && entField b 0x30 24 40 == 0 && entField b 0x38 48 16 == 0

/-- Bytes of an element of a WIRE format (R330). -/
def wireBytes (w : Nat) : Nat := if w = 1 then 2 else if w = 3 then 1 else 4

/-- The format code of a WIRE format (R34). -/
def wireCode (w : Nat) : Nat := if w = 1 then 2 else if w = 2 then 14 else if w = 3 then 4 else 0

/-- The check of an entry at its firing (R330). -/
def State.entOk (s : State) (q : Qp) (b : BitVec 512) : Bool :=
  let ty := entType b
  let slotOk := entSv b || entSlot b == 0
  let putOnly := entOp b == 0 && entWire b == 0 && !entPkg b && entExpect b == 0
  let lists := (entRlist b == 0 || entDev b == 0) && entRlist b % 64 == 0
  let ccnt := entCcnt b == 0 || s.cntOwned (entCcnt b) q.cid
  entReserved b && slotOk && lists && ccnt &&
    (if ty = 1 then
      entOp b ≤ 2 && entWire b ≤ 3 && entChk b ≤ 4 && entLen b % wireBytes (entWire b) == 0
        && entStatus b != 0 && entStatus b % 8 == 0
    else if ty = 2 then putOnly && entChk b ≤ 4 && entStatus b % 8 == 0
    else if ty = 3 then
      putOnly && entChk b == 0 && entStatus b == 0 && entSrc b == 0 && entDst b == 0 && !entSv b
    else false)

/-! ## Failure and completion (R329, R334) -/

/-- An entry fails: ERR, ECODE and EIDX of its queue pair; its slot is freed (R328, R334). -/
def State.entFail (s : State) (q : Nat) (e : Ent) (code : Byte) : State :=
  ((s.dropEnt q e.id).setQp q
    { (s.dropEnt q e.id).qp q with err := true, ecode := code, eidx := e.idx }).msi (128 + q)

/-- An entry completes: its completion counter increases (R329). -/
def State.entDone (s : State) (q : Nat) (e : Ent) : State := (s.dropEnt q e.id).addCnt (entCcnt e.bits) 1

/-- ENTRY_COMPLETE: an acknowledgement of a device reaches queue pair, entry with a code; the last one completes the
entry, and a code fails it (R329, R334). -/
def execEntryComplete (s : State) : Out :=
  let q := s.arg 0
  match s.ent q (s.arg 1) with
  | none => .next s
  | some e =>
    if s.arg 2 ≠ 0 then .next (s.entFail q e (BitVec.ofNat 8 (s.arg 2)))
    else if e.acks ≤ 1 then .next (s.entDone q e)
    else .next (s.modEnt q e.id fun e => { e with acks := e.acks - 1, owed := e.owed.erase (s.arg 3) })

/-- ACK_TIMEOUT: 100 ms have passed without an acknowledgement: for command `ev.id` of core `ev.core`, or,
with first number 1, for the entry of the queue pair named after it (R178, R218, R334, R387). -/
def execAckTimeout (s : State) : Out :=
  if s.arg 0 = 1 then
    match s.ent (s.arg 1) (s.arg 2) with
    | none => .next s
    | some e => .next (s.entFail (s.arg 1) e 0x71)
  else
    match (s.core s.ev.core).cmd s.ev.id with
    | none => .next s
    | some m => .next (s.finishFail s.ev.core m 0x50)

/-! ## Firing (R329) -/

/-- An entry fires in this cycle (R329). -/
def State.fires (s : State) (e : Ent) : Bool :=
  match e.st with
  | .armed n thr since => since < s.zc && decide (thr ≤ (s.cnt n).val)
  | _ => false

/-- The entry that fires next: ascending queue pair, then ascending slot (R329). -/
def State.firing (s : State) : Option (Nat × Ent) :=
  s.qps.findSome? fun q =>
    if q.2.err || !q.2.open_ then none
    else ((List.range (2 ^ q.2.logn)).findSome? fun i => q.2.ents.find? fun e => e.idx == i && s.fires e).map fun e => (q.1, e)

/-- The cached copy of a rank list (R337). -/
def State.rankOf (s : State) (cid : BitVec 12) (a : Nat) : Option (List Nat) :=
  (s.ranks.find? fun r => r.cid == cid && r.addr == a).map (·.devs)

/-- ENTRY_FIRE: the next entry fires; its fields are checked, and it takes the copy of its rank list held now
(R329, R330, R337). -/
def execEntryFire (s : State) : Out :=
  match s.firing with
  | none => .next s
  | some (q, e) =>
    if s.entOk (s.qp q) e.bits then
      let devs :=
        if entRlist e.bits = 0 then [entDev e.bits] else (s.rankOf (s.qp q).cid (entRlist e.bits)).getD []
      .next ((s.modEnt q e.id fun e => { e with st := .fired s.nextId, devs := devs }).bump)
    else .next (s.entFail q e 0x70)

/-! ## Rank lists (R337) -/

/-- The rank lists held for entries that have fired. -/
def State.heldLists (s : State) : List (BitVec 12 × Nat) :=
  (s.qps.map fun q => (q.2.ents.filter fun e =>
    (match e.st with
      | .fired _ | .started => true
      | _ => false) && !e.devs.isEmpty && entRlist e.bits != 0).map fun e => (q.2.cid, entRlist e.bits)).flatten

/-- A fired entry of a context can start: its list is known or cached, or there is a place for it (R337). -/
def State.mayEnter (s : State) (cid : BitVec 12) (e : Ent) : Bool :=
  !e.devs.isEmpty || (s.rankOf cid (entRlist e.bits)).isSome || s.ranks.length < 64 || s.ranks.any fun r => !(s.heldLists.contains (r.cid, r.addr))

/-- The fired entry that starts next, in firing order (R329, R337). -/
def State.entryNext (s : State) : Option (Nat × Ent) :=
  let all : List (Nat × Nat × Ent) := (s.qps.map fun q => q.2.ents.filterMap fun e =>
    match e.st with
    | .fired o => if s.mayEnter q.2.cid e then some (o, q.1, e) else none
    | _ => none).flatten
  (all.foldl (fun (a : Option (Nat × Nat × Ent)) x =>
    match a with
    | none => some x
    | some y => if x.1 < y.1 then some x else a) none).map fun x => x.2

/-- Cache a rank list, in place of one that no fired entry uses when all 64 places are taken (R337). -/
def State.cacheRank (s : State) (r : Rank) : State :=
  if s.ranks.length < 64 then { s with ranks := s.ranks ++ [r] }
  else
    match s.ranks.find? fun x => !(s.heldLists.contains (x.cid, x.addr)) with
    | none => s
    | some x => { s with ranks := s.ranks.filter (· != x) ++ [r] }

/-! ## Element arithmetic (R332, R335) -/

/-- An element as the engine combines it: FP32 bits, or a CP32 pair (R332). -/
def wireIn (w bits : Nat) : Nat × Flags := if w = 2 then (bits, 0) else convert (wireCode w) 0 bits

/-- An element rounded to WIRE (R332, R41, R42). -/
def wireOut (w bits : Nat) : Nat × Flags := if w = 2 then convert 14 14 bits else convert 0 (wireCode w) bits

/-- One combination of two elements (R332). -/
def combine (op w a b : Nat) : Nat × Flags :=
  if op = 0 then
    if w = 2 then
      let (v, f) := FV.sum [(cpHalves a).1, (cpHalves a).2, (cpHalves b).1, (cpHalves b).2]
      let (r, g) := rne32 v
      let (p, h) := cpSplit (fp32.decode r)
      (p, f ||| g ||| h)
    else add32 a b
  else
    let (x, f) := readElemF (if w = 2 then 14 else 0) a
    let (y, g) := readElemF (if w = 2 then 14 else 0) b
    if x.isNan || y.isNan then (if w = 2 then cpNan else fp32.nanBits, f ||| g)
    else if FV.ltZ x y == (op == 2) then (a, 0) else (b, 0)

/-- Combine two rows of elements. -/
def combineAll (op w : Nat) (a b : List Nat) : List Nat × Flags :=
  let r := List.zipWith (combine op w) a b
  (r.map (·.1), r.foldl (fun f x => f ||| x.2) 0)

/-- Elements of `n` bytes each in a number of `len` bytes. -/
def elemsOf (n len x : Nat) : List Nat := (List.range (len / n)).map fun i => x / 2 ^ (8 * n * i) % 2 ^ (8 * n)

/-- Bytes of elements of `n` bytes each. -/
def elemBytes (n : Nat) (es : List Nat) : List Byte := (es.map (natBytes n)).flatten

/-- A chunk's elements before sending: in WIRE, or in FP32 with ESC when a rounding would overflow
(R332): data, ESC, flags. -/
def sendForm (w : Nat) (es : List Nat) (f : Flags) : List Byte × Bool × Flags :=
  let r := es.map (wireOut w)
  let g := r.foldl (fun f x => f ||| x.2) 0
  if w != 2 && g &&& flOF != 0 then (elemBytes 4 es, true, f)
  else (elemBytes (wireBytes w) (r.map (·.1)), false, f ||| g)

/-! ## Starting an entry (R331, R332) -/

/-- Chunk size (R330). -/
def entChunk (b : BitVec 512) : Nat := 4096 * 2 ^ entChk b

/-- Read `n` bytes of the source, or of its four parts combined (R332). -/
def State.entRead (s : State) (cid : BitVec 12) (b : BitVec 512) (lo n : Nat) :
    State × ((List Byte × Bool × Flags) ⊕ (Nat × Nat)) :=
  if entType b = 2 then
    match s.engineRead cid (entSrc b + lo) n with
    | (s, .inl x) => (s, .inl (natBytes n x, false, 0))
    | (s, .inr e) => (s, .inr e)
  else
    let w := entWire b
    let parts := if entPkg b then 4 else 1
    let r := (List.range parts).foldl
      (fun (acc : State × ((List Nat × Flags) ⊕ (Nat × Nat))) j =>
        match acc with
        | (s, .inr e) => (s, .inr e)
        | (s, .inl (es, f)) =>
          match s.engineRead cid (entSrc b + j * entLen b + lo) n with
          | (s, .inr e) => (s, .inr e)
          | (s, .inl x) =>
            let ins := (elemsOf (wireBytes w) n x).map (wireIn w)
            let ys := ins.map (·.1)
            let g := ins.foldl (fun f y => f ||| y.2) f
            if j = 0 then (s, .inl (ys, g))
            else
              let (zs, h) := combineAll (entOp b) w es ys
              (s, .inl (zs, g ||| h))) (s, .inl ([], 0))
    match r with
    | (s, .inr e) => (s, .inr e)
    | (s, .inl (es, f)) => (s, .inl (sendForm w es f))

/-- Numbers of a chunk as a CHUNK_ARRIVAL step carries them. -/
def Chunk.ev (c : Chunk) : Ev :=
  ⟨0, 0, [c.src, c.qp, c.ent, c.rcid.toNat, c.put.toNat, c.op, c.wire, c.dst, c.status, c.dcnt, c.expect, c.gv.toNat,
    c.gen.toNat, c.esc.toNat, c.flags.toNat], c.data⟩

/-- The chunk of a CHUNK_ARRIVAL step. -/
def Chunk.ofEv (e : Ev) : Chunk :=
  let a (i : Nat) : Nat := e.args.getD i 0
  ⟨a 0, a 1, a 2, BitVec.ofNat 12 (a 3), a 4 == 1, a 5, a 6, a 7, a 8, a 9, a 10, a 11 == 1, BitVec.ofNat 16 (a 12),
    a 13 == 1, BitVec.ofNat 5 (a 14), e.data⟩

/-- A chunk leaves for a device; to this device it arrives at an open count (R286). -/
def State.sendChunk (s : State) (dev : Nat) (c : Chunk) : State :=
  if dev = s.dev then (s.noteSend dev).unbounded .chunkArrival c.ev else s.send dev (.chunk dev c)

/-- The chunks of an entry are read and sent in order; a refused source page stops it (R331). -/
def State.sendChunks (s : State) (q : Nat) (e : Ent) (devs : List Nat) : State × Option (Nat × Nat) :=
  let b := e.bits
  let qp := s.qp q
  let size := entChunk b
  let slot := entSlot b
  (List.range ((entLen b + size - 1) / size)).foldl
    (fun (acc : State × Option (Nat × Nat)) i =>
      match acc with
      | (s, some x) => (s, some x)
      | (s, none) =>
        let n := min (entLen b - i * size) size
        match s.entRead qp.cid b (i * size) n with
        | (s, .inr x) => (s, some x)
        | (s, .inl (data, esc, f)) =>
          let c : Chunk :=
            ⟨s.dev, q, e.id, qp.rcid, entType b == 2, entOp b, entWire b, entDst b + i * size,
              if entStatus b = 0 then 0 else entStatus b + 8 * i, entDcnt b, entExpect b, entSv b,
              BitVec.ofNat 16 (e.gens.getD slot 0), esc, f, rof data⟩
          (devs.foldl (fun s d => s.sendChunk d c) s, none)) (s, none)

/-- An entry with its device list known starts (R331). -/
def State.entLaunch (s : State) (q : Nat) (e : Ent) (devs : List Nat) : State :=
  let b := e.bits
  let away := devs.any (· != s.dev)
  if entType b ≠ 3 ∧ entLen b = 0 then s.entDone q e
  else if away && !s.routed then s.entFail q e 0x71
  else
    let chunks := if entType b = 3 then 1 else (entLen b + entChunk b - 1) / entChunk b
    let s := s.modEnt q e.id fun x => { x with
      st := .started, devs := devs, acks := chunks * devs.length, owed := (List.replicate chunks devs).flatten }
    if entType b = 3 then
      devs.foldl
        (fun s d =>
          if d = s.dev then
            (s.noteSend d).unbounded .signalArrival (.nums [s.dev, q, e.id, (s.qp q).rcid.toNat, entDcnt b, entLen b])
          else s.send d (.signal d s.dev q e.id (s.qp q).rcid (entDcnt b) (entLen b))) s
    else
      match s.sendChunks q e devs with
      | (s, none) => s
      | (s, some (a, cause)) => (s.dropEnt q e.id).accessEndIn (s.qp q).cid e.core .w 13 e.pc a cause

/-- An entry whose acknowledgements have not come in time (R387). -/
def State.lateEnt (s : State) : Option (Nat × Ent) :=
  s.qps.findSome? fun q => (q.2.ents.find? fun e => e.st == .started && e.owed.any s.overdue).map fun e => (q.1, e)

/-- ENTRY_START: the next fired entry starts once its rank list is cached (R329, R331, R337). -/
def execEntryStart (s : State) : Out :=
  match s.entryNext with
  | none => .next s
  | some (q, e) =>
    if e.devs.isEmpty then
      let cid := (s.qp q).cid
      let a := entRlist e.bits
      match s.rankOf cid a with
      | some devs => .next (s.entLaunch q e devs)
      | none =>
        match s.readRanks cid a with
        | (s, some devs, _) => .next ((s.cacheRank ⟨cid, a, devs⟩).entLaunch q { e with devs := devs } devs)
        | (s, none, none) => .next (s.entFail q e 0x70)
        | (s, none, some x) => .next ((s.dropEnt q e.id).accessEndIn cid e.core .w 13 e.pc x.1 x.2)
    else .next (s.entLaunch q e e.devs)

/-! ## Arrivals (R331-R336) -/

/-- DCNT may be increased there (R330). -/
def State.dcntOk (s : State) (n : Nat) (cid : BitVec 12) : Bool := n == 0 || s.cntOwned n cid

/-- Every page of a range may be written (R334). -/
def State.mayWrite (s : State) (cid : BitVec 12) (a n : Nat) : State × Bool :=
  (pagesOf a n).foldl
    (fun (acc : State × Bool) p =>
      match acc.1.enginePage cid (p * 2 ^ 21) true with
      | (s, some _, _) => (s, acc.2)
      | (s, none, _) => (s, false)) (s, a + n ≤ 2 ^ 48)

/-- The answer to a chunk. -/
def State.answerChunk (s : State) (c : Chunk) (code : Byte) : State := s.answer (.entAck c.src c.qp c.ent code)

/-- The contributions with their elements in working form (R332, R333). -/
def Chunk.elems (c : Chunk) : List Nat × Flags :=
  let n := rlen c.data
  let x := bytesNat (rlist c.data)
  if c.esc then (elemsOf 4 n x, c.flags)
  else
    let ins := (elemsOf (wireBytes c.wire) n x).map (wireIn c.wire)
    (ins.map (·.1), ins.foldl (fun f y => f ||| y.2) c.flags)

/-- The status word after a combination (R335). -/
def statusAfter (old : Nat) (flags : Flags) (esc gv : Bool) (gen : BitVec 16) (n : Nat) : Nat :=
  let count := old / 2 ^ 32 % 2 ^ 16
  let fl := (BitVec.ofNat 5 old ||| flags).toNat
  let es := if old / 2 ^ 5 % 2 = 1 ∨ esc then 1 else 0
  let tag := if count = 0 then gv.toNat * 2 ^ 6 + gen.toNat * 2 ^ 8 else old / 2 ^ 6 % 2 * 2 ^ 6 + old / 2 ^ 8 % 2 ^ 16 * 2 ^ 8
  fl + es * 2 ^ 5 + tag + (count + n) % 2 ^ 16 * 2 ^ 32

/-- A PUTRED's contributions are combined into DST in order, the status word written and the counter
increased (R286, R333, R335). -/
def State.reduceInto (s : State) (parts : List Chunk) : State :=
  match parts with
  | [] => s
  | c :: _ =>
    let w := c.wire
    let stamp := stampOf c.rcid 0 0
    let count := (c.elems.1).length
    let n := count * wireBytes w
    match s.engineRead c.rcid c.dst n with
    | (s, .inr _) => s
    | (s, .inl x) =>
      let ins := (elemsOf (wireBytes w) n x).map (wireIn w)
      let f0 := ins.foldl (fun f y => f ||| y.2) 0
      let (es, f) := parts.foldl
        (fun (acc : List Nat × Flags) p =>
          let (ys, g) := p.elems
          let (zs, h) := combineAll p.op w acc.1 ys
          (zs, acc.2 ||| g ||| h)) (ins.map (·.1), f0)
      let out := es.map (wireOut w)
      let f := out.foldl (fun f y => f ||| y.2) f
      let (s, _) := s.engineWrite c.rcid c.dst n (bytesNat (elemBytes (wireBytes w) (out.map (·.1)))) stamp
      match s.engineRead c.rcid c.status 8 with
      | (s, .inr _) => s
      | (s, .inl old) =>
        let word := statusAfter old f (parts.any (·.esc)) c.gv c.gen parts.length
        let (s, _) := s.engineWrite c.rcid c.status 8 word stamp
        s.addCnt c.dcnt (BitVec.ofNat 64 parts.length)

/-- The generation check of an arriving PUTRED chunk against a status word and the chunks held with it
(R336). -/
def genOk (c : Chunk) (status : Nat) (held : List Chunk) : Bool :=
  (status / 2 ^ 32 % 2 ^ 16 == 0
      || (status / 2 ^ 6 % 2 == c.gv.toNat && status / 2 ^ 8 % 2 ^ 16 == c.gen.toNat))
    && held.all fun h => h.gv == c.gv && h.gen == c.gen

/-- Insert a contribution in ascending source device, after those of the same device (R333). -/
def insertPart (c : Chunk) : List Chunk → List Chunk
  | [] => [c]
  | x :: r => if x.src ≤ c.src then x :: insertPart c r else c :: x :: r

/-- CHUNK_ARRIVAL (R331-R336). -/
def execChunkArrival (s : State) : Out :=
  let c := Chunk.ofEv s.ev
  let n := if c.esc then rlen c.data / 4 * wireBytes c.wire else rlen c.data
  let stamp := stampOf c.rcid 0 0
  if !s.rcidLive c.rcid || !s.dcntOk c.dcnt c.rcid then .next (s.answerChunk c 0x72)
  else
    match s.mayWrite c.rcid c.dst n with
    | (s, false) => .next (s.answerChunk c 0x72)
    | (s, true) =>
      match (if c.status = 0 then (s, true) else s.mayWrite c.rcid c.status 8) with
      | (s, false) => .next (s.answerChunk c 0x72)
      | (s, true) =>
        if c.put then
          let (s, _) := s.engineWrite c.rcid c.dst n (bytesNat (rlist c.data)) stamp
          let s :=
            if c.status = 0 then s
            else (s.engineWrite c.rcid c.status 8 (statusAfter 0 0 false c.gv c.gen 1) stamp).1
          .next ((s.addCnt c.dcnt 1).answerChunk c 0)
        else
          match s.engineRead c.rcid c.status 8 with
          | (s, .inr _) => .next (s.answerChunk c 0x72)
          | (s, .inl status) =>
            let same (h : Held) : Bool := h.rcid == c.rcid && h.dst == c.dst
            let held := ((s.helds.find? same).map (·.parts)).getD []
            if !genOk c status held then
              .next ((s.answerChunk c 0x73).endFor 64 c.rcid ⟨causeGen, 0, .c, 13, 0xFFFF, c.dst⟩ (homeDie c.dst))
            else if c.expect = 0 then .next ((s.reduceInto [c]).answerChunk c 0)
            else if held.isEmpty && 256 ≤ s.helds.length then .next (s.at_ (s.zc + 1) .chunkArrival s.ev)
            else
              let parts := insertPart c held
              let rest := s.helds.filter fun h => !same h
              if parts.length < c.expect then .next { s with helds := rest ++ [⟨c.rcid, c.dst, parts⟩] }
              else
                let s := { s with helds := rest }.reduceInto parts
                .next (parts.foldl (fun s p => s.answerChunk p 0) s)

/-- SIGNAL_ARRIVAL: numbers source device, queue pair, entry, RCID, DCNT, addend (R331, R334). -/
def execSignalArrival (s : State) : Out :=
  let cid := BitVec.ofNat 12 (s.arg 3)
  let ok := s.rcidLive cid && s.dcntOk (s.arg 4) cid
  let t := if ok then s.addCnt (s.arg 4) (BitVec.ofNat 64 (s.arg 5)) else s
  .next (t.answer (.entAck (s.arg 0) (s.arg 1) (s.arg 2) (if ok then 0 else 0x72)))

/-! ## The commands of R223 at their starts -/

/-- CQ.POST reads its entry from home and copies it into the slot at the tail of the queue, whose base QPBASE gives; a slot that
refuses the write stops it as the entry's page does (R223, R327, R328; log 77). DESIGN CHOICE (log 112): 0x61 comes before 0x60
and that before 0x10. -/
def State.cqPost (s : State) (c : Fin 64) (m : Cmd) : State :=
  let cid := (s.core c).vis.csr.cid
  let q := m.quad.2.1.toNat
  let x := s.qp q
  if !x.openTo cid then s.finishFail c m 0x61
  else if x.ents.any (·.idx == x.tail) then s.finishFail c m 0x60
  else
    match s.engineRead cid m.quad.1.toNat 64 with
    | (s, .inr e) => s.copyRefused c m e
    | (s, .inl b) =>
      match s.engineWrite cid (x.base.toNat + 64 * x.tail) 64 b (stampOf cid c (s.core c).seqs[(3 : Fin 15)]) with
      | (s, .inr e) => s.copyRefused c m e
      | (s, .inl _) =>
        let e : Ent := ⟨m.id, x.tail, BitVec.ofNat 512 b, .posted, [], 0, [], m.args, c, m.pc⟩
        (s.setQp q { x with ents := x.ents ++ [e], tail := (x.tail + 1) % 2 ^ x.logn }).finishDone c m

/-- CQ_POST_APPENDED: command `ev.id` of core `ev.core` (R223, R328). -/
def execCqPostAppended (s : State) : Out :=
  match (s.core s.ev.core).cmd s.ev.id with
  | none => .next s
  | some m => .next (s.cqPost s.ev.core m)

/-- CQ.ARM arms a posted entry on a counter (R223, R329). DESIGN CHOICE (log 112): 0x61 comes before 0x62. -/
def State.cqArm (s : State) (c : Fin 64) (m : Cmd) : State :=
  let cid := (s.core c).vis.csr.cid
  let q := m.quad.1.toNat
  let n := m.quad.2.2.1.toNat
  let e := (s.qp q).ents.find? fun e => e.idx == m.quad.2.1.toNat && e.st == .posted
  match e with
  | none => s.finishFail c m 0x61
  | some e =>
    if !(s.qp q).openTo cid then s.finishFail c m 0x61
    else if !s.cntOwned n cid then s.finishFail c m 0x62
    else (s.modEnt q e.id fun e => { e with st := .armed n (BitVec.ofNat 64 m.xv) s.zc }).finishDone c m

/-- A CNT.WAIT that has started finds its counter at its threshold (R223). -/
def State.cntReached (s : State) (m : Cmd) : Bool :=
  match m.op with
  | .cntWait _ _ => m.started && decide (m.quad.2.2.1 ≤ (s.cnt m.quad.1.toNat).val)
  | _ => false

/-- The CNT.WAIT of a core whose threshold is reached. -/
def State.cntReady (s : State) (c : Fin 64) : Option Cmd := (s.core c).cmds.find? s.cntReached

/-- CNT_WAIT_REACHED: a counter is at the threshold of a CNT.WAIT of core `ev.core` (R223). -/
def execCntWaitReached (s : State) : Out :=
  let c := s.ev.core
  match s.cntReady c with
  | none => .next s
  | some m => .next (s.finishDone c m)

/-- A collective or counter command starts (R223). -/
def State.collStart (s : State) (c : Fin 64) (m : Cmd) : State :=
  let cid := (s.core c).vis.csr.cid
  let n := m.quad.1.toNat
  let s := s.modCore c (·.startCmd m)
  match m.op with
  | .cqPost _ _ => s.unbounded .cqPostAppended (.of c m.id)
  | .cqArm _ _ => s.cqArm c m
  | .cntAdd _ _ =>
    if s.cntOwned n cid then (s.addCnt n m.quad.2.2.1).finishDone c m else s.finishFail c m 0x62
  | .cntWait _ _ => if s.cntOwned n cid then s else s.finishFail c m 0x62
  | _ =>
    { s with ranks := s.ranks.filter fun r => !(r.cid == cid && r.addr == n) }.finishDone c m

end Sys2Proof.Machine
end

