-- ==== Sys2Proof/Machine/Errors.lean ====
section
/-!
DEFINITION. Correctable and uncorrectable errors and their records (R365-R368).
-/

namespace Sys2Proof.Machine

/-- CECNT of a die rises by one and saturates (R366). -/
def State.correctable (s : State) (die : Fin 8) : State :=
  let n := s.regs.cecnt[die]
  { s with regs := { s.regs with cecnt := s.regs.cecnt.set die (if n = BitVec.allOnes 32 then n else n + 1) } }

/-- An error record; VA is the address of the line that holds `va` (R368). -/
def State.errRecord (s : State) (store : Nat) (die : Fin 8) (cid : BitVec 12) (core index va : Nat) : State :=
  let n := s.regs.errhead
  let d0 := store % 256 + die.val * 2 ^ 8 + cid.toNat * 2 ^ 11 + core % 64 * 2 ^ 23 + index % 2 ^ 32 * 2 ^ 32
  let w (x : Nat) : Dword := BitVec.ofNat 64 x
  let e := (w d0, w (va % 2 ^ 48 / 128 * 128), w s.zc, n.zeroExtend 64)
  ({ s with regs := { s.regs with
      errrec := s.regs.errrec.set (n.toNat % 16) e (Nat.mod_lt _ (by decide))
      errhead := n + 1 } }).msi 1

/-- An uncorrectable error that ends a context: the two records and the end (R367). -/
def State.uncorrectable (s : State) (store : Nat) (die : Fin 8) (cid : Option (BitVec 12)) (core index va : Nat) : State :=
  let s := s.errRecord store die (cid.getD 0) core index va
  let s := s.record ⟨7, store, cid.getD 0, core % 64, 0, die.val, 0, false, va, 0, 0, 0, false, 0⟩
  match cid with
  | some c => s.endCtx c 0x26 die
  | none => s

/-- The context running on a core. -/
def State.running (s : State) (c : Fin 64) : Option (BitVec 12) :=
  if (s.core c).st = .idle ∨ (s.core c).st = .taken then none else some (s.core c).vis.csr.cid

/-- A permission or translation entry with a parity error is dropped; the next use walks again: of a core on a Zenith
die, of a context on a Cumulus die (R365). -/
def State.dropParity (s : State) (die : Fin 8) (core : Fin 64) (cid : BitVec 12) (page : Nat) : State :=
  let keep (ps : List Plb) : List Plb := ps.filter fun p => !(if p.big then p.page / 512 == page / 512 else p.page == page)
  if die.val < 2 then s.modCore core fun k => { k with plb := keep k.plb, splb := vmap keep k.splb }
  else
    (List.finRange 4).foldl
      (fun s d => if d.val + 2 = die.val then s.modMtu d fun m => { m with tc := m.tc.filter fun e => !e.covers cid page }
        else s) s

/-- A pending load, tile transfer, store, vector result, matrix command or command that carries data in error delivers it
nowhere (R367). -/
def Core.withhold (k : Core) (id : Nat) : Core :=
  { k with
    loads := k.loads.filter (·.id != id)
    stts := k.stts.filter (·.id != id)
    ustores := k.ustores.filter (·.id != id)
    xpend := k.xpend.filter (·.id != id)
    laccs := k.laccs.filter (·.id != id)
    shape := vmap (fun g => { g with queue := g.queue.filter (·.id != id) }) k.shape
    cmds := k.cmds.filter (·.id != id)
    syncs := k.syncs.filter (·.id != id) }

/-- An entry of a queue pair that carries data in error sends nothing more (R367). -/
def State.withholdEnt (s : State) (qp id : Nat) : State :=
  { s with qps := s.qps.map fun x => if x.1 = qp then (x.1, { x.2 with ents := x.2.ents.filter (·.id != id) }) else x }

/-- Two numbers stand as a pair in a list of pairs. -/
def isPair (a b : Nat) : List Nat → Bool
  | x :: y :: r => (x == a && y == b) || isPair a b r
  | _ => false

/-- CORRECTABLE_ERROR: number the die that repairs it; of a Cumulus die then, for the pending requests that the repaired GDDR-7
channel serves, the core and the identifier of each: those have no bound (R240). No other timing changes (R366). -/
def execCorrectableError (s : State) : Out :=
  let die : Fin 8 := Fin.ofNat 8 (s.arg 0)
  let t := s.correctable die
  .next (if 2 ≤ die.val ∧ die.val ≤ 5 then t.loosen fun x => isPair x.ev.core.val x.ev.id (s.ev.args.drop 1) else t)

/-- UNCORRECTABLE_ERROR: numbers store code, die, core, index, line address, and the CID a tag, queue pair, counter or access
names, with 1 added, or 0 for none; then what carries the data in error: a pending item of the core, with 1 added, or 0, and a
queue pair, with 1 added, or 0, with an entry of it. Instruction memory, vector registers, tile and basis stores, and loop and
token state, the other control state of a core, end the context running on it (R365, R367). -/
def execUncorrectableError (s : State) : Out :=
  let store := s.arg 0
  let core : Fin 64 := Fin.ofNat 64 (s.arg 2)
  let named : Option (BitVec 12) := if s.arg 5 = 0 then none else some (BitVec.ofNat 12 (s.arg 5 - 1))
  let cid :=
    if store = 1 ∨ store = 2 ∨ store = 6 ∨ store = 7 ∨ store = 11 then s.running core
    else if store = 8 then none
    else named
  let die := Fin.ofNat 8 (s.arg 1)
  let s := if s.arg 6 = 0 then s else s.modCore core (·.withhold (s.arg 6 - 1))
  let s := if s.arg 7 = 0 then s else s.withholdEnt (s.arg 7 - 1) (s.arg 8)
  let s := if store = 8 then s.dropParity die core (named.getD 0) (s.arg 4 / 2 ^ 21) else s
  .next (s.uncorrectable store die cid (if store ≤ 7 then core.val else 0) (s.arg 3) (s.arg 4))

end Sys2Proof.Machine
end

