-- ==== Sys2Proof/Machine/Shape.lean ====
section
/-!
DEFINITION. Shapes: allocation and reshaping of cells (R181-R186, R250-R254, R259-R261), SHAPE.QRY and the
writes of command blocks (R187-R189).
-/

namespace Sys2Proof.Machine

/-! ## Cells (R250) -/

/-- The cells of a rectangle. -/
def rectCells (top left d w : Nat) : List Nat :=
  ((List.range d).map fun r => (List.range w).map fun x => 8 * (top + r) + (left + x)).flatten

/-- A rectangle lies within the grid. -/
def rectFits (top left d w : Nat) : Bool := top + d ≤ 8 && left + w ≤ 8

/-- A rectangle's cells are all free. -/
def rectFree (cells : Sparse (Fin 64 × Fin 8)) (top left d w : Nat) : Bool :=
  rectFits top left d w && (rectCells top left d w).all fun n => (sget n cells).isNone

/-- The origins in ascending order of top row and then left column. -/
def origins : List (Nat × Nat) := ((List.range 8).map fun r => (List.range 8).map fun x => (r, x)).flatten

/-- The fields of a geometry word: d, w, hint (R181). -/
def geoD (x : Dword) : Nat := x.toNat % 8 + 1
def geoW (x : Dword) : Nat := x.toNat / 8 % 8 + 1
def geoRow (x : Dword) : Nat := x.toNat / 2 ^ 6 % 8
def geoCol (x : Dword) : Nat := x.toNat / 2 ^ 9 % 8
def geoHint (x : Dword) : Bool := x.getLsbD 12

/-- The first free rectangle in the order of R181. -/
def findRect (cells : Sparse (Fin 64 × Fin 8)) (x : Dword) : Option (Nat × Nat) :=
  let d := geoD x
  let w := geoW x
  let hint := if geoHint x then [(geoRow x, geoCol x)] else []
  let even := origins.filter fun o => o.2 % 2 == 0
  let odd := origins.filter fun o => o.2 % 2 == 1
  (hint ++ even ++ odd).find? fun o => rectFree cells o.1 o.2 d w

/-- The cells of a shape. -/
def Shape.cells (g : Shape) : List Nat := rectCells g.top g.left g.d g.w

/-- Cells become owned by a handle of a core. -/
def State.own (s : State) (c : Fin 64) (h : Fin 8) (ns : List Nat) : State :=
  let i := cumIdx c
  { s with cells := s.cells.set i (ns.foldl (fun m n => sput n (c, h) m) s.cells[i]) }

/-- Change the die's side of a handle. -/
def Core.modShape (k : Core) (h : Fin 8) (f : Shape → Shape) : Core := { k with shape := k.shape.set h (f k.shape[h]) }

/-- The core's record of a handle takes a state; a frozen one keeps it for the return (R261, R321, R322). -/
def Core.setRecord (k : Core) (h : Fin 8) (x : ShSt) : Core :=
  if k.vis.sh[h] = .frozen then { k with shadow := k.shadow.map fun g => { g with sh := g.sh.set h x } }
  else k.modVis fun v => { v with sh := v.sh.set h x }

/-! ## Times (R237, R259, R260) -/

/-- The Zenith 0 count at which what a core sends now reaches its Cumulus die's queues (R237). -/
def State.arrivalAt (s : State) (c : Fin 64) : Nat := s.zc + s.lat (zenithOf c) (cumulusOf c) + 4

/-- The Zenith 0 count at which a report that leaves the core's Cumulus die now reaches its Zenith die. -/
def State.reportAt (s : State) (c : Fin 64) : Nat := s.zc + s.lat (cumulusOf c) (zenithOf c)

/-- The Zenith 0 count of a local count of the core's Cumulus die, in the turn of the 64-bit count in which a command sent
now arrives there (R228-R230, R237; log 81). -/
def State.cumEvent (s : State) (c : Fin 64) (x : Nat) : Nat :=
  (s.arrivalAt c - s.lat 0 (cumulusOf c)) / 2 ^ 64 * 2 ^ 64 + x + s.lat 0 (cumulusOf c)

/-! ## The words of C -/

/-- SHAPE.ALLOC (R181): the request is served in arrival order, one every 2 cycles (R259). -/
def execShapeAlloc (k a : Fin 64) (h : Fin 8) (s : State) : Out :=
  let g := s.rg a
  if 2 ^ 13 ≤ g.toNat ∨ s.me.old.sh[h] ≠ .free ∨ (s.tok k).st = .pending then .next s.illegal
  else
    .next (s.issued fun t =>
      let c := t.turn.core
      let i := cumIdx c
      let x := max (t.arrivalAt c) t.allocAt[i]
      let m := { t.newCmd (.shapeAlloc k a h) k [g.toNat] with started := true }
      let t := (t.modMe fun q => (q.pend k).setRecord h .allocating).addCmd m
      { t with allocAt := t.allocAt.set i (x + 2) }.first x .allocatorServe (.of c m.id))

/-- A reshape issues (R182): every handle named becomes DRAINING, and C holds for the drain report. -/
def reshapeWord (op : Instr) (k : Fin 64) (hs : List (Fin 8)) (args : List Nat) (s : State) : Out :=
  .next (s.issued fun t =>
    let c := t.turn.core
    let m := { t.newCmd op k args with started := true, at_ := t.arrivalAt c }
    let t := (t.modMe fun q => hs.foldl (fun q h => q.setRecord h .draining) (q.pend k)).addCmd m
    (t.holds (.reshape m.id)).at_ m.at_ .drainPoint (.of c m.id))

/-- SHAPE.FREE (R182). -/
def execShapeFree (k : Fin 64) (h : Fin 8) (s : State) : Out :=
  if (s.tok k).st = .pending ∨ s.me.old.sh[h] ≠ .live then .next s.illegal
  else reshapeWord (.shapeFree k h) k [h] [] s

/-- SHAPE.CUT (R182, R183). -/
def execShapeCut (k a : Fin 64) (j h : Fin 8) (s : State) : Out :=
  let b := (s.rg a).toNat
  let axis := b % 2
  let pos := b / 2 % 8
  let g := s.me.shape[h]
  let limit := if axis = 0 then g.d else g.w
  if (s.tok k).st = .pending ∨ s.me.old.sh[h] ≠ .live ∨ s.me.old.sh[j] ≠ .free ∨ h = j ∨ 16 ≤ b ∨ pos = 0 ∨ limit ≤ pos then
    .next s.illegal
  else reshapeWord (.shapeCut k a j h) k [h, j] [axis, pos] s

/-- The union of two shapes that share one whole edge (R184): top, left, d, w. -/
def joinRect (a b : Shape) : Option (Nat × Nat × Nat × Nat) :=
  if a.left = b.left ∧ a.w = b.w ∧ (a.top + a.d = b.top ∨ b.top + b.d = a.top) then
    some (min a.top b.top, a.left, a.d + b.d, a.w)
  else if a.top = b.top ∧ a.d = b.d ∧ (a.left + a.w = b.left ∨ b.left + b.w = a.left) then
    some (a.top, min a.left b.left, a.d, a.w + b.w)
  else none

/-- SHAPE.CHAIN (R182, R184). -/
def execShapeChain (k : Fin 64) (j h : Fin 8) (s : State) : Out :=
  if (s.tok k).st = .pending ∨ s.me.old.sh[h] ≠ .live ∨ s.me.old.sh[j] ≠ .live ∨ h = j
      ∨ (joinRect s.me.shape[h] s.me.shape[j]).isNone then .next s.illegal
  else reshapeWord (.shapeChain k j h) k [h, j] [] s

/-- The code of a handle state (R185). -/
def ShSt.code : ShSt → Nat
  | .free => 0 | .allocating => 1 | .live => 2 | .draining => 3 | .frozen => 4

/-- The PAIR field (R185, R262). -/
def State.pairCode (s : State) (c : Fin 64) (h : Fin 8) : Nat :=
  let owners := (s.core c).shape[h].cells.map fun n => sget (n ^^^ 1) s.cells[(cumIdx c)]
  if owners.any fun o => o.isSome && o != some (c, h) then 2 else if owners.any (·.isNone) then 1 else 0

/-- The word of SHAPE.QRY (R185). -/
def State.shapeWord (s : State) (c : Fin 64) (h : Fin 8) : Dword :=
  let cells := s.cells[(cumIdx c)]
  let pairs := ((List.range 32).filter fun p => (sget (2 * p) cells).isNone && (sget (2 * p + 1) cells).isNone).length
  let g := (s.core c).shape[h]
  let st := (s.core c).old.sh[h]
  let geo : Nat :=
    if st = .free ∨ st = .allocating then 0
    else g.top * 2 ^ 20 + g.left * 2 ^ 23 + (g.d - 1) * 2 ^ 26 + (g.w - 1) * 2 ^ 29 + s.pairCode c h * 2 ^ 37
  BitVec.ofNat 64 (64 - cells.length + pairs * 2 ^ 8 + st.code * 2 ^ 16 + geo + g.queue.length * 2 ^ 32)

/-- SHAPE.QRY: the word as it stands now lands 8 cycles after issue (R93, R185). -/
def execShapeQry (d : Fin 64) (h : Fin 8) (s : State) : Out := aluLater d (s.shapeWord s.turn.core h) 8 s

/-! ## Command blocks (R187-R189) -/

/-- The rule of R189 that a doubleword breaks, as its CODE; `dx` tells a DX entry of the column it names.
Where it breaks several, the first of the table. -/
def cbRule (d : Fin 8) (x : Dword) (fmt : Fin 8 → Word) : Option Byte :=
  let b : Vector Dword 8 := (Vector.replicate 8 0).set d x
  let mask : Dword := match d with
    | 0 => 0x7FFF07FF001FFFFF
    | 1 => 0x00FFFFFFFF3FFFFF
    | 2 => 0x00FFFFFFFF7FFFFF
    | 3 => 0xFFFFFFFF003FFFFF
    | 7 => 0x00000000000000FF
    | _ => 0xFFFFFFFFFFFFFFFF
  let range (x lo hi : Nat) : Bool := lo ≤ x && x ≤ hi
  let pitchOk (p : Nat) : Bool := p % 64 == 0 && range p 64 65472
  if x &&& ~~~mask ≠ 0 then some 0x01
  else
    match d with
    | 0 =>
      if !(range (cbM b) 1 1048576 && range (cbK b) 1 1024 && range (cbN b) 1 1024) then some 0x02
      else if isDx (ftEfmt (fmt (cbFcol b))) && cbK b % 32 != 0 then some 0x06
      else none
    | 1 => if cbAbg b = 1 ∨ cbAoff b % 64 ≠ 0 ∨ !pitchOk (cbApitch b) then some 0x03 else none
    | 2 => if cbBbg b = 0 ∨ cbBoff b % 64 ≠ 0 ∨ !pitchOk (cbBpitch b) then some 0x04 else none
    | 3 => if 11 < cbAtile b ∨ 11 < cbPtile b ∨ 11 < cbStile b then some 0x05 else none
    | _ => none

/-- CBSET (R187, R189). -/
def execCbset (cb : Fin 16) (a : Fin 64) (d : Fin 8) (s : State) : Out :=
  match cbRule d (s.rg a) s.ftEntry with
  | some code => .next (s.raise causeState code)
  | none =>
    .next (s.issued fun t => t.modMe fun k => k.modVis fun v => { v with cb := v.cb.set cb (v.cb[cb].set d (s.rg a)) })

/-- CBCLR (R187). -/
def execCbclr (cb : Fin 16) (s : State) : Out :=
  .next (s.issued fun t => t.modMe fun k => k.modVis fun v => { v with cb := v.cb.set cb (Vector.replicate 8 0) })

/-! ## Events -/

/-- ALLOCATOR_SERVE: the SHAPE.ALLOC `ev.id` of core `ev.core` (R181, R259). -/
def execAllocatorServe (s : State) : Out :=
  let c := s.ev.core
  match (s.core c).cmd s.ev.id with
  | none => .next s
  | some m =>
    match m.op with
    | .shapeAlloc _ _ h =>
      let x : Dword := BitVec.ofNat 64 (m.args.getD 0 0)
      match findRect s.cells[(cumIdx c)] x with
      | none => .next (s.at_ (s.reportAt c) .shapeReport ⟨c, m.id, [0x20], []⟩)
      | some (top, left) =>
        let s := s.own c h (rectCells top left (geoD x) (geoW x))
        let s := s.modCore c (·.modShape h fun g =>
          { Shape.zero with top := top, left := left, d := geoD x, w := geoW x, count := g.count })
        .next ((s.reportCells (cumIdx c)).at_ (s.zc + 128) .cellsLive (.of c m.id))
    | _ => .next s

/-- The handles a reshape names. -/
def reshaped : Instr → List (Fin 8)
  | .shapeFree _ h => [h]
  | .shapeCut _ _ j h => [h, j]
  | .shapeChain _ j h => [h, j]
  | _ => []

/-- A shape of a new rectangle: zero B, an empty queue (R182). -/
def Shape.reshape (g : Shape) (top left d w : Nat) : Shape :=
  { Shape.zero with top := top, left := left, d := d, w := w, count := g.count, held := g.held }

/-- The change of a CUT or CHAIN (R183, R184). -/
def State.reshapeNow (s : State) (c : Fin 64) (m : Cmd) : State :=
  let k := s.core c
  match m.op with
  | .shapeCut _ _ j h =>
    let g := k.shape[h]
    let pos := m.args.getD 1 0
    let rows := m.args.getD 0 0 = 0
    let (d1, w1) := if rows then (pos, g.w) else (g.d, pos)
    let (t2, l2, d2, w2) :=
      if rows then (g.top + pos, g.left, g.d - pos, g.w) else (g.top, g.left + pos, g.d, g.w - pos)
    (s.own c j (rectCells t2 l2 d2 w2)).modCore c fun k =>
      (k.modShape h (·.reshape g.top g.left d1 w1)).modShape j fun x => { x.reshape t2 l2 d2 w2 with held := g.held }
  | .shapeChain _ j h =>
    match joinRect k.shape[h] k.shape[j] with
    | none => s
    | some (t, l, d, w) =>
      (s.own c h (rectCells t l d w)).modCore c fun k =>
        (k.modShape h (·.reshape t l d w)).modShape j (·.reshape 0 0 0 0)
  | _ => s

/-- DRAIN_POINT: the reshape `ev.id` of core `ev.core` has arrived and every queue it names is empty: the cut
or chain is made, and the free is under way (R182, R260). -/
def execDrainPoint (s : State) : Out :=
  let c := s.ev.core
  let k := s.core c
  match k.cmd s.ev.id with
  | none => .next s
  | some m =>
    if m.chain ≠ 0 ∨ s.zc < m.at_ ∨ !((reshaped m.op).all fun h => k.shape[h].queue.isEmpty) then .next s
    else
      let live := match m.op with
        | .shapeFree _ _ => s.zc + 1
        | _ => s.zc + 128
      let s := (s.reshapeNow c m).modCore c fun k => k.modCmd m.id fun x => { x with chain := 1 }
      .next ((s.at_ (s.reportAt c) .drainReport (.of c m.id)).at_ live .cellsLive (.of c m.id))

/-- DRAIN_REPORT: C of core `ev.core`, held at the reshape `ev.id`, goes on in the next cycle (R260). -/
def execDrainReport (s : State) : Out :=
  .next (s.modCore s.ev.core fun k => k.release .c (· == .reshape s.ev.id) (s.zc + 1))

/-- CELLS_LIVE: the cells of the allocation or reshape `ev.id` of core `ev.core` are LIVE, or FREE, on the die; the
report leaves (R259, R260). With number 1 it is the end of the free of a KEND, whose cells return to the pool (R122,
R291). -/
def execCellsLive (s : State) : Out :=
  let c := s.ev.core
  if s.arg 0 = 1 then .next (s.freeCells c fun _ => true)
  else
    match (s.core c).cmd s.ev.id with
    | none => .next s
    | some m =>
      let s := match m.op with
        | .shapeFree _ h => (s.freeCells c (· == h)).modCore c (·.modShape h (·.reshape 0 0 0 0))
        | _ => s
      .next (s.at_ (s.reportAt c) .shapeReport ⟨c, m.id, [0], []⟩)

/-- SHAPE_REPORT: the outcome of the allocation or reshape `ev.id` reaches core `ev.core`; number its error
code (R181, R261). -/
def execShapeReport (s : State) : Out :=
  let c := s.ev.core
  match (s.core c).cmd s.ev.id with
  | none => .next s
  | some m =>
    if s.arg 0 ≠ 0 then
      match m.op with
      | .shapeAlloc _ _ h => .next ((s.finishFail c m (BitVec.ofNat 8 (s.arg 0))).modCore c (·.setRecord h .free))
      | _ => .next s
    else
      let s := s.finishDone c m
      .next (s.modCore c fun k => match m.op with
        | .shapeAlloc _ _ h => k.setRecord h .live
        | .shapeFree _ h => k.setRecord h .free
        | .shapeCut _ _ j h => (k.setRecord h .live).setRecord j .live
        | .shapeChain _ j h => (k.setRecord h .live).setRecord j .free
        | _ => k)

/-- FREE_CELL_REPORT: numbers Cumulus index and free cells; the distributor's view (R291). -/
def execFreeCellReport (s : State) : Out :=
  .next (if s.arg 0 = 4 then { s with nbView := s.arg 1 } else { s with view := s.view.set (Fin.ofNat 4 (s.arg 0)) (s.arg 1) })

end Sys2Proof.Machine
end

