-- ==== Sys2Proof/Machine/Launch.lean ====
section
/-!
DEFINITION. Boot mailboxes (R287-R290), the distributor's choice of a launch (R291, R292), its transfers (R293,
R294) and its start (R295, R296, R326).
-/

namespace Sys2Proof.Machine

/-! ## Mailboxes (R287-R289) -/

/-- The launch held in a mailbox's doublewords (R287, R288). -/
def MailReq.ofWords (d : Vector Dword 8) : MailReq :=
  let x := d[3]
  { image := d[0], argbase := d[1], gang := d[2], prio := x.extractLsb' 3 2, cid := x.extractLsb' 5 12
    d3id := x.extractLsb' 17 16, d3n := x.extractLsb' 33 8, ncell := x.extractLsb' 41 7
    caddr := d[4], ctab := d[5], spill := d[6], save := d[7] }

/-- The doublewords that hold a launch, as a post leaves them (R287, R288, R290). -/
def MailReq.words (r : MailReq) : Vector Dword 8 :=
  let ctrl := r.prio.toNat * 2 ^ 3 + r.cid.toNat * 2 ^ 5 + r.d3id.toNat * 2 ^ 17 + r.d3n.toNat * 2 ^ 33 + r.ncell.toNat * 2 ^ 41
  #v[r.image, r.argbase, r.gang, BitVec.ofNat 64 ctrl, r.caddr, r.ctab, r.spill, r.save]

/-- SAVEU: the save area in units of 64 KiB (R287). -/
def MailReq.saveu (r : MailReq) : Nat := r.save.toNat / 2 ^ 48

/-- The base of a core's spill area (R293). -/
def MailReq.spillOf (r : MailReq) (t : Fin 64) : Nat := r.spill.toNat % 2 ^ 48 + 65536 * t.val

/-- The base of a core's save area (R293). -/
def MailReq.saveOf (r : MailReq) (t : Fin 64) : Nat := r.save.toNat % 2 ^ 48 + 65536 * r.saveu * t.val

/-- Two posts belong to one launch (R289). -/
def MailReq.matches (a b : MailReq) : Bool := a.image == b.image && a.argbase == b.argbase && a.gang == b.gang && a.cid == b.cid

/-- The rules of BAD FIELD (R289); `extra` tells a reserved bit of CTRL that is set. -/
def MailReq.badField (r : MailReq) (extra : Bool) : Bool :=
  let aligned (x n : Nat) : Bool := x % n == 0 && x != 0
  extra || r.image.toNat / 2 ^ 32 != 0 || r.spill.toNat / 2 ^ 48 != 0 || !aligned r.caddr.toNat 8 || !aligned r.ctab.toNat 512
    || !aligned (r.spill.toNat % 2 ^ 48) 65536 || !aligned (r.save.toNat % 2 ^ 48) 65536 || r.saveu == 0
    || (if r.d3id = 0xFFFF then r.d3n != 0 else r.d3n == 0) || 64 < r.ncell.toNat

/-- A core of a launch's gang. -/
def MailReq.names (r : MailReq) (c : Fin 64) : Bool := r.gang.getLsbD c.val

/-- The code with which a post to core `c` is refused, 0 when it passes (R289). -/
def State.mailCode (s : State) (c : Fin 64) (r : MailReq) (extra : Bool) : Byte :=
  if (s.kernelOf r.image).isNone then 0x31
  else if r.argbase.toNat % 2 ^ 21 ≠ 0 ∨ 2 ^ 48 ≤ r.argbase.toNat then 0x32
  else if !r.names c then 0x33
  else if r.badField extra then 0x34
  else if coreList.any fun d => d != c && r.names d && s.mail[d].st == .posted && !(s.mail[d].req.matches r) then 0x35
  else 0

/-- Change a mailbox; entering REFUSED, SUSPENDED or EMPTY sends its vector (R382). -/
def State.modMail (s : State) (c : Fin 64) (f : Mail → Mail) : State :=
  let n := f s.mail[c]
  let t := { s with mail := s.mail.set c n }
  if n.st ≠ s.mail[c].st ∧ (n.st = .refused ∨ n.st = .suspended ∨ n.st = .empty) then t.msi (64 + c.val) else t

/-- The cores of a gang mask. -/
def gangCores (g : Dword) : List (Fin 64) := coreList.filter fun c => g.getLsbD c.val

/-- A launch forms when every core of its gang holds a matching post (R289). -/
def State.form (s : State) (r : MailReq) : State :=
  let cs := gangCores r.gang
  if cs.all fun d => s.mail[d].st == .posted && s.mail[d].req.matches r then
    let top (f : Mail → Nat) : Nat := (cs.map fun d => f s.mail[d]).foldl max 0
    let n : Run := ⟨s.nextId, r.cid, r.gang, .launch, top (·.req.prio.toNat), top (·.post), .waiting, [], 0, [], [], 0, 0, []⟩
    State.bump { s with runs := s.runs ++ [n] }
  else s

/-- An accepted post stands in the mailbox (R289, R290). -/
def State.accept (s : State) (c : Fin 64) (r : MailReq) : State :=
  s.modMail c fun m => { m with dw := r.words, st := .posted, code := 0, req := r, post := s.zc }

/-- The RW fields of CTRL (R288). -/
def ctrlFields (x : Dword) : Dword := x &&& 0x0000FFFFFFFFFFF8

/-- MAILBOX_POST: numbers core and the CTRL doubleword written with POST alone (R288, R289). -/
def execMailboxPost (s : State) : Out :=
  let c : Fin 64 := Fin.ofNat 64 (s.arg 0)
  let x : Dword := BitVec.ofNat 64 (s.arg 1)
  let m := s.mail[c]
  if m.st = .empty ∨ m.st = .refused then
    let dw := m.dw.set 3 (ctrlFields x)
    let r := MailReq.ofWords dw
    let code := s.mailCode c r (x.extractLsb' 51 5 != 0)
    if code = 0 then .next ((s.accept c r).form r)
    else
      let t := s.modMail c fun m => { m with dw := dw, st := .refused, code := code, req := r }
      .next (if m.st = .refused then t.msi (64 + c.val) else t)
  else .next s

/-- MAILBOX_CANCEL: number core; a POSTED launch is withdrawn from every member (R289). -/
def execMailboxCancel (s : State) : Out :=
  let c : Fin 64 := Fin.ofNat 64 (s.arg 0)
  let m := s.mail[c]
  if m.st = .posted then
    let s := (gangCores m.req.gang).foldl
      (fun (s : State) (d : Fin 64) =>
        if s.mail[d].st = .posted ∧ s.mail[d].req.matches m.req then s.modMail d fun m => { m with st := .empty } else s) s
    .next { s with runs := s.runs.filter fun r =>
      !(r.st == .waiting && r.kind == .launch && r.gang == m.req.gang && r.cid == m.req.cid) }
  else .next s

/-! ## KLAUNCH (R120, R290) -/

/-- The post that a KLAUNCH makes to core `t` (R290). -/
def klaunchReq (r : MailReq) (m : Cmd) (t : Fin 64) : MailReq :=
  { r with
    image := m.quad.1, argbase := m.quad.2.1, gang := m.quad.2.2.1, prio := m.quad.2.2.2.extractLsb' 0 2
    caddr := r.ctab + BitVec.ofNat 64 (8 * t.val), ncell := 0 }

/-- KLAUNCH_COMPLETE: the distributor accepts every post of the KLAUNCH `ev.id` of core `ev.core`, or refuses it with
the first code, and then no post stands (R120, R290). DESIGN CHOICE (log 97): the first code is that of the lowest-numbered
target that refuses. -/
def execKlaunchComplete (s : State) : Out :=
  let c := s.ev.core
  match (s.core c).cmd s.ev.id with
  | none => .next s
  | some m =>
    let cs := gangCores m.quad.2.2.1
    let post (t : Fin 64) : MailReq := klaunchReq (s.core c).launch m t
    let code := cs.findSome? fun t =>
      let e := if s.mail[t].st = .empty then s.mailCode t (post t) false else 0x30
      if e = 0 then none else some e
    match code with
    | some e => .next (s.finishFail c m e)
    | none =>
      let t := cs.foldl (fun s t => s.accept t (post t)) s
      .next ((t.form (klaunchReq (s.core c).launch m c)).finishDone c m)

/-! ## Rank and choice (R292) -/

/-- The effective level of a formed launch (R292). -/
def State.eff (s : State) (r : Run) : Nat :=
  let d := s.regs.dage.toNat
  if d = 0 then r.prio else min 3 (r.prio + (s.zc - r.post) / d)

/-- The lowest core of a gang. -/
def lowestCore (g : Dword) : Nat := ((gangCores g).head?.map (·.val)).getD 64

/-- Launch `a` ranks above `b` (R292). -/
def State.above (s : State) (a b : Run) : Bool :=
  let x := s.eff a
  let y := s.eff b
  y < x || (x == y && (a.post < b.post || (a.post == b.post && lowestCore a.gang < lowestCore b.gang)))

/-- A launch reserves its cores (R292). -/
def State.reserves (s : State) (r : Run) : Bool :=
  let d := s.regs.dage.toNat
  d != 0 && (4 - r.prio) * d ≤ s.zc - r.post

/-- The launch record of a member. -/
def State.reqOf (s : State) (r : Run) (c : Fin 64) : MailReq :=
  match r.saved.find? (·.1 == c) with
  | some x => x.2.1
  | none => s.mail[c].req

/-- The launch record a member starts with. -/
def State.recordOf (s : State) (r : Run) (c : Fin 64) : MailReq :=
  match r.kind with
  | .replay => (s.core c).launch
  | _ => s.reqOf r c

/-- The NCELL gate (R292). -/
def State.cellGate (s : State) (r : Run) : Bool :=
  (List.finRange 4).all fun i =>
    (((gangCores r.gang).filter fun c => cumIdx c == i).map fun c => (s.reqOf r c).ncell.toNat).foldl (· + ·) 0 ≤ s.view[i]

/-- The firmware is verified, and every die that a core of the launch uses has its readiness bit (R371, R372, R377). -/
def State.diesReady (s : State) (g : Dword) : Bool :=
  let ready (d : Nat) : Bool := s.regs.ready0.getLsbD d
  ready 26 && ready 6 && (gangCores g).all fun c => ready (zenithOf c).val && ready (cumulusOf c).val

/-- The conditions of a formed launch hold (R292, R371). -/
def State.canSelect (s : State) (r : Run) : Bool :=
  r.st == .waiting && (gangCores r.gang).all (fun c => (s.core c).st == .idle && (s.core c).idleAt ≤ s.zc)
    && s.cellGate r && s.diesReady r.gang
    && s.runs.all fun q => !(q.st == .waiting && s.above q r && s.reserves q && q.gang &&& r.gang != 0)

/-- The highest-ranked launch whose conditions hold (R292). -/
def State.selectable (s : State) : Option Run :=
  (s.runs.filter s.canSelect).foldl
    (fun best r => match best with
      | none => some r
      | some b => if s.above r b then some r else some b) none

/-! ## Transfers (R293, R294) -/

/-- Word `i` of an image at an offset. -/
def imgWord (b : Runs Byte) (o i : Nat) : Word := BitVec.ofNat 32 (imgNum b (o + 4 * i) 4)

/-- The overlay words and the format table (R293). -/
def Core.loadOverlay (k : Core) (b : Runs Byte) (n : Kernel) : Core :=
  { k with
    imem := (List.range n.ovlLen).foldl (fun m i => sset 0 (n.origin + i) (imgWord b n.ovlOff i) m) k.imem
    ft := Vector.ofFn fun i : Fin 64 => imgWord b n.ftOff i.val }

/-- The tile preloads; every other tile is zero with tag 0 (R241, R293). DESIGN CHOICE (log 75): the preloads are written in
the order of their table, so of two that cover a tile the later one's bytes and tag stand. -/
def Core.loadTiles (k : Core) (b : Runs Byte) (n : Kernel) : Core :=
  (tilesRec b n).foldl
    (fun k r => { k with
      tile := tileWrite k.tile r.bg r.off r.len (imgNum b r.src r.len)
      tag := tagWrite k.tag r.bg r.off r.len r.tag }) { k with tile := [], tag := [] }

/-- The argument range leaves a core's block cache and its RDC, dirty bytes written to home first (R121, R293). -/
def State.dropArgs (s : State) (c : Fin 64) (cid : BitVec 12) (base n : Nat) : State :=
  (linesOf base n).foldl (fun s la => ((s.cleanToHome c cid la).dropBlock c cid la).dropRdc (zIdx c) cid la) s

/-- The loader's record of a page, with the physical address that its translation gives, zero where there is none (R294, R313). -/
def State.loaderRecord (s : State) (cid : BitVec 12) (c : Fin 64) (cause page : Nat) : State :=
  s.record ⟨6, cause, cid, c.val, 0, (zenithOf c).val, 3, true, page * 2 ^ 21, 0, 0, 0, false,
    s.faultPa cid (page * 2 ^ 21)⟩

/-- The pages of a core's spill and save areas, lowest first (R293). -/
def MailReq.areaPages (r : MailReq) (c : Fin 64) : List Nat :=
  let a := pagesOf (r.spillOf c) 65536
  let b := pagesOf (r.saveOf c) (65536 * r.saveu)
  if r.spillOf c ≤ r.saveOf c then a ++ b.filter fun p => !a.contains p else b ++ a.filter fun p => !b.contains p

/-- How the loader's probe of a core ends: pinned, with a record that suspends the mailbox, or with a refused install, which
ends the context (R294, R310). -/
inductive Pinned where
  | done | suspends | fatal
  deriving DecidableEq, Repr

/-- The launch pins of a core: its spill and save areas; the record names the lowest page that fails (R293, R294, R313). -/
def State.loadPins (s : State) (c : Fin 64) (r : MailReq) : State × Pinned :=
  match s.probePages r.cid .rw (r.areaPages c) with
  | (s, ps, bad) =>
    match ps.find? fun p => 255 ≤ s.pinCount r.cid c p with
    | some p => (s.loaderRecord r.cid c 0x02 p.1, .suspends)
    | none =>
      match bad with
      | none => (s.pinAll r.cid c ps, .done)
      | some (page, cause) =>
        if cause = causeProbe then (s.loaderRecord r.cid c cause page, .suspends)
        else
          let die : Fin 8 := homeDie (page * 2 ^ 21)
          (((s.memRecord c r.cid .c die 0 (page * 2 ^ 21) cause)).endCtx r.cid cause die, .fatal)

/-- Change a run. -/
def State.modRun (s : State) (id : Nat) (f : Run → Run) : State :=
  { s with runs := s.runs.map fun r => if r.id = id then f r else r }

/-- The transfers of a launch for one core: overlay, format table and tiles, each at its launch value, and with `args` the
invalidation of the argument range, which a restart from a control image does not repeat (R241, R247, R293, R326). -/
def State.loadCore (s : State) (r : Run) (c : Fin 64) (args : Bool) : State :=
  let q := s.recordOf r c
  match s.kernelOf q.image with
  | none => s
  | some (b, n) =>
    let s := s.modCore c fun k => (k.loadOverlay b n).loadTiles b n
    if args then s.dropArgs c q.cid q.argbase.toNat (n.argLen + n.dataLen) else s

/-- The pins of one core of a run; one that fails is stuck, and its mailbox is SUSPENDED (R294). -/
def State.pinMember (s : State) (r : Run) (c : Fin 64) : State :=
  match s.loadPins c (s.recordOf r c) with
  | (s, .done) => s
  | (s, x) =>
    let s := s.modRun r.id fun y => { y with stuck := y.stuck ++ [c] }
    if r.kind = .launch ∧ x = .suspends then s.modMail c fun m => { m with st := .suspended } else s

/-- Every transfer of a run is resident: its start follows at an open count (R295). -/
def State.resident (s : State) (id : Nat) : State :=
  if s.runs.any fun r => r.id == id && r.st == .loading && r.stuck.isEmpty then
    s.later 1 (s.choices.headD 0) .launchStart (.nums [id])
  else s

/-- LAUNCH_SELECT: the highest-ranked launch whose conditions hold is selected; its cores are taken and its transfers
run (R292-R294). -/
def execLaunchSelect (s : State) : Out :=
  match s.selectable with
  | none => .next s
  | some r =>
    let cs := gangCores r.gang
    let s := s.modRun r.id fun x => { x with st := .loading, stuck := [] }
    let s := cs.foldl
      (fun s c =>
        let s := s.modCore c fun k => { k with st := .taken }
        if r.kind = .launch then s.modMail c fun m => { m with st := .loading } else s) s
    let s := cs.foldl (fun s c => s.loadCore r c (r.kind == .launch)) s
    .next ((cs.foldl (fun s c => s.pinMember r c) s).resident r.id)

/-- The first held command of a core whose σ has passed at a resume, with its shape (R195, R246). -/
def Core.overdue (k : Core) (zc : Nat) : Option (Fin 8 × MCmd) :=
  (List.finRange 8).findSome? fun h => (k.shape[h].queue.find? fun m => !m.started && m.sigma ≤ zc).map fun m => (h, m)

/-- The schedule miss of a held command whose σ has passed (R195, R246). -/
def Core.missHeld (k : Core) (zc : Nat) : Core :=
  match k.overdue zc with
  | none => k
  | some (h, m) => k.raise ⟨causeMiss, 0x0C, .x, 4 + h.val, m.pc, 0⟩

/-- MAILBOX_RESUME: number core; a context that PROBE has suspended goes on, its PROBE from the start, or the loader's probe
is repeated (R114, R288, R294, R314). -/
def execMailboxResume (s : State) : Out :=
  let c : Fin 64 := Fin.ofNat 64 (s.arg 0)
  let k := s.core c
  if k.st = .suspended then
    let again (u : Cluster) : Cluster :=
      { u with hold := if u.hold.probing then .run else u.hold, nextAt := max u.nextAt (s.zc + 1) }
    let on (k : Core) : Core :=
      { k with
        st := .running
        shape := vmap (fun g => { g with held := false }) k.shape
        clus := vmap again k.clus }
    .next (s.modCore c fun k => (on k).missHeld s.zc)
  else
    match s.runs.find? fun r => r.st == .loading && r.stuck.contains c && (r.kind != .launch || s.mail[c].st == .suspended) with
    | none => .next s
    | some r =>
      let s := s.modRun r.id fun x => { x with stuck := x.stuck.filter (· != c) }
      let s := if r.kind = .launch then s.modMail c fun m => { m with st := .loading } else s
      .next ((s.pinMember r c).resident r.id)

/-! ## Start (R295, R296, R326) -/

/-- DMR at a start (R296). -/
def dmrOf (c : Fin 64) (r : MailReq) : Dword := BitVec.ofNat 64 (c.val / 8 + c.val / 32 * 2 ^ 16 + r.d3id.toNat * 2 ^ 48)

/-- A core at a start: every state at its launch value; the instruction memory, format table, tile store and caches
as the transfers left them, and commands and the deadline of a request that run on after a replay (R247, R295, R323). -/
def Core.launchAt (k : Core) (c : Fin 64) (id : Nat) (r : MailReq) (pcs : Cl → BitVec 16) (t : Nat) : Core :=
  let csr := { Csr.reset with
    cid := r.cid, dmr := dmrOf c r, spillbase := BitVec.ofNat 64 (r.spillOf c) }
  let v := { Vis.reset with g := (Vis.reset.g.set 1 r.argbase).set 2 r.gang, csr := csr }
  let u (cl : Cl) (t : Nat) : Cluster := { Cluster.reset with pc := pcs cl, nextAt := t, hold := .run }
  { Core.reset with
    st := .running, launch := r, run := id, vis := v, old := v
    clus := #v[u .c t, u .l (t + 1), u .x (t + 1), u .w (t + 1)]
    deadln := if k.run = id then k.deadln else none
    imem := k.imem, ft := k.ft, tile := k.tile, tag := k.tag, bc := k.bc
    cmds := k.cmds.filter (·.gone) }

/-- The first words of the streams (R72, R295). -/
def Kernel.pcs (n : Kernel) : Cl → BitVec 16
  | .c => BitVec.ofNat 16 n.entry
  | .l => BitVec.ofNat 16 (n.streams.getD 1 (0, 0)).1
  | .x => BitVec.ofNat 16 (n.streams.getD 2 (0, 0)).1
  | .w => BitVec.ofNat 16 (n.streams.getD 3 (0, 0)).1

/-- The hold word of a cluster in a control image: the word after a suspended level's body, else the resume word
(R324). -/
def Cluster.holdWord (u : Cluster) : BitVec 16 :=
  match u.susp with
  | some x => x.p + BitVec.ofNat 16 (x.len + 1)
  | none => u.pc

/-- A core starts at its kernel's entry (R295). -/
def State.startFresh (s : State) (c : Fin 64) (id : Nat) (r : MailReq) (t : Nat) : State :=
  match s.kernelOf r.image with
  | none => s
  | some (_, n) => s.modCore c fun k => k.launchAt c id r n.pcs t

/-- PREEMPT.STATE alone changes (R30). -/
def Core.setPstate (k : Core) (st : Nat) : Core :=
  k.modVis fun v =>
    { v with csr := { v.csr with preempt := (v.csr.preempt &&& ~~~6) ||| BitVec.ofNat 64 (2 * st) } }

/-- Set PREEMPT.STATE and clear REQ (R30). -/
def Core.setPreempt (k : Core) (st : Nat) : Core :=
  let f (v : Vis) : Vis :=
    { v with csr := { v.csr with preempt := (v.csr.preempt &&& ~~~7) ||| BitVec.ofNat 64 (2 * st) } }
  { k.modVis f with deadln := none }

/-- A core starts at the restore sequence of its control image: `replay` for a replay, and `again` when its retry count is
not 0, whose PREEMPT.STATE is 3 (R247, R248, R326). -/
def State.startImage (s : State) (c : Fin 64) (id : Nat) (r : MailReq) (g : Image) (replay again : Bool) (t : Nat) : State :=
  match s.kernelOf r.image with
  | none => s
  | some (b, n) =>
    let restore := (((yieldsOf b n).find? (·.id == g.yp.toNat)).map (·.restore)).getD 0
    let pcs (cl : Cl) : BitVec 16 := if cl = .c then restore else g.clus[clIx cl].holdWord
    s.modCore c fun k =>
      let old := k.shape
      let k := (k.launchAt c id r pcs t).setPstate (if again then 3 else 0)
      let sh : Vector ShSt 8 := Vector.ofFn fun h : Fin 8 => if g.geo.any (·.1 == h) then .live else .free
      let k := { k with shape := old, phase := .restoring g.yp replay, replay := some g }
      { k with vis := { k.vis with sh := sh }, old := { k.vis with sh := sh } }

/-- The saved shapes of one core find cells, without a hint (R181, R326). -/
def State.placeShapes (s : State) (c : Fin 64) (geo : List (Fin 8 × Nat × Nat)) : Option State :=
  geo.foldl
    (fun acc g =>
      acc.bind fun s =>
        (findRect s.cells[(cumIdx c)] (BitVec.ofNat 64 ((g.2.1 - 1) + (g.2.2 - 1) * 8))).map fun o =>
          (s.own c g.1 (rectCells o.1 o.2 g.2.1 g.2.2)).modCore c
            (·.modShape g.1 fun _ => { Shape.zero with top := o.1, left := o.2, d := g.2.1, w := g.2.2 })) (some s)

/-- The control image a member restarts from. -/
def State.imageOf (s : State) (r : Run) (c : Fin 64) : Option Image :=
  match r.kind with
  | .launch => none
  | .replay => (s.core c).replay
  | .resume => (r.saved.find? (·.1 == c)).bind (·.2.2)

/-- The members a start restarts: the whole gang, or for a replay those that still run the context (R247). -/
def State.startMembers (s : State) (r : Run) : List (Fin 64) :=
  (gangCores r.gang).filter fun c => r.kind != .replay || (s.core c).onRun r

/-- What a core has counted for the launch it ran is kept there when another launch takes the core (R118, R298). -/
def State.keepCounts (s : State) (c : Fin 64) (id : Nat) : State :=
  let k := s.core c
  if k.run = id then s
  else s.modRun k.run fun x => { x with left := x.left.filter (·.core != c) ++ [⟨c, k.phases, k.doms⟩] }

/-- Results and fault reports that a core still awaits concern the launch it ran: they reach no other (R247, R295). -/
def State.dropPending (s : State) (c : Fin 64) : State :=
  { s with agenda := s.agenda.filter fun (e : Timed) =>
      !(e.ev.core == c && (e.op == Instr.cResultLands || e.op == Instr.faultReportArrival)) }

/-- The level-2 boundaries a gang has passed at a start (R357). -/
def State.startBounds (s : State) (r : Run) (cs : List (Fin 64)) : Nat :=
  match cs with
  | [] => 0
  | c :: _ =>
    ((s.gangOf c).map fun d =>
      if cs.contains d then ((s.imageOf r d).map (·.phases[(2 : Fin 4)])).getD 0 else (s.countsOf c d).1[(2 : Fin 4)]).min?.getD 0

/-- LAUNCH_START: number the run. Every transfer is resident: the mailboxes become EMPTY and every member starts at T0,
fixed at least 16 cycles later. A restart waits while a saved shape finds no cells (R247, R295, R326). -/
def execLaunchStart (s : State) : Out :=
  match s.runs.find? fun r => r.id == s.arg 0 && r.st == .loading && r.stuck.isEmpty with
  | none => .next s
  | some r =>
    let cs := s.startMembers r
    let placed := cs.foldl
      (fun acc c => acc.bind fun s => match s.imageOf r c with
        | none => some s
        | some g =>
          (s.modCore c fun k => { k with shape := Vector.replicate 8 Shape.zero }).placeShapes c g.geo) (some s)
    match placed with
    | none => .next (s.at_ (s.zc + 1) .launchStart s.ev)
    | some t =>
      let t0 := t.zc + 16 + t.choice (t.choices.headD 0)
      let t := t.chosen
      let t := cs.foldl
        (fun t c =>
          let q := t.recordOf r c
          let t := ((t.keepCounts c r.id).dropSubs c).dropPending c
          let t := if r.kind = .launch then t.modMail c fun m => { m with st := .empty } else t
          match t.imageOf r c with
          | some g => t.startImage c r.id q g (r.kind == .replay) (r.kind == .replay || r.retry != 0) t0
          | none =>
            let t := t.startFresh c r.id q t0
            if r.kind = .replay then t.modCore c (·.setPstate 3) else t) t
      .next (t.modRun r.id fun x =>
        { x with st := .running, since := t0, bounds := t.startBounds r cs, saved := [], retry := if r.kind = .launch then 0 else x.retry })

end Sys2Proof.Machine
end

