-- ==== Sys2Proof/Machine/Regs.lean ====
section
/-!
DEFINITION. The BAR0 register map (R8, R9, R287, R288, R302, R327, R338, R340, R351, R366-R374, R380): what a read
returns, and the write of a register (REGISTER_WRITE). A write that acts becomes the event of its own step in the same
cycle. Registers are written as whole doublewords; CECNT alone also as its 32-bit words (log 30).
-/

namespace Sys2Proof.Machine

/-! ## Packing -/

/-- A field of `n` bits placed at bit `lo`. -/
def fld (x lo : Nat) : Nat := x * 2 ^ lo

/-- Bits [hi:lo] of a doubleword as a number. -/
def bits (x : Dword) (hi lo : Nat) : Nat := x.toNat / 2 ^ lo % 2 ^ (hi + 1 - lo)

/-- A doubleword with only bits [hi:lo] kept. -/
def keepBits (x : Dword) (hi lo : Nat) : Dword := BitVec.ofNat 64 (bits x hi lo * 2 ^ lo)

/-- PWSTAT (R351). -/
def HostRegs.pwstat (g : HostRegs) : Nat := g.clk + fld (g.ipkg % 2 ^ 16) 8 + fld g.excr.toNat 24 + fld g.excf.toNat 40

/-- DRST as it reads (R370). -/
def HostRegs.drst (g : HostRegs) : Nat := g.drstDie.toNat + fld g.drstState 4 + fld g.drstForced.toNat 7

/-- Mailbox STATE (R288). -/
def MailSt.code : MailSt → Nat
  | .empty => 0 | .posted => 1 | .loading => 2 | .suspended => 3 | .refused => 4

/-- A doubleword of a mailbox as it reads: reserved fields read as zero, though a post finds what was written to them (R9,
R287-R289). -/
def Mail.read (m : Mail) (i : Fin 8) : Dword :=
  if i = 3 then m.dw[i] + BitVec.ofNat 64 (fld m.st.code 48 + fld (if m.st = .refused then m.code.toNat else 0) 56)
  else if i = 0 then keepBits m.dw[i] 31 0
  else if i = 6 then keepBits m.dw[i] 47 0
  else m.dw[i]

/-- QPCTL as it reads (R327). -/
def Qp.ctl (q : Qp) : Nat :=
  q.open_.toNat + fld q.err.toNat 1 + fld q.logn 2 + fld q.cid.toNat 6 + fld q.rcid.toNat 18 + fld q.ecode.toNat 30
    + fld q.eidx 38

/-- The capability records in their order: offset, ID, LEN and the doublewords of the body that the spec states; the others
are the device's own (R373). DESIGN CHOICE (log 4): they stand one after another from 0x50000. -/
def capRecords : List (Nat × Nat × Nat × List Dword) :=
  [(0x50000, 1, 3748, []), (0x50EA8, 2, 16, []), (0x50EB8, 3, 24, [0x1E]), (0x50ED0, 4, 24, [256])]

/-- A doubleword of the capability range: a record's ID, VER and LEN, the offset of the next record, or its body (R373). VER
and the two signed keys are open. -/
def capRead (o : Nat) : Dword :=
  match capRecords.find? fun r => r.1 ≤ o && o < r.1 + r.2.2.1 with
  | none => 0
  | some r =>
    let i := (o - r.1) / 8
    if i = 0 then
      BitVec.ofNat 64 (r.2.1 + fld ((Config.capability o).toNat / 2 ^ 16 % 2 ^ 8) 16 + fld r.2.2.1 32)
    else if i = 1 then
      BitVec.ofNat 64 (((capRecords.find? fun q => r.1 < q.1).map (·.1)).getD 0)
    else if r.2.1 = 1 then Config.capability o &&& (if i = 468 then 0xFFFFFFFF else BitVec.allOnes 64)
    else r.2.2.2.getD (i - 2) 0

/-- A port status register (R340). -/
def HostRegs.port (g : HostRegs) (p : Fin 12) : Nat :=
  g.portUp[p].toNat + fld g.portRetry[p].toNat 2 + fld g.portDowns[p].toNat 32

/-- Where a register access reaches the MSI-X table and its pending bits, laid out as PCI Express has them. The spec does not
say in which BAR they lie: the model numbers them from the end of BAR0's 64 MiB (R380, R382; log 83). -/
def vecTable : Nat := 2 ^ 26
def vecPending : Nat := vecTable + 0x8000

/-- The doubleword a host read of BAR0 returns; unmapped offsets and write-only fields read zero (R8, R9, R380). -/
def State.regRead (s : State) (o : Nat) : Dword :=
  let g := s.regs
  let w (x : Nat) : Dword := BitVec.ofNat 64 x
  if o = 0x10 then 0x50000
  else if o = 0x100 then g.ready0
  else if o = 0x108 then g.ready1
  else if o = 0x118 then w g.errhead.toNat
  else if 0x120 ≤ o ∧ o < 0x140 ∧ o % 8 = 0 then
    let i : Fin 8 := Fin.ofNat 8 ((o - 0x120) / 4)
    w (g.cecnt[i].toNat + fld (g.cecnt[(Fin.ofNat 8 (i.val + 1))]).toNat 32)
  else if 0x120 ≤ o ∧ o < 0x140 ∧ o % 8 = 4 then w (g.cecnt[(Fin.ofNat 8 ((o - 0x120) / 4))]).toNat
  else if o = 0x200 then g.dage
  else if o = 0x300 then g.frbase
  else if o = 0x308 then g.frctl
  else if o = 0x310 then w g.frhead.toNat
  else if o = 0x318 then w g.frtail.toNat
  else if o = 0x320 then w g.frlost.toNat
  else if o = 0x328 then g.ctxbase
  else if o = 0x338 then w (g.tinvBusy.toNat + fld g.tinvPinned.toNat 1)
  else if o = 0x348 then w g.pdl.toNat
  else if o = 0x350 then w (g.prstCid.toNat + fld g.prstRes.toNat 12)
  else if 0x380 ≤ o ∧ o < 0x3C0 ∧ o % 8 = 0 then g.dbres.extractLsb' (8 * (o - 0x380)) 64
  else if 0x500 ≤ o ∧ o < 0x600 ∧ o % 8 = 0 then
    let e := g.replica[(Fin.ofNat 16 ((o - 0x500) / 16))]
    if o % 16 = 0 then e.1 else e.2
  else if 0x600 ≤ o ∧ o < 0x660 ∧ o % 8 = 0 then w (g.port (Fin.ofNat 12 ((o - 0x600) / 8)))
  else if o = 0x800 then g.pwctl
  else if o = 0x808 then w g.pwstat
  else if o = 0x810 then g.tlbase
  else if o = 0x818 then g.tlctl
  else if o = 0x820 then w g.tlhead.toNat
  else if o = 0x828 then w (g.lock.toNat + fld g.offs.toNat 32)
  else if o = 0x900 then w g.drst
  else if o = 0x908 then w g.drdl.toNat
  else if 0xA00 ≤ o ∧ o < 0xC00 ∧ o % 8 = 0 then
    let e := g.errrec[(Fin.ofNat 16 ((o - 0xA00) / 32))]
    let i := o / 8 % 4
    if i = 0 then e.1 else if i = 1 then e.2.1 else if i = 2 then e.2.2.1 else e.2.2.2
  else if o = 0x1000 then w g.mop.toNat
  else if 0x1008 ≤ o ∧ o < 0x1020 ∧ o % 8 = 0 then g.marg[(Fin.ofNat 3 ((o - 0x1008) / 8))]
  else if o = 0x1020 then w (g.mbusy.toNat + fld g.mresult.toNat 8)
  else if 0x10000 ≤ o ∧ o < 0x11000 ∧ o % 8 = 0 then
    s.mail[(Fin.ofNat 64 ((o - 0x10000) / 64))].read (Fin.ofNat 8 (o / 8))
  else if 0x20000 ≤ o ∧ o < 0x21000 ∧ o % 8 = 0 then
    let q := s.qp ((o - 0x20000) / 16)
    if o % 16 = 0 then w q.ctl else q.base
  else if 0x30000 ≤ o ∧ o < 0x38000 ∧ o % 8 = 0 then
    let n := s.cnt ((o - 0x30000) / 8)
    w (n.cid.toNat + fld n.asg.toNat 12)
  else if 0x40000 ≤ o ∧ o < 0x48000 ∧ o % 8 = 0 then (s.cnt ((o - 0x40000) / 8)).val
  else if 0x50000 ≤ o ∧ o < 0x60000 ∧ o % 8 = 0 then capRead o
  else if vecTable ≤ o ∧ o < vecTable + 0x8000 ∧ o % 16 = 8 then w (fld (s.vecMask.getLsbD ((o - vecTable) / 16)).toNat 32)
  else if vecPending ≤ o ∧ o < vecPending + 256 ∧ o % 8 = 0 then s.vecPend.extractLsb' (8 * (o - vecPending)) 64
  else 0

/-! ## Writes -/

/-- Change the host registers. -/
def State.modRegs (s : State) (f : HostRegs → HostRegs) : State := { s with regs := f s.regs }

/-- A write that acts is the step of its own event, in this cycle. -/
def State.act (s : State) (i : Instr) (l : List Nat) : State := s.first s.zc i (.nums l)

/-- FRCTL: a LOGN outside [6, 16] is ignored whole, but for the write that disables the ring; setting EN restarts
HEAD (R302). -/
def HostRegs.setFrctl (g : HostRegs) (x : Dword) : HostRegs :=
  let logn := bits x 4 0
  let en := x.getLsbD 5
  if (6 ≤ logn ∧ logn ≤ 16) ∨ (logn = 0 ∧ en = false) then
    { g with frctl := keepBits x 5 0, frhead := if en && !g.frctl.getLsbD 5 then 0 else g.frhead }
  else g

/-- PWCTL: a clock code above 16, or CLKMIN above CLKMAX, is ignored whole (R351). -/
def HostRegs.setPwctl (g : HostRegs) (x : Dword) : HostRegs :=
  let lo := bits x 21 17
  let hi := bits x 26 22
  if hi ≤ 16 ∧ lo ≤ hi then { g with pwctl := x &&& 0xFFFFFFFF07FFFFFF } else g

/-- TLCTL: LOGN outside [6, 16], but for 0 with EN = 0, or a PERIOD out of range, is ignored whole; setting EN restarts
HEAD (R351). -/
def HostRegs.setTlctl (g : HostRegs) (x : Dword) : HostRegs :=
  let logn := bits x 4 0
  let en := x.getLsbD 5
  let period := bits x 27 8
  if ((6 ≤ logn ∧ logn ≤ 16) ∨ (logn = 0 ∧ en = false)) ∧ 1 ≤ period ∧ period ≤ 1000000 then
    { g with
      tlctl := x &&& 0x000000000FFFFF3F
      tlhead := if en && !g.tlctl.getLsbD 5 then 0 else g.tlhead }
  else g

/-- TLCTL with EN set: the first sample is due a PERIOD later (R361; log 44). -/
def State.writeTlctl (s : State) (x : Dword) : State :=
  let t := s.modRegs fun g => g.setTlctl x
  if t.regs.tlctl.getLsbD 5 && !s.regs.tlctl.getLsbD 5 then
    { t with gov := { t.gov with sampleAt := s.time + bits t.regs.tlctl 27 8 * 1000 * unitsPerNs } }
  else t

/-- PREQ: exactly one of REQ, RES and END acts (R302). -/
def State.writePreq (s : State) (x : Dword) : State :=
  let cid := bits x 11 0
  match x.getLsbD 12, x.getLsbD 13, x.getLsbD 14 with
  | true, false, false => s.act .preqReq [cid]
  | false, true, false => s.act .preqRes [cid]
  | false, false, true => s.act .preqEnd [cid]
  | _, _, _ => s

/-- A doubleword of a mailbox: ignored while a launch holds it, but for a CTRL write of CANCEL or RESUME, whose fields
are written too; a CTRL write of more than one of POST, CANCEL and RESUME is ignored whole (R288). -/
def State.writeMail (s : State) (c : Fin 64) (i : Fin 8) (x : Dword) : State :=
  let m := s.mail[c]
  let free := m.st = .empty ∨ m.st = .refused
  let put (x : Dword) : State := { s with mail := s.mail.set c { m with dw := m.dw.set i x } }
  if i ≠ 3 then if free then put x else s
  else
    match x.getLsbD 0, x.getLsbD 1, x.getLsbD 2 with
    | true, false, false => s.act .mailboxPost [c.val, x.toNat]
    | false, true, false => (put (ctrlFields x)).act .mailboxCancel [c.val]
    | false, false, true => (put (ctrlFields x)).act .mailboxResume [c.val]
    | false, false, false => if free then put (ctrlFields x) else s
    | _, _, _ => s

/-- QPCTL: of an open pair only ERR is cleared; opening needs a LOGN in [2, 12] (R327). -/
def State.writeQpctl (s : State) (q : Nat) (x : Dword) : State :=
  let p := s.qp q
  let p := if x.getLsbD 1 then { p with err := false } else p
  if p.open_ then s.setQp q p
  else if x.getLsbD 0 then
    if 2 ≤ bits x 5 2 ∧ bits x 5 2 ≤ 12 then s.act .qpctlOpen [q, x.toNat] else s
  else
    s.setQp q { p with
      logn := bits x 5 2, cid := BitVec.ofNat 12 (bits x 17 6), rcid := BitVec.ofNat 12 (bits x 29 18) }

/-- The events of the management commands (R374). -/
def mgmtOf (op : Byte) : Option Instr :=
  if op = 1 then some .resync
  else if op = 2 then some .loadimg
  else if op = 3 then some .unloadimg
  else if op = 4 then some .ackend
  else if op = 5 then some .clrarr
  else if op = 6 then some .fwstage
  else if op = 7 then some .attest
  else none

/-- A management command ends with a result at an open count (R374). -/
def State.mgmtEnd (s : State) (result : Nat) : State :=
  s.later 1 (s.choices.headD 0) .mgmtCommandComplete (.nums [result])

/-- MCMD: OP is written, and GO runs the command unless one is running; a code that names none ends with a bad argument
(R8, R374; log 31). -/
def State.writeMcmd (s : State) (x : Dword) : State :=
  let op : Byte := x.extractLsb' 0 8
  let t := s.modRegs fun g => { g with mop := op }
  if x.getLsbD 8 && !s.regs.mbusy then
    let t := t.modRegs fun g => { g with mbusy := true }
    match mgmtOf op with
    | some i => t.act i []
    | none => t.mgmtEnd 1
  else t

/-- DRST: GO starts a reset of a die in [1, 6] while none is under way (R370). -/
def State.writeDrst (s : State) (x : Dword) : State :=
  let d := bits x 2 0
  if x.getLsbD 3 then
    if s.regs.drstState ≠ 0 ∨ d = 0 ∨ d = 7 then s
    else (s.modRegs fun g => { g with drstDie := BitVec.ofNat 3 d }).act .dieResetGo [d]
  else s.modRegs fun g => { g with drstDie := BitVec.ofNat 3 d }

/-- Clear the bits of a counter that are written as 1 (R8, R366). -/
def w1c {n : Nat} (x : BitVec n) (y : Nat) : BitVec n := x &&& ~~~BitVec.ofNat n y

/-- Set a counter. -/
def State.setCnt (s : State) (n : Nat) (x : Cnt) : State := { s with cnts := sset Cnt.reset n x s.cnts }

/-- A counter register: counter 0 is never assigned (R327). -/
def State.writeCntctl (s : State) (n : Nat) (x : Dword) : State :=
  s.setCnt n { s.cnt n with cid := BitVec.ofNat 12 (bits x 11 0), asg := x.getLsbD 12 && n != 0 }

/-- The write of one doubleword of BAR0 (R8, R9, R380): read-only fields, reserved fields and unmapped offsets ignore
it. -/
def State.regWrite (s : State) (o : Nat) (x : Dword) : State :=
  let w32 : BitVec 32 := x.extractLsb' 0 32
  if 0x120 ≤ o ∧ o < 0x140 ∧ o % 8 = 0 then
    let i : Fin 8 := Fin.ofNat 8 ((o - 0x120) / 4)
    s.modRegs fun g => { g with
      cecnt := (g.cecnt.set i (w1c g.cecnt[i] (bits x 31 0))).set (Fin.ofNat 8 (i.val + 1))
        (w1c g.cecnt[(Fin.ofNat 8 (i.val + 1))] (bits x 63 32)) }
  else if 0x120 ≤ o ∧ o < 0x140 ∧ o % 8 = 4 then
    let i : Fin 8 := Fin.ofNat 8 ((o - 0x120) / 4)
    s.modRegs fun g => { g with cecnt := g.cecnt.set i (w1c g.cecnt[i] (bits x 31 0)) }
  else if o = 0x200 then s.modRegs fun g => { g with dage := x }
  else if o = 0x300 then s.modRegs fun g => { g with frbase := keepBits x 39 12 }
  else if o = 0x308 then s.modRegs fun g => g.setFrctl x
  else if o = 0x318 then s.modRegs fun g => { g with frtail := w32 }
  else if o = 0x320 then s.modRegs fun g => { g with frlost := w32 }
  else if o = 0x328 then s.modRegs fun g => { g with ctxbase := keepBits x 39 16 }
  else if o = 0x330 then s.act .tinv [x.toNat]
  else if o = 0x340 then s.writePreq x
  else if o = 0x348 then s.modRegs fun g => { g with pdl := w32 }
  else if o = 0x358 then s.act .dbfc [bits x 39 21]
  else if 0x500 ≤ o ∧ o < 0x600 ∧ o % 8 = 0 then
    let i : Fin 16 := Fin.ofNat 16 ((o - 0x500) / 16)
    s.modRegs fun g => { g with
      replica := g.replica.set i
        (if o % 16 = 0 then (keepBits x 16 0, g.replica[i].2) else (g.replica[i].1, keepBits x 47 0)) }
  else if 0x600 ≤ o ∧ o < 0x660 ∧ o % 8 = 0 then
    let p : Fin 12 := Fin.ofNat 12 ((o - 0x600) / 8)
    s.modRegs fun g => { g with
      portRetry := g.portRetry.set p (if bits x 31 2 = 0 then g.portRetry[p] else 0)
      portDowns := g.portDowns.set p (w1c g.portDowns[p] (bits x 47 32)) }
  else if o = 0x800 then s.modRegs fun g => g.setPwctl x
  else if o = 0x808 then
    s.modRegs fun g => { g with excr := w1c g.excr (bits x 39 24), excf := w1c g.excf (bits x 55 40) }
  else if o = 0x810 then s.modRegs fun g => { g with tlbase := keepBits x 39 12 }
  else if o = 0x818 then s.writeTlctl x
  else if o = 0x900 then s.writeDrst x
  else if o = 0x908 then s.modRegs fun g => { g with drdl := w32 }
  else if o = 0x1000 then s.writeMcmd x
  else if 0x1008 ≤ o ∧ o < 0x1020 ∧ o % 8 = 0 then
    s.modRegs fun g => { g with marg := g.marg.set (Fin.ofNat 3 ((o - 0x1008) / 8)) x }
  else if 0x10000 ≤ o ∧ o < 0x11000 ∧ o % 8 = 0 then
    s.writeMail (Fin.ofNat 64 ((o - 0x10000) / 64)) (Fin.ofNat 8 (o / 8)) x
  else if 0x20000 ≤ o ∧ o < 0x21000 ∧ o % 16 = 0 then s.writeQpctl ((o - 0x20000) / 16) x
  else if 0x20000 ≤ o ∧ o < 0x21000 ∧ o % 16 = 8 then
    let q := (o - 0x20000) / 16
    if (s.qp q).open_ then s else s.setQp q { s.qp q with base := keepBits x 47 0 }
  else if 0x30000 ≤ o ∧ o < 0x38000 ∧ o % 8 = 0 then s.writeCntctl ((o - 0x30000) / 8) x
  else if 0x40000 ≤ o ∧ o < 0x48000 ∧ o % 8 = 0 then
    s.setCnt ((o - 0x40000) / 8) { s.cnt ((o - 0x40000) / 8) with val := x }
  else if vecTable ≤ o ∧ o < vecTable + 0x8000 ∧ o % 16 = 8 then s.vecControl ((o - vecTable) / 16) (x.getLsbD 32)
  else s

/-- REGISTER_WRITE: numbers the BAR0 offset and the doubleword written; nothing arrives while the host link is down
(R8, R9, R380). -/
def execRegisterWrite (s : State) : Out :=
  .next (if s.regs.hostUp then s.regWrite (s.arg 0) (BitVec.ofNat 64 (s.arg 1)) else s)

/-! ## Invalidation, the dirty bitmap and queue pairs (R302, R309, R311, R327) -/

/-- What a TINV names (R302): context, first page and pages in units of 2 MiB. -/
structure Inval where
  cid  : BitVec 12
  page : Nat
  n    : Nat
  deriving DecidableEq, Repr

/-- The TINV doubleword (R302). -/
def invalOf (x : Nat) : Inval :=
  let cid := BitVec.ofNat 12 x
  let va := x / 2 ^ 21 % 2 ^ 27
  if x / 2 ^ 13 % 2 = 1 then ⟨cid, 0, 2 ^ 27⟩
  else if x / 2 ^ 12 % 2 = 1 then ⟨cid, va, 512⟩
  else ⟨cid, va, 1⟩

/-- A page of `m` units of 2 MiB shares a byte with what a TINV names. -/
def Inval.hits (v : Inval) (page m : Nat) : Bool := v.page < page + m && page < v.page + v.n

/-- The size of a mapping in units of 2 MiB. -/
def mapUnits (big : Bool) : Nat := if big then 512 else 1

/-- An owner entry without the dropped mappings of a TINV (R309, R310). -/
def Owner.drop (o : Owner) (v : Inval) : Option Owner :=
  let hit (c : BitVec 12) (p : Nat) : Bool := c == v.cid && v.hits p 1
  match o with
  | .writer c p => if hit c p then none else some (.writer c p)
  | .readers u ms =>
    match ms.filter fun m => !hit m.1 m.2 with
    | [] => none
    | r => some (.readers u r)

/-- The permission-buffer entries a TINV leaves. -/
def Inval.plb (v : Inval) (ps : List Plb) : List Plb :=
  ps.filter fun p => !(v.hits (if p.big then p.page - p.page % 512 else p.page) (mapUnits p.big))

/-- TINV: number the doubleword written. Refused for a pinned page; otherwise every translation cache and permission
buffer drops the named entries, owner entries of the dropped pages are freed, and BUSY stays until accesses issued
before are performed (R302, R309). -/
def execTinv (s : State) : Out :=
  let x := s.arg 0
  let v := invalOf x
  if s.regs.tinvBusy then .next s
  else if x / 2 ^ 13 % 2 = 0 ∧ x / 2 ^ 12 % 2 = 1 ∧ x / 2 ^ 21 % 2 ^ 9 ≠ 0 then .next s
  else if s.pins.any fun p => p.cid == v.cid && v.hits p.page (mapUnits p.big) then
    .next (s.modRegs fun g => { g with tinvPinned := true })
  else
    let s : State := { s with
      mtu := vmap (fun (m : Mtu) =>
        { m with
          tc := m.tc.filter fun (e : MtuEnt) =>
            !(e.cid == v.cid && v.hits (if e.big then e.page - e.page % 512 else e.page) (mapUnits e.big))
          owners := m.owners.filterMap fun o => (o.2.drop v).map fun n => (o.1, n) }) s.mtu
      cores := vmap (fun (k : Core) =>
        if k.vis.csr.cid = v.cid then { k with plb := v.plb k.plb, splb := vmap v.plb k.splb } else k) s.cores }
    let s := s.modRegs fun g => { g with tinvBusy := true, tinvPinned := false }
    .next (s.later 1 (s.choices.headD 0) .tinvComplete (.nums [v.cid.toNat, s.nextId]))

/-- A command that reads or writes memory (R309). -/
def Cmd.accesses (m : Cmd) : Bool := match m.op with
  | .tkJoin _ _ _ | .klaunch _ _ | .shapeAlloc _ _ _ | .shapeFree _ _ | .shapeCut _ _ _ _ | .shapeChain _ _ _ | .shapeQry _ _
  | .cqArm _ _ | .cntAdd _ _ | .cntWait _ _ | .rlInv _ _ | .nbswitch _ _ _ => false
  | _ => true

/-- An access a core issued before identifier `id` is outstanding. -/
def Core.accessBefore (k : Core) (id : Nat) : Bool :=
  k.loads.any (·.id < id) || k.ustores.any (·.id < id) || k.syncs.any (·.id < id)
    || k.cmds.any fun m => m.accesses && m.started && m.id < id

/-- TINV_COMPLETE: numbers CID and the first identifier issued after the TINV. BUSY clears once no earlier access of
the context is outstanding (R309). -/
def execTinvComplete (s : State) : Out :=
  let cid : BitVec 12 := BitVec.ofNat 12 (s.arg 0)
  if s.cores.toList.any fun k => k.vis.csr.cid == cid && k.accessBefore (s.arg 1) then
    .next (s.at_ (s.zc + 1) .tinvComplete s.ev)
  else .next (s.modRegs fun g => { g with tinvBusy := false })

/-- DBFC: number frame; its dirty bitmap is returned in DBRES and cleared, as one operation (R311). -/
def execDbfc (s : State) : Out :=
  let f := s.arg 0
  let d := frameIdx f
  let x := srd 0 f s.mtu[d].dirty
  .next ((s.modMtu d fun m => { m with dirty := sset 0 f 0 m.dirty }).modRegs fun g => { g with dbres := x })

/-- QPCTL_OPEN: numbers queue pair and the doubleword written; the pair opens empty with its tail at index 0 (R327). -/
def execQpctlOpen (s : State) : Out :=
  let q := s.arg 0
  let x : Dword := BitVec.ofNat 64 (s.arg 1)
  let p := s.qp q
  if p.open_ ∨ bits x 5 2 < 2 ∨ 12 < bits x 5 2 then .next s
  else
    .next (s.setQp q { p with
      open_ := true, err := p.err && !x.getLsbD 1, logn := bits x 5 2, cid := BitVec.ofNat 12 (bits x 17 6)
      rcid := BitVec.ofNat 12 (bits x 29 18), tail := 0, ents := [] })

end Sys2Proof.Machine
end

