-- ==== Sys2Proof/Machine/Operands.lean ====
section
/-!
DEFINITION. Operand forms: the registers an instruction reads and writes (R14, R16, R81-R86, R93, R125),
the writes that are still pending, and the address ranges an access word touches with the permission each
needs (R158, R159, R163-R179).
-/

namespace Sys2Proof.Machine

/-- Registers an instruction names: g, v and m registers it reads, and those it writes. -/
structure Uses where
  gr : List (Fin 64) := []
  gw : List (Fin 64) := []
  vr : List (Fin 16) := []
  vw : List (Fin 16) := []
  mr : List (Fin 8) := []
  mw : List (Fin 8) := []
  deriving DecidableEq, Repr

/-- `n` consecutive g registers (R81). -/
def gSpan (r : Fin 64) (n : Nat) : List (Fin 64) := (List.range n).map fun i => Fin.ofNat 64 (r.val + i)

/-- Reads of one or two g registers, write of one. -/
def usesC (d : Fin 64) (rs : List (Fin 64)) : Uses := { gr := rs, gw := [d] }

/-- Vector sources and destination under a mask. -/
def usesV (d : Fin 16) (rs : List (Fin 16)) (mk : Fin 8) : Uses := { vr := rs, vw := [d], mr := [mk] }

/-- The registers an instruction names. DESIGN CHOICE (log 72): the va and vb fields of a DQPUSH whose n names fewer
sources (R150) may hold any value, and the registers they name count as its sources. -/
def usesOf : Instr → Uses
  | .loop _ _ gc _ | .lbreak _ gc => { gr := [gc] }
  | .loopX _ _ gc _ _ | .lbreakX _ gc => { gr := [gx gc] }
  | .add d a b | .sub d a b | .and d a b | .or d a b | .xor d a b | .andn d a b | .shl d a b | .shr d a b
  | .sha d a b | .rol d a b | .min d a b | .max d a b | .minn d a b | .maxn d a b | .mul d a b | .mulh d a b
  | .mulhn d a b | .div d a b | .divn d a b | .rem d a b | .remn d a b | .sext d a b | .zext d a b
  | .addsh d a b => usesC d [a, b]
  | .sel d a b => usesC d [a, b, d]
  | .clz d a | .ctz d a | .popc d a => usesC d [a]
  | .addi d a _ | .andi d a _ | .ori d a _ | .xori d a _ | .shli d a _ | .shri d a _ | .shai d a _ => usesC d [a]
  | .li d _ => usesC d []
  | .lih d _ => usesC d [d]
  | .cmpEq d a b | .cmpNe d a b | .cmpLt d a b | .cmpLe d a b | .cmpLtn d a b | .cmpLen d a b => usesC d [a, b]
  | .cmpiEq d a _ | .cmpiNe d a _ | .cmpiLt d a _ | .cmpiLe d a _ | .cmpiLtn d a _ | .cmpiLen d a _ => usesC d [a]
  | .pbrg _ a | .brT _ a | .brZ _ a => { gr := [a] }
  | .csrr g _ => usesC g []
  | .csrw g _ | .csrs g _ | .csrc g _ => { gr := [g] }
  | .probeR d a _ | .probeW d a _ | .probeRw d a _ | .unpin d a => { gr := [d, a] }
  | .realign a => { gr := [a] }
  | .klaunch a _ => { gr := gSpan a 4 }
  | .tkTest d _ => usesC d []
  | .shapeAlloc _ a _ | .shapeCut _ a _ _ => { gr := [a] }
  | .shapeQry d _ => usesC d []
  | .cbset _ a _ => { gr := [a] }
  | .hbload _ a _ | .hbstore _ a _ | .hseed _ a => { gr := [a] }
  | .nbqr _ a _ | .nbrot _ a _ | .nbcarry _ a _ _ | .nbswitch _ a _ => { gr := gSpan a 4 }
  | .ld v _ _ => { vw := [v] }
  | .lds _ g _ _ => { gw := [g] }
  | .ldgStride v _ x => { gr := [x], vw := [v] }
  | .ldgGather v _ x j => { gr := [x], vr := [j], vw := [v] }
  | .lda v _ x _ | .chka v _ x _ => { gr := [x], vw := [v] }
  | .lsg _ g _ x => { gr := [x], gw := [g] }
  | .ldacq _ g _ range q => { gr := if range then gSpan q 2 else [], gw := [g] }
  | .ltv v _ x _ => { gr := [x], vw := [v] }
  | .laSet _ g | .laAddg _ g | .verchk _ g => { gr := [g] }
  | .cpCopy _ q | .cpSumFold _ q _ | .cpSumCrc _ q _ | .cpFill _ q _ | .cpLink _ q | .cpLinkFold _ q _
  | .cpLinkCrc _ q _ | .cpTileTo _ q _ | .cpTileFrom _ q _ => { gr := gSpan q 4 }
  | .st v _ _ => { vr := [v] }
  | .sts _ g _ _ => { gr := [g] }
  | .stxStride v _ x => { gr := [x], vr := [v] }
  | .stxScatter v _ x j => { gr := [x], vr := [v, j] }
  | .stt v _ x _ => { gr := [x], vr := [v] }
  | .ssg _ g _ x => { gr := [g, x] }
  | .strel _ g _ range q => { gr := g :: (if range then gSpan q 2 else []) }
  | .cmoClean _ g _ _ | .cmoInv _ g _ _ | .cmoClinv _ g _ _ => { gr := [g] }
  | .amoAdd _ x _ _ | .amoMin _ x _ _ | .amoMax _ x _ _ | .amoOr _ x _ _ | .amoAnd _ x _ _ | .amoXchg _ x _ _ =>
    { gr := [x] }
  | .amoCas _ x _ _ => { gr := gSpan x 2 }
  | .amorAdd _ q _ | .amorMin _ q _ | .amorMax _ q _ | .amorOr _ q _ | .amorAnd _ q _ | .amorXchg _ q _
  | .amorCas _ q _ => { gr := gSpan q 4 }
  | .waSet _ g | .waAddg _ g => { gr := [g] }
  | .cqPost _ q | .cqArm _ q | .cntAdd _ q | .cntWait _ q | .rlInv _ q => { gr := gSpan q 4 }
  | .vadd d a b mk _ | .vsub d a b mk _ | .vmul d a b mk _ | .vmin d a b mk _ | .vmax d a b mk _ => usesV d [a, b] mk
  | .vfma d a b mk _ | .vfms d a b mk _ | .vfnma d a b mk _ => usesV d [a, b, d] mk
  | .vunNeg d a mk _ | .vunAbs d a mk _ | .vunRcp d a mk _ | .vunRsq d a mk _ | .vunSqrt d a mk _ | .vunExp2 d a mk _
  | .vunLog2 d a mk _ | .vunTanh d a mk _ | .vunSigm d a mk _ | .vunNot d a mk _ => usesV d [a] mk
  | .vcmpEq d a b _ _ | .vcmpNe d a b _ _ | .vcmpLt d a b _ _ | .vcmpLe d a b _ _ | .vcmpGt d a b _ _
  | .vcmpGe d a b _ _ | .vcmpUo d a b _ _ => { vr := [a, b], mw := [d] }
  | .vsel d a b mk _ | .vand d a b mk _ | .vor d a b mk _ | .vxor d a b mk _ | .vshl d a b mk _ | .vshr d a b mk _
  | .vsha d a b mk _ | .vperm d a b mk _ | .vscalex d a b mk _ => usesV d [a, b] mk
  | .vcvt d a _ mk _ => usesV d [a] mk
  | .vcvts d a b _ => { vr := [a, b], vw := [d] }
  | .vcadd d a b mk => usesV d [a, b] mk
  | .vcsplit d a mk => usesV d [a] mk
  | .vqdx d a b _ => { vr := [a], vw := [d, b] }
  | .vdqdx d a b _ => { vr := [a, b], vw := [d] }
  | .vredSum d a mk _ | .vredMax d a mk _ | .vredMin d a mk _ => usesV d [a] mk
  | .vrote d a g mk _ => { gr := [gx g], vr := [a], vw := [d], mr := [mk] }
  | .vbcast d g mk _ => { gr := [gx g], vw := [d], mr := [mk] }
  | .viota d mk _ => usesV d [] mk
  | .vmom1 d a g mk _ | .vmom2 d a g mk _ | .vadstep d a g mk _ =>
    { gr := [gx g], vr := [a, d], vw := [d], mr := [mk] }
  | .vrng d a mk => usesV d [a] mk
  | .mlogAnd d a b | .mlogOr d a b | .mlogXor d a b => { mr := [a, b], mw := [d] }
  | .mlogNot d a => { mr := [a], mw := [d] }
  | .mlogPopc d b => { mr := [b], vw := [d] }
  | .dqpush a b mk _ => { vr := [a, b], mr := [mk] }
  | .dqdrain d a b => { vw := [d, a, b] }
  | .vaccrd d _ g mk _ => { gr := [gx g], vw := [d], mr := [mk] }
  | .vaccwr _ a g mk => { gr := [gx g], vr := [a], mr := [mk] }
  | _ => {}

/-! ## Pending writes (R16, R93, R125) -/

/-- A C result for a g register has not landed (R93). -/
def Core.cPending (k : Core) (r : Fin 64) : Bool := r != 0 && k.cpend.any (·.d == r)

/-- A load into a g register has not landed (R16). -/
def Core.gLoading (k : Core) (r : Fin 64) : Bool :=
  r != 0 && (k.loads.any (fun l => match l.val with
      | .g d _ => d == r
      | _ => false)
    || k.syncs.any fun m => match m.op with
      | .ldacq _ g _ _ _ => g == r
      | _ => false)

/-- A write of a g register is pending (R16, R93). -/
def Core.gPending (k : Core) (r : Fin 64) : Bool := k.cPending r || k.gLoading r

/-- A load into a v register has not landed (R16). -/
def Core.vLoading (k : Core) (r : Fin 16) : Bool :=
  k.loads.any fun l => match l.val with
    | .v d _ => d == r
    | _ => false

/-- An X write of a v register has not landed (R125). -/
def Core.vWriting (k : Core) (r : Fin 16) : Bool :=
  k.xpend.any fun x => x.writes.any fun w => match w with
    | .v d _ | .vm d _ _ => d == r
    | _ => false

/-- An X write of a mask register has not landed (R125); one of m0 is discarded (R14). -/
def Core.mWriting (k : Core) (r : Fin 8) : Bool :=
  r != 0 && k.xpend.any fun x => x.writes.any fun w => match w with
    | .m d _ => d == r
    | _ => false

/-- A word of C, L or W finds its registers free of pending writes, and a TRAP every earlier C word completed (R16, R93, R109,
R125, R163). -/
def Core.operandsReady (k : Core) (cl : Cl) (i : Instr) : Bool :=
  let u := usesOf i
  u.gr.all (fun r => !k.gPending r)
    && (cl != .c || u.gw.all fun r => !k.cPending r)
    && u.vr.all (fun r => !k.vWriting r && !k.vLoading r)
    && u.vw.all (fun r => !k.vWriting r)
    && match i with
      | .trap _ => k.cpend.isEmpty
      | _ => true

/-- A core with the pending writes of the start of the cycle (R16, R232). -/
def Core.atStart (k : Core) : Core := { k with loads := k.was.loads, cpend := k.was.cpend, syncs := k.was.syncs }

/-- An X word names a register with a write pending at the start of the cycle: one of a bundle issues as if alone (R16, R93,
R125, R233). -/
def Core.xConflict (k : Core) (i : Instr) : Bool :=
  let u := usesOf i
  let k := k.atStart
  u.gr.any k.gPending
    || (u.vr ++ u.vw).any (fun r => k.vWriting r || k.vLoading r)
    || (u.mr ++ u.mw).any fun r => k.mWriting r

/-! ## Address ranges (R158, R159) -/

/-- A range an access touches, and what it needs of its pages. -/
structure Span where
  a    : Nat
  n    : Nat
  need : Need
  deriving DecidableEq, Repr

/-- An address register of L (R14, R162). -/
def State.la (s : State) (a : Fin 16) : Dword := s.me.la[a]

/-- An address register of W (R14, R162). -/
def State.wa (s : State) (a : Fin 16) : Dword := s.me.wa[a]

/-- Bytes of a vector register (R163). -/
def vBytes : Nat := 24576

/-- imm13 scaled by 4 (R163). -/
def imm13 (i : BitVec 13) : Dword := i.signExtend 64 * 4

/-- Bytes of a scalar load (R167). -/
def LdSize.bytes : LdSize → Nat
  | .b | .bs => 1 | .h | .hs => 2 | .w | .ws => 4 | .d => 8

/-- The pitch of a strided form, signed (R164). -/
def pitchOf (x : Dword) : Int := x.toInt

/-- The 48 row addresses of a strided form (R164); an address below 0 wraps past every limit. -/
def strideRows (base : Dword) (pitch : Int) : List Nat :=
  (List.range 48).map fun q => (base + BitVec.ofInt 64 (q * pitch)).toNat

/-- The element addresses of a gather or scatter: none for a skip (R164). -/
def elemAddrs (base off : Dword) (idx : Runs Word) : List (Option Nat) :=
  (rlist (rtake 6144 idx)).map fun i =>
    if i = 0xFFFFFFFF then none else some (base + off + i.zeroExtend 64).toNat

/-- The ranges a scattered form touches. -/
def elemSpans (need : Need) (as : List (Option Nat)) : List Span :=
  as.filterMap fun a => a.map fun x => ⟨x, 4, need⟩

/-- A valid LDA entry starts at the address CHKA names: no access is made (R166). -/
def Core.advanced (k : Core) (n : Fin 32) (a : Nat) : Bool := k.lda[n].map (·.1) == some a

/-- Ranges of the flag and the cleaned range of an acquire or release (R172, R173). -/
def flagSpans (a : Nat) (need : Need) (range : Bool) (b n : Nat) : List Span :=
  ⟨a, 8, need⟩ :: (if range then [⟨b, n, .access⟩] else [])

/-- Second register of a pair. -/
def State.rg2 (s : State) (q : Fin 64) : Nat := (s.rg (Fin.ofNat 64 (q.val + 1))).toNat

/-- Bytes of a slot's image with its regions (R208). -/
def Slot.imageBytes (x : Slot) : Nat := 32 + 2 * x.rows.toNat * x.rank.toNat * (if x.pready then 2 else 1)

/-- DIM of a Nimbus auxiliary word (R210). -/
def nbDim (x : Dword) : Nat := x.toNat / 2 ^ 32 % 2 ^ 24

/-- Ranges of FP32 matrices of a Nimbus command on a slot (R210-R213). -/
def nbSpans (x : Slot) (i : Instr) (q : Dword × Dword × Dword × Dword) : List Span :=
  let r := x.rank.toNat
  let m := nbDim q.2.2.2
  match i with
  | .nbqr _ _ _ => [⟨q.1.toNat, 4 * m * x.kw.toNat, .read⟩, ⟨q.2.1.toNat, 4 * m * r, .write⟩]
  | .nbrot _ _ _ =>
    [⟨q.1.toNat, 4 * m * r, .read⟩, ⟨q.2.1.toNat, 4 * m * r, .read⟩, ⟨q.2.2.1.toNat, 4 * r * r, .write⟩]
  | .nbcarry _ _ reset _ =>
    [⟨q.1.toNat, 4 * r * r, .read⟩, ⟨q.2.1.toNat, 4 * r * m, .rw⟩,
      ⟨q.2.2.1.toNat, 4 * r * m, if reset then .write else .rw⟩]
  | _ => []

/-- The quad at `q` (R81). -/
def State.quadAt (s : State) (q : Fin 64) : Dword × Dword × Dword × Dword :=
  let r (i : Nat) : Dword := s.rg (Fin.ofNat 64 (q.val + i))
  (r 0, r 1, r 2, r 3)

/-- The ranges an access word touches and what it needs of their pages (R159). -/
def State.spans (s : State) (i : Instr) : List Span :=
  match i with
  | .ld _ a e => [⟨(s.la a + imm13 e).toNat, vBytes, .read⟩]
  | .lds a _ sz e => [⟨(s.la a + BitVec.ofNat 64 (e.toNat * LdSize.bytes sz)).toNat, LdSize.bytes sz, .read⟩]
  | .ldgStride _ a x => (strideRows (s.la a) (pitchOf (s.rg x))).map fun r => ⟨r, 512, .read⟩
  | .ldgGather _ a x j => elemSpans .read (elemAddrs (s.la a) (s.rg x) s.me.v[j])
  | .lda _ a x _ => [⟨(s.la a + s.rg x).toNat, vBytes, .read⟩]
  | .chka _ a x n =>
    let b := (s.la a + s.rg x).toNat
    if s.me.advanced n b then [] else [⟨b, vBytes, .read⟩]
  | .ldb a _ n => [⟨(s.la a).toNat, 128 * (n.toNat + 1), .read⟩]
  | .lsg a _ sz x => [⟨(s.la a + s.rg x).toNat, LdSize.bytes sz, .read⟩]
  | .ldacq a _ _ range q => flagSpans (s.la a).toNat .read range (s.rg q).toNat (s.rg2 q)
  | .verchk a _ => [⟨(s.la a).toNat, 8, .read⟩]
  | .st _ a e => [⟨(s.wa a + imm13 e).toNat, vBytes, .write⟩]
  | .sts a _ sz e => [⟨(s.wa a + BitVec.ofNat 64 (e.toNat * StSize.bytes sz)).toNat, StSize.bytes sz, .write⟩]
  | .stxStride _ a x => (strideRows (s.wa a) (pitchOf (s.rg x))).map fun r => ⟨r, 512, .write⟩
  | .stxScatter _ a x j => elemSpans .write (elemAddrs (s.wa a) (s.rg x) s.me.v[j])
  | .ssg a _ sz x => [⟨(s.wa a + s.rg x).toNat, StSize.bytes sz, .write⟩]
  | .strel a _ _ range q => flagSpans (s.wa a).toNat .write range (s.rg q).toNat (s.rg2 q)
  | .cmoClean a g _ _ => [⟨(s.wa a).toNat, (s.rg g).toNat, .access⟩]
  | .cmoInv a g _ _ | .cmoClinv a g _ _ => [⟨(s.wa a).toNat, (s.rg g).toNat, .write⟩]
  | .amoAdd a _ dw _ | .amoMin a _ dw _ | .amoMax a _ dw _ | .amoOr a _ dw _ | .amoAnd a _ dw _ | .amoXchg a _ dw _
  | .amoCas a _ dw _ => [⟨(s.wa a).toNat, if dw then 8 else 4, .rw⟩]
  | .hbload _ a _ => [⟨(s.rg a).toNat, 32, .read⟩]
  | .hbstore h a _ => [⟨(s.rg a).toNat, s.me.old.slot[h].imageBytes, .write⟩]
  | .nbqr _ a h | .nbrot _ a h | .nbcarry _ a _ h => nbSpans s.me.old.slot[h] i (s.quadAt a)
  | .cqPost _ q => [⟨(s.quadAt q).1.toNat, 64, .read⟩]
  | _ => []

/-- The range stays below 2⁴⁸ (R158). -/
def Span.fits (x : Span) : Bool := x.n == 0 || x.a + x.n ≤ 2 ^ 48

/-- The pages of ranges below 2⁴⁸, each once. -/
def spanPages (xs : List Span) : List Nat :=
  ((xs.filter (·.fits)).map fun x => pagesOf x.a x.n).flatten.dedup

/-- The pages an access word still waits for (R159). -/
def State.awaits (s : State) (i : Instr) : List Nat := s.me.unknown s.turn.cl (spanPages (s.spans i))

/-- The first range whose pages refuse it: cause and access address (R159). -/
def State.refusal (s : State) (xs : List Span) : Option (Nat × Nat) :=
  xs.findSome? fun x =>
    (s.me.refused s.turn.cl (pagesOf x.a x.n) x.need).map fun e => (e.1, max e.2 x.a)

/-- An access word (R158, R159): past 2⁴⁸ it traps; while a page is unknown it has not issued and
nothing changes; a refusing page is its precise fault; else `go`. -/
def State.access (s : State) (xs : List Span) (go : State) : State :=
  if !xs.all (·.fits) then s.illegal
  else if (spanPages xs).any fun p => s.dieBusy (homeDie (p * 2 ^ 21)).val then
    s.endCtx s.csr.cid codeDieReset (zenithOf s.turn.core)
  else if !(s.me.unknown s.turn.cl (spanPages xs)).isEmpty then s
  else
    match s.refusal xs with
    | some (cause, a) => s.raiseAt cause a
    | none => go

end Sys2Proof.Machine
end

