-- ==== Sys2Proof/Machine/Load.lean ====
section
/-!
DEFINITION. The L cluster's own words (R160-R172, R174, R179) and the events that complete them. A load binds its
value at its issue and lands later (R273; log 10).
-/

namespace Sys2Proof.Machine

/-! ## Stalls of the memory queues -/

/-- The most line requests a core has outstanding (R160). A word of more lines counts as this many (log 16). -/
def maxLines : Nat := 3072

/-- Lines that share a byte with `[a, a + n)`, as many as count. -/
def lineCount (a n : Nat) : Nat := if n = 0 then 0 else min maxLines ((a + n - 1) / 128 - a / 128 + 1)

/-- Line requests of a pending command of L or W (R160). -/
def Cmd.lines (m : Cmd) : Nat :=
  min maxLines <|
  let arg (i : Nat) : Nat := m.args.getD i 0
  match m.op with
  | .ldb _ _ _ => arg 1
  | .cmoClean _ _ _ _ | .cmoInv _ _ _ _ | .cmoClinv _ _ _ _ => lineCount (arg 0) (arg 1)
  | .amoAdd _ _ _ _ | .amoMin _ _ _ _ | .amoMax _ _ _ _ | .amoOr _ _ _ _ | .amoAnd _ _ _ _ | .amoXchg _ _ _ _
  | .amoCas _ _ _ _ | .verchk _ _ => 1
  | .ldacq _ _ _ _ _ | .strel _ _ _ _ _ => 1 + lineCount (arg 1) (arg 2)
  | _ => 0

/-- Line requests of the pending words that `p` picks by their identifiers: of loads, UNCACHED stores, and the commands and
holding words of L and W (R160). -/
def Core.requestsOf (k : Core) (p : Nat → Bool) : Nat :=
  ((k.loads.filter fun l => p l.id).map (·.lines)).sum
    + (((k.ustores.filter fun u => p u.id).map fun u => lineOf u.addr).dedup).length
    + (((k.cmds ++ k.syncs).filter fun m => p m.id).map Cmd.lines).sum

/-- The line requests of a pending word are among the 3072 that may be outstanding. Only the word of W in a bundle can stand
outside them, whose word of L took them in the same cycle: it has issued (R232), and its requests wait until enough retire
(R160; log 16). -/
def Core.sent (k : Core) (id : Nat) : Bool := k.requestsOf (· ≤ id) ≤ maxLines

/-- Line requests outstanding: as many as may be (R160). -/
def Core.outLines (k : Core) : Nat := min maxLines (k.requestsOf fun _ => true)

/-- Every way of the line's set is held by a pending block fill, and the line is of none (R168). -/
def Core.noWay (k : Core) (la : Nat) : Bool := 16 ≤ (k.heldWays la).length && !k.filling la

/-- A line waits for a pending block fill or an UNCACHED store (R168, R275, R306). -/
def Core.lineBusy (k : Core) (la : Nat) : Bool :=
  k.filling la || k.noWay la || k.ustores.any fun u => (linesOf u.addr (rlen u.bytes)).contains la

/-- The lines of ranges, each once. -/
def spanLines (xs : List Span) : List Nat :=
  ((xs.filter (·.fits)).map fun x => linesOf x.a x.n).flatten.dedup

/-- `n` more line requests would pass the limit (R160). -/
def Core.noLines (k : Core) (n : Nat) : Bool := maxLines < k.outLines + min n maxLines

/-- A load waits: a busy line, or too many line requests (R160). -/
def Core.loadBusy (k : Core) (lines : List Nat) : Bool := lines.any k.lineBusy || k.noLines lines.length

/-- What FENCE at a scope waits for (R175). -/
def Core.fenced (k : Core) (sc : Scope) : Bool :=
  let amo (m : Cmd) : Bool := match m.op with
    | .amoAdd _ _ _ _ | .amoMin _ _ _ _ | .amoMax _ _ _ _ | .amoOr _ _ _ _ | .amoAnd _ _ _ _ | .amoXchg _ _ _ _
    | .amoCas _ _ _ _ => true
    | _ => false
  let amor (m : Cmd) : Bool := match m.op with
    | .amorAdd _ _ _ | .amorMin _ _ _ | .amorMax _ _ _ | .amorOr _ _ _ | .amorAnd _ _ _ | .amorXchg _ _ _
    | .amorCas _ _ _ => true
    | _ => false
  k.stts.isEmpty && k.ustores.isEmpty && (match sc with
    | .package => !k.cmds.any amo
    | .system => !k.cmds.any (fun m => amo m || amor m)
    | _ => true)

/-- Some of the lines lies in a block whose fill is pending: what acts on copies of its lines waits for the fill, which would
bring back what they held before (R168, R176, R177). -/
def Core.fillingAny (k : Core) (ls : List Nat) : Bool := ls.any k.filling

/-- A block with a pending fill overlaps lines (R168). -/
def Core.blockPending (k : Core) (line n : Nat) : Bool :=
  k.blocks.any fun b => b.fill && b.line < line + n && line < b.line + b.n

/-- A word of L or W that enters no queue: it stalls behind no PROBE (R114). -/
def entersNone : Instr → Bool
  | .loop _ _ _ _ | .lbreak _ _ | .lbreakA _ | .waitk _ | .nop | .laSet _ _ | .laAdd _ _ | .laAddg _ _ | .waSet _ _
  | .waAdd _ _ | .waAddg _ _ | .markL | .markW | .fence _ => true
  | _ => false

/-- C of the core stalls at a PROBE (R114). -/
def Core.probing (k : Core) : Bool := (k.holdOf .c).probing

/-- Lines of ranges that lie in UNCACHED pages: each is a request of the store (R160, R306). -/
def State.uncLines (s : State) (xs : List Span) : Nat :=
  ((spanLines xs).filter fun la => s.me.uncached .w (la * 128 / 2 ^ 21)).length

/-- A store waits: UNCACHED stores before it, no way for a line, or too many line requests (R160, R168, R306). -/
def State.storeBusy (s : State) (i : Instr) : Bool :=
  !s.me.ustores.isEmpty || (spanLines (s.spans i)).any s.me.noWay || s.me.noLines (s.uncLines (s.spans i))

/-- A word of L or W stalls on its queue's rules (R160, R166, R168, R175, R274, R306). -/
def State.queueStall (s : State) (i : Instr) : Bool :=
  let k := s.me
  match i with
  | .ld _ _ _ | .lds _ _ _ _ | .ldgStride _ _ _ | .ldgGather _ _ _ _ | .lda _ _ _ _ | .lsg _ _ _ _ | .ldacq _ _ _ _ _
  | .verchk _ _ => k.loadBusy (spanLines (s.spans i))
  | .chka _ _ _ _ =>
    let ls := spanLines (s.spans i)
    !ls.isEmpty && (!k.ustores.isEmpty || k.loadBusy ls)
  | .ldb a _ n =>
    let la := lineOf (s.la a).toNat
    k.blockPending la (n.toNat + 1) || (List.range (n.toNat + 1)).any (fun j => k.noWay (la + j)) || k.noLines (n.toNat + 1)
  | .fence sc => !k.fenced sc
  | .st _ _ _ | .sts _ _ _ _ | .stxStride _ _ _ | .stxScatter _ _ _ _ | .ssg _ _ _ _ => s.storeBusy i
  | .strel _ _ _ _ _ | .cmoClean _ _ _ _ | .cmoInv _ _ _ _ | .cmoClinv _ _ _ _ =>
    !k.ustores.isEmpty || k.noLines (((s.spans i).map fun x => lineCount x.a x.n).sum)
  | .amoAdd _ _ _ _ | .amoMin _ _ _ _ | .amoMax _ _ _ _
  | .amoOr _ _ _ _ | .amoAnd _ _ _ _ | .amoXchg _ _ _ _ | .amoCas _ _ _ _ => !k.ustores.isEmpty || k.noLines 1
  | .stt _ _ _ _ | .amorAdd _ _ _ | .amorMin _ _ _ | .amorMax _ _ _ | .amorOr _ _ _ | .amorAnd _ _ _ | .amorXchg _ _ _ | .amorCas _ _ _ | .cqPost _ _ | .cqArm _ _
  | .cntAdd _ _ | .cntWait _ _ | .rlInv _ _ => !k.ustores.isEmpty
  | _ => false

/-- The head of L or W stalls, as the cycle starts: on its queue's rules, or behind a PROBE of C (R114, R160, R232). -/
def State.headStall (s : State) (i : Instr) : Bool :=
  (s.turn.cl != .c && s.me.probing && !entersNone i) || s.queueStall i

/-- A word that was ready stalls after all, on what the word of L of the same cycle has taken; one of a bundle does not: all
four issue (R160, R168, R232, R233). -/
def State.memStall (s : State) (i : Instr) : Bool := !s.turn.hdr.sync && s.queueStall i

/-! ## Binding and landing -/

/-- Read ranges for the issuing core, in order: their bytes, or the address a translation refuses with its cause, and the
lines that served with their levels. -/
def State.readAll (s : State) (xs : List (Nat × Nat)) : State × (List Nat ⊕ (Nat × Nat)) × List (Nat × Level) :=
  let c := s.turn.core
  let cid := s.csr.cid
  let unc (p : Nat) : Bool := s.me.uncached .l p
  xs.foldl
    (fun acc x =>
      match acc with
      | (s, .inr e, ls) => (s, .inr e, ls)
      | (s, .inl vs, ls) =>
        match s.loadBytes c cid x.1 x.2 unc with
        | (s, .inl v, l) => (s, .inl (vs ++ [v]), ls ++ l)
        | (s, .inr e, l) => (s, .inr e, ls ++ l)) (s, .inl [], [])

/-- Each line once, as it was first served. -/
def firstServed : List (Nat × Level) → List (Nat × Level)
  | [] => []
  | x :: r => x :: (firstServed r).filter fun y => y.1 != x.1

/-- An armed injection of TARGET 1 or 2 meets a block-cache line read by L of a core (R369): corrected and counted,
or uncorrectable. -/
def State.loadInject (s : State) (c : Fin 64) (served : List (Nat × Level)) : State × Bool :=
  let x := (s.core c).old.csr.errinj.toNat
  let t := x / 2 % 8
  match served.find? (·.2 == .block) with
  | some (la, _) =>
    if x % 2 = 1 ∧ (t = 1 ∨ t = 2) then
      let s := s.modCore c Core.disarm
      if t = 1 then (s.correctable (zenithOf c), false)
      else (s.uncorrectable 3 (zenithOf c) (some (s.core c).vis.csr.cid) c.val la (la * 128), true)
    else (s, false)
  | none => (s, false)

/-- A load's value is bound (R160, R239, R240): its landing comes at an open count of its bound. -/
def State.bindLoad (s0 s : State) (val : LoadVal) (served : List (Nat × Level)) : State :=
  let c := s.turn.core
  let lines := firstServed served
  let pages := (lines.map fun l => l.1 * 128 / 2 ^ 21).dedup
  let bound := boundOf false c (lines.map fun l => (l.2, homeIdx (l.1 * 128))) (s0.missing s.csr.cid pages)
  let (s, bad) := s.loadInject c lines
  if bad then s
  else
    ((s.modMe fun k => { k with loads := k.loads ++ [⟨s.nextId, val, min lines.length maxLines⟩] }).bump).within bound .loadLands
      (.of c s.nextId)

/-- A load word whose address checks have passed: its pages, its stalls, then binding its value and what
else `f` does at its issue. -/
def loadWord (i : Instr) (xs : List (Nat × Nat)) (val : List Nat → LoadVal) (f : State → State) (s : State) : Out :=
  .next (s.access (s.spans i)
    (if s.memStall i then s
    else
      match s.readAll xs with
      | (_, .inr (a, cause), _) => s.raiseAt cause a
      | (t, .inl vs, served) => State.issuedFrom s (f (s.bindLoad t (val vs) served))))

/-- A vector register of bytes. -/
def vecOf (x : Nat) : Runs Word := rof (natWords x 6144)

/-- The destination of a load. -/
def LoadVal.sameDest : LoadVal → LoadVal → Bool
  | .g a _, .g b _ => a == b
  | .v a _, .v b _ => a == b
  | _, _ => false

/-- LOAD_LANDS: load `ev.id` of core `ev.core` writes its register; earlier loads into the same register have
landed before it (R16, R160, R273). -/
def execLoadLands (s : State) : Out :=
  let c := s.ev.core
  match (s.core c).loads.find? (·.id == s.ev.id) with
  | none => .next s
  | some l =>
    .next (s.modCore c fun k =>
      let k := { k with loads := k.loads.filter fun x =>
        x.id != l.id && !(x.id < l.id && x.val.sameDest l.val) }
      match l.val with
      | .g r x => k.modVis (·.wg r x)
      | .v r x => { k with v := k.v.set r x })

/-! ## Address registers (R162) -/

/-- Set an address register of L. -/
def setLa (a : Fin 16) (x : Dword) (s : State) : State := s.modMe fun k => { k with la := k.la.set a x }

def execLaSet (a : Fin 16) (g : Fin 64) (s : State) : Out := .next (s.issued (setLa a (s.rg g)))
def execLaAdd (a : Fin 16) (e : BitVec 13) (s : State) : Out := .next (s.issued (setLa a (s.la a + e.signExtend 64)))
def execLaAddg (a : Fin 16) (g : Fin 64) (s : State) : Out := .next (s.issued (setLa a (s.la a + s.rg g)))

/-! ## Vector loads (R163, R164) -/

/-- LD (R163). -/
def execLd (v a : Fin 16) (e : BitVec 13) (s : State) : Out :=
  let x := (s.la a + imm13 e).toNat
  if x % 4 ≠ 0 then .next s.illegal
  else loadWord (.ld v a e) [(x, vBytes)] (fun vs => .v v (vecOf (vs.headD 0))) id s

/-- LDG.STRIDE (R164). -/
def execLdgStride (v a : Fin 16) (x : Fin 64) (s : State) : Out :=
  let rows := strideRows (s.la a) (pitchOf (s.rg x))
  if rows.any (· % 4 != 0) then .next s.illegal
  else
    loadWord (.ldgStride v a x) (rows.map fun r => (r, 512)) (fun vs => .v v (rof ((vs.map fun y => natWords y 128).flatten)))
      id s

/-- LDG.GATHER (R164). -/
def execLdgGather (v a : Fin 16) (x : Fin 64) (j : Fin 16) (s : State) : Out :=
  let as := elemAddrs (s.la a) (s.rg x) s.me.v[j]
  let fill : List (Option Nat) → List Nat → List Word := fun as vs =>
    (as.foldl (fun (acc : List Word × List Nat) o =>
      match o with
      | none => (0 :: acc.1, acc.2)
      | some _ => (BitVec.ofNat 32 (acc.2.headD 0) :: acc.1, acc.2.tail)) ([], vs)).1.reverse
  if as.any (fun o => o.any (· % 4 != 0)) || (rlist (rtake 6144 s.me.v[j])).any fun i => i != 0xFFFFFFFF && i.toNat % 4 != 0 then
    .next s.illegal
  else
    loadWord (.ldgGather v a x j) (as.filterMap fun o => o.map fun y => (y, 4)) (fun vs => .v v (rof (fill as vs))) id s

/-! ## Advance loads (R165, R166) -/

/-- Enter an address-table entry. -/
def enterLda (n : Fin 32) (a : Nat) (s : State) : State := s.modMe fun k => { k with lda := k.lda.set n (some (a, s.zc)) }

/-- A range invalidates every valid entry of an earlier cycle that shares a byte with it (R165). -/
def Core.dropLda (k : Core) (zc a n : Nat) : Core :=
  { k with lda := vmap (fun e => match e with
      | some (b, t) => if t < zc && b < a + n && a < b + vBytes && n != 0 then none else e
      | none => none) k.lda }

/-- LDA (R165). -/
def execLda (v a : Fin 16) (x : Fin 64) (n : Fin 32) (s : State) : Out :=
  let y := (s.la a + s.rg x).toNat
  if y % 4 ≠ 0 then .next s.illegal
  else loadWord (.lda v a x n) [(y, vBytes)] (fun vs => .v v (vecOf (vs.headD 0))) (enterLda n y) s

/-- CHKA (R166). -/
def execChka (v a : Fin 16) (x : Fin 64) (n : Fin 32) (s : State) : Out :=
  let y := (s.la a + s.rg x).toNat
  if s.me.advanced n y then .next (s.issued id)
  else if y % 4 ≠ 0 then .next s.illegal
  else loadWord (.chka v a x n) [(y, vBytes)] (fun vs => .v v (vecOf (vs.headD 0))) (enterLda n y) s

/-! ## Scalar loads (R167) -/

/-- Zero- or sign-extension of a loaded value (R167). -/
def LdSize.extend (sz : LdSize) (x : Nat) : Dword :=
  match sz with
  | .b => BitVec.ofNat 64 (x % 2 ^ 8)
  | .h => BitVec.ofNat 64 (x % 2 ^ 16)
  | .w => BitVec.ofNat 64 (x % 2 ^ 32)
  | .d => BitVec.ofNat 64 x
  | .bs => (BitVec.ofNat 8 x).signExtend 64
  | .hs => (BitVec.ofNat 16 x).signExtend 64
  | .ws => (BitVec.ofNat 32 x).signExtend 64

/-- A scalar load at an address (R167). -/
def scalarLoad (i : Instr) (g : Fin 64) (sz : LdSize) (a : Nat) (s : State) : Out :=
  if a % LdSize.bytes sz ≠ 0 then .next s.illegal
  else loadWord i [(a, LdSize.bytes sz)] (fun vs => .g g (LdSize.extend sz (vs.headD 0))) id s

def execLds (a : Fin 16) (g : Fin 64) (sz : LdSize) (e : BitVec 8) (s : State) : Out :=
  scalarLoad (.lds a g sz e) g sz (s.la a + BitVec.ofNat 64 (e.toNat * LdSize.bytes sz)).toNat s

def execLsg (a : Fin 16) (g : Fin 64) (sz : LdSize) (x : Fin 64) (s : State) : Out :=
  scalarLoad (.lsg a g sz x) g sz (s.la a + s.rg x).toNat s

/-! ## Blocks (R168) -/

/-- The level that would serve a whole line. -/
def State.lineLevel (t : State) (c : Fin 64) (cid : BitVec 12) (la : Nat) : Level :=
  if (lineOr (t.core c).bc cid la).holds fullMask then .block
  else if (lineOr (t.rdcOf (zIdx c)) cid la).holds fullMask then .rdc
  else if (lineOr t.home cid la).holds fullMask then .home
  else .memory

/-- The bytes that fill the lines `[la, la + n)` of a block, bound in order: of each line the bytes its copy holds and the
rest from below; or the address a translation refuses with its cause (R160, R168, R273). -/
def State.fetchBlock (s : State) (c : Fin 64) (cid : BitVec 12) (la n : Nat) : State × (List Nat ⊕ (Nat × Nat)) :=
  (List.range n).foldl
    (fun acc j =>
      match acc with
      | (s, .inr e) => (s, .inr e)
      | (s, .inl ds) =>
        let b := lineOr (s.core c).bc cid (la + j)
        if b.whole then (s, .inl (ds ++ [b.data.toNat]))
        else
          match s.belowLine c cid (la + j) (fullMask &&& ~~~b.valid) with
          | (s, .got d _ _) => (s, .inl (ds ++ [(b.fill d).data.toNat]))
          | (s, .refused e) => (s, .inr ((la + j) * 128, e))) (s, .inl [])

/-- LDB (R161, R168): the block is declared for the lines whose pages are not UNCACHED (R306), blocks it overlaps leave, and
its bytes are bound at its issue (R273); a translation that has gone is its precise fault (R159). -/
def execLdb (a : Fin 16) (k : Fin 64) (n : BitVec 6) (s : State) : Out :=
  let x := (s.la a).toNat
  let lines := n.toNat + 1
  let i := Instr.ldb a k n
  if s.taken k ∨ x % 128 ≠ 0 then .next s.illegal
  else
    .next (s.access (s.spans i)
      (if s.memStall i then s
      else
        let c := s.turn.core
        let cid := s.csr.cid
        let t := (s.me.blocksOn (x / 128) lines).foldl (fun t b => t.evictBlock c b) s
        let cached := ((List.range lines).map (x / 128 + ·)).filter fun la => !s.me.uncached .l (la * 128 / 2 ^ 21)
        let first := cached.headD (x / 128)
        let m := cached.length
        let served := (List.range lines).map fun j => (t.lineLevel c cid (x / 128 + j), homeIdx (x + 128 * j))
        let bound := boundOf false c served (t.missing cid (pagesOf x (128 * lines)))
        match t.fetchBlock c cid first m with
        | (_, .inr (e, cause)) => s.raiseAt cause e
        | (t, .inl ds) =>
          let blk := if m = 0 then [] else [Block.mk first m true]
          let t := t.modMe fun q => { q.pend k with blocks := q.blocks ++ blk }
          let t := cached.foldl (fun (t : State) la => t.makeRoom c cid la) t
          let cmd := { t.newCmd i k [first, m] with
            started := true, data := rof ((ds.map (natBytes 128)).flatten) }
          State.issuedFrom s ((t.addCmd cmd).within bound .ldbFillDone (.of c t.nextId))))

/-- The fill of the block from line `la` is no longer pending (R168). -/
def Core.endFill (k : Core) (la : Nat) : Core :=
  { k with blocks := k.blocks.map fun b => if b.line == la then { b with fill := false } else b }

/-- LDB_FILL_DONE: the bytes of the block of command `ev.id` of core `ev.core` come in under the merge rule, and its
token becomes DONE (R160, R168). -/
def execLdbFillDone (s : State) : Out :=
  let c := s.ev.core
  match (s.core c).cmd s.ev.id with
  | none => .next s
  | some m =>
    let cid := (s.core c).vis.csr.cid
    let la := m.args.getD 0 0
    let n := m.args.getD 1 0
    let x := bytesNat (rlist m.data)
    let s := s.modCore c (·.endFill la)
    let s := if m.gone then s else (List.range n).foldl
      (fun (s : State) j => s.putBlock c ((lineOr (s.core c).bc cid (la + j)).fill (BitVec.ofNat 1024 (x / 2 ^ (1024 * j))))) s
    .next (s.finishDone c m)

/-! ## Tile reads (R169, R171) -/

/-- The limits of a tile transfer: offset and tag word (R169). -/
def tileXferOk (off : Nat) (tag : Dword) : Bool := off % 512 == 0 && off + vBytes ≤ 2 ^ 21 && tag.toNat / 2 ^ 17 == 0

/-- LTV (R169, R171). -/
def execLtv (v a : Fin 16) (x : Fin 64) (b : Fin 2) (s : State) : Out :=
  let off := (s.la a).toNat
  let w := s.rg x
  if !tileXferOk off w then .next s.illegal
  else if w.getLsbD 16 && !tagMatch s.me.tag b off vBytes (w.extractLsb' 0 16) then .next (s.raise causeTag 0x04)
  else
    .next (s.issued fun t =>
      let val := LoadVal.v v (vecOf (tileRead t.me.tile b off vBytes))
      ((t.modMe fun k => { k with loads := k.loads ++ [⟨t.nextId, val, 0⟩] }).bump).within (tileBound vBytes) .loadLands
        (.of t.turn.core t.nextId))

/-! ## Acquire, markers and version checks (R172, R174, R179) -/

/-- A word that holds its cluster until another step completes it. -/
def State.syncWord (s : State) (m : Cmd) : State :=
  ((s.modMe fun k => { k with syncs := k.syncs ++ [m] }).bump).holds (.sync m.id)

/-- LDACQ (R165, R172). -/
def execLdacq (a : Fin 16) (g : Fin 64) (sc : Scope) (range : Bool) (q : Fin 64) (s : State) : Out :=
  let x := (s.la a).toNat
  let i := Instr.ldacq a g sc range q
  let b := (s.rg q).toNat
  let n := s.rg2 q
  if x % 8 ≠ 0 then .next s.illegal
  else
    .next (s.access (s.spans i)
      (if s.memStall i then s
      else
        s.issued fun t =>
          let t := if range then t.modMe fun k => k.dropLda t.zc b n else t
          (t.syncWord (t.newCmd i 0 [x, if range then b else 0, if range then n else 0])).unbounded .ldacqComplete
            (.of t.turn.core t.nextId)))

/-- Clean a line to a scope's point and drop its copies above it (R172). -/
def State.acquireLine (s : State) (c : Fin 64) (cid : BitVec 12) (sc : Scope) (la : Nat) : State :=
  match sc with
  | .core => s
  | .group | .zenith => (s.cleanBlock c cid la).dropBlock c cid la
  | .package | .system => ((s.cleanToHome c cid la).dropBlock c cid la).dropRdc (zIdx c) cid la

/-- Read a flag at a scope's point: its bytes, or the cause of a refused translation (R172). -/
def State.readFlag (s : State) (c : Fin 64) (cid : BitVec 12) (sc : Scope) (a : Nat) : State × (Nat ⊕ (Nat × Nat)) :=
  let la := lineOf a
  let o := a % 128
  let need := spanMask o 8
  if (s.core c).uncached .l (a / 2 ^ 21) then s.engineRead cid a 8
  else
    match (match sc with
      | .core => s.loadLine c cid la need false
      | .group | .zenith => s.belowLine c cid la need
      | .package | .system => s.homeLine cid la need) with
    | (s, .got d _ _) => (s, .inl (lineBytes d o 8))
    | (s, .refused e) => (s, .inr (a, e))

/-- The block-cache line that serves a flag: of an acquire at CORE whose copy holds the flag (R172, R369). -/
def State.flagFrom (s : State) (c : Fin 64) (cid : BitVec 12) (sc : Scope) (a : Nat) : List (Nat × Level) :=
  if sc = .core ∧ (s.core c).uncached .l (a / 2 ^ 21) = false
      ∧ (lineOr (s.core c).bc cid (lineOf a)).holds (spanMask (a % 128) 8) = true then [(lineOf a, .block)]
  else []

/-- A synchronising word of a core. -/
def Core.syncOf (k : Core) (id : Nat) : Option Cmd := k.syncs.find? (·.id == id)

/-- A synchronising word completes and its cluster goes on. -/
def State.syncDone (s : State) (c : Fin 64) (m : Cmd) : State :=
  s.modCore c fun k => ({ k with syncs := k.syncs.filter (·.id != m.id) }).release m.cl (· == Hold.sync m.id) (s.zc + 1)

/-- LDACQ_COMPLETE: the LDACQ `ev.id` of core `ev.core` (R172); a flag read from the block cache takes an armed injection,
and one in error reaches no register (R367, R369). DESIGN CHOICE (log 109): an earlier load into its register that is still
outstanding lands after it. -/
def execLdacqComplete (s : State) : Out :=
  s.served fun s =>
  let c := s.ev.core
  match (s.core c).syncOf s.ev.id with
  | none => .next s
  | some m =>
    match m.op with
    | .ldacq _ g sc _ _ =>
      let cid := (s.core c).vis.csr.cid
      let a := m.args.getD 0 0
      let s := (linesOf (m.args.getD 1 0) (m.args.getD 2 0)).foldl (fun s la => s.acquireLine c cid sc la) s
      let s := s.acquireLine c cid sc (lineOf a)
      let (s, bad) := s.loadInject c (s.flagFrom c cid sc a)
      match s.readFlag c cid sc a with
      | (s, .inl x) => if bad then .next s else .next ((s.syncDone c m).modCore c fun k => k.modVis (·.wg g (BitVec.ofNat 64 x)))
      | (s, .inr (e, cause)) => .next (s.accessEnd c .l 1 m.pc e cause)
    | _ => .next s

/-- Counts of MARK words issued in L and W (R174). -/
def markWord (l : Bool) (s : State) : Out :=
  .next (s.issued fun t =>
    (t.modMe fun k => { k with marks := if l then (k.marks.1 + 1, k.marks.2) else (k.marks.1, k.marks.2 + 1) }).holds .mark)

/-- MARK in L (R174). -/
def execMarkL (s : State) : Out := markWord true s

/-- A pair of MARK words has issued and every access before it is performed: loads have landed, block fills come in, UNCACHED
stores accepted. Tile transfers are no accesses of these queues (R174, R272, R278). -/
def Core.marked (k : Core) : Bool :=
  k.marks.1 == k.marks.2 && k.loads.all (·.lines == 0) && !k.ldbOut && k.ustores.isEmpty

/-- A marked pair lets L and W go on (R174). -/
def Core.passMarks (k : Core) (t : Nat) : Core :=
  if k.marked then (k.release .l (· == Hold.mark) t).release .w (· == Hold.mark) t else k

/-- VERCHK (R179): L stalls at it until the comparison is made. Its link bits act and it is counted when it passes, for a
word that faults does neither (R78, R319; log 71). -/
def execVerchk (a : Fin 16) (g : Fin 64) (s : State) : Out :=
  let x := (s.la a).toNat
  let i := Instr.verchk a g
  if x % 8 ≠ 0 then .next s.illegal
  else
    .next (s.access (s.spans i)
      (if s.memStall i then s
      else
        (s.syncWord (s.newCmd i 0 [x, (s.rg g).toNat])).unbounded .verchkComplete (.of s.turn.core s.nextId)))

/-- VERCHK_COMPLETE: the VERCHK `ev.id` of core `ev.core` compares the version word at home. Equal, it issues; else it takes
its trap at the VERCHK; should another trap of the cycle be taken instead, the VERCHK lies after its cut and issues again (R179,
R317, R318, R348). -/
def execVerchkComplete (s : State) : Out :=
  s.served fun s =>
  let c := s.ev.core
  match (s.core c).syncOf s.ev.id with
  | none => .next s
  | some m =>
    let cid := (s.core c).vis.csr.cid
    let a := m.args.getD 0 0
    let s := s.acquireLine c cid .package (lineOf a)
    match s.engineRead cid a 8 with
    | (s, .inr (e, cause)) => .next (s.accessEnd c .l 1 m.pc e cause)
    | (s, .inl x) =>
      let s := (s.syncDone c m).turnTo c .l
      if x = m.args.getD 1 0 then .next (s.issued id)
      else .next (s.modCore c (·.raise ⟨causeVersion, 0, .l, 1, m.pc, 0⟩))

end Sys2Proof.Machine
end

