-- ==== Sys2Proof/Machine/Store.lean ====
section
/-!
DEFINITION. The W cluster's own words (R160-R164, R167, R170, R173-R177), the events that complete them, and
evictions (R168, R267, R268). A store is performed at its issue, one to an UNCACHED page when memory accepts it
(R306; log 10).
-/

namespace Sys2Proof.Machine

/-! ## Address registers (R162) -/

/-- Set an address register of W. -/
def setWa (a : Fin 16) (x : Dword) (s : State) : State := s.modMe fun k => { k with wa := k.wa.set a x }

def execWaSet (a : Fin 16) (g : Fin 64) (s : State) : Out := .next (s.issued (setWa a (s.rg g)))
def execWaAdd (a : Fin 16) (e : BitVec 13) (s : State) : Out := .next (s.issued (setWa a (s.wa a + e.signExtend 64)))
def execWaAddg (a : Fin 16) (g : Fin 64) (s : State) : Out := .next (s.issued (setWa a (s.wa a + s.rg g)))

/-! ## Stores (R160, R163, R164, R167) -/

/-- The W sequence number of the issuing W word (R269, R319). -/
def State.wseq (s : State) : Nat := s.me.seqs[(3 : Fin 15)] + 1

/-- One write of a store: into the block cache, or on an UNCACHED page towards memory (R160, R306). -/
def State.storePiece (s : State) (a n x : Nat) : State :=
  let c := s.turn.core
  let cid := s.csr.cid
  (linePieces a n).foldl
    (fun s p =>
      let (la, o, k, before) := p
      let v := x / 2 ^ (8 * before) % 2 ^ (8 * k)
      if s.me.uncached .w (la * 128 / 2 ^ 21) then
        ((s.modMe fun q => { q with ustores := q.ustores ++
          [⟨s.nextId, la * 128 + o, rof (natBytes k v), s.wseq, s.clu.pc⟩] }).bump).unbounded .uncachedStorePerformed
          (.of c s.nextId)
      else s.storeBytes c cid (la * 128 + o) k v (stampOf cid c s.wseq)) s

/-- A store word whose address checks have passed: its pages, its stalls, then its writes in order, which
invalidate the address-table entries they meet (R165). -/
def storeWord (i : Instr) (ws : List (Nat × Nat × Nat)) (s : State) : Out :=
  .next (s.access (s.spans i)
    (if s.memStall i then s
    else
      s.issued fun t =>
        ws.foldl (fun t w => (t.storePiece w.1 w.2.1 w.2.2).modMe fun k => k.dropLda t.zc w.1 w.2.1) t))

/-- A vector register as a number, element 0 lowest (R123). -/
def vecNat (v : Runs Word) : Nat := wordsNat (rlist (rtake 6144 v))

/-- ST (R163). -/
def execSt (v a : Fin 16) (e : BitVec 13) (s : State) : Out :=
  let x := (s.wa a + imm13 e).toNat
  if x % 4 ≠ 0 then .next s.illegal else storeWord (.st v a e) [(x, vBytes, vecNat s.me.v[v])] s

/-- STX.STRIDE (R164). -/
def execStxStride (v a : Fin 16) (x : Fin 64) (s : State) : Out :=
  let rows := strideRows (s.wa a) (pitchOf (s.rg x))
  let n := vecNat s.me.v[v]
  if rows.any (· % 4 != 0) then .next s.illegal
  else
    storeWord (.stxStride v a x) ((List.zip (List.range 48) rows).map fun r => (r.2, 512, n / 2 ^ (4096 * r.1) % 2 ^ 4096)) s

/-- STX.SCATTER: elements in ascending order, so the higher is kept (R164). -/
def execStxScatter (v a : Fin 16) (x : Fin 64) (j : Fin 16) (s : State) : Out :=
  let as := elemAddrs (s.wa a) (s.rg x) s.me.v[j]
  let es := rlist (rtake 6144 s.me.v[v])
  if as.any (fun o => o.any (· % 4 != 0)) || (rlist (rtake 6144 s.me.v[j])).any fun i => i != 0xFFFFFFFF && i.toNat % 4 != 0 then
    .next s.illegal
  else storeWord (.stxScatter v a x j) ((List.zip as es).filterMap fun p => p.1.map fun y => (y, 4, p.2.toNat)) s

/-- A scalar store at an address (R167). -/
def scalarStore (i : Instr) (g : Fin 64) (sz : StSize) (a : Nat) (s : State) : Out :=
  if a % StSize.bytes sz ≠ 0 then .next s.illegal
  else storeWord i [(a, StSize.bytes sz, (s.rg g).toNat % 2 ^ (8 * StSize.bytes sz))] s

def execSts (a : Fin 16) (g : Fin 64) (sz : StSize) (e : BitVec 8) (s : State) : Out :=
  scalarStore (.sts a g sz e) g sz (s.wa a + BitVec.ofNat 64 (e.toNat * StSize.bytes sz)).toNat s

def execSsg (a : Fin 16) (g : Fin 64) (sz : StSize) (x : Fin 64) (s : State) : Out :=
  scalarStore (.ssg a g sz x) g sz (s.wa a + s.rg x).toNat s

/-- Memory accepts a store to an UNCACHED page after its translation; the cause when it is refused (R306). -/
def State.performStore (s : State) (c : Fin 64) (u : UStore) : State × Option Nat :=
  let cid := (s.core c).vis.csr.cid
  let s := s.modCore c fun k => { k with ustores := k.ustores.filter (·.id != u.id) }
  match s.xlate cid (u.addr / 2 ^ 21) with
  | (s, .ok f) =>
    let bytes := rlist u.bytes
    ({ s with mem := s.mem.write (f.pa u.addr) (bytesNat bytes) bytes.length }, none)
  | (s, x) => (s, some x.cause)

/-- A store to an UNCACHED page that was issued before `u` and shares a byte with it is under way: the elements of one word are
written in ascending order (R164). -/
def Core.storeBefore (k : Core) (u : UStore) : Bool :=
  k.ustores.any fun v => v.id < u.id && v.addr < u.addr + rlen u.bytes && u.addr < v.addr + rlen v.bytes

/-- UNCACHED_STORE_PERFORMED: memory accepts store `ev.id` of core `ev.core`, or it faults, attributed to its word; it waits behind
an earlier one of the same bytes, and while the requests before it are as many as may be outstanding (R160, R164, R306). -/
def execUncachedStorePerformed (s : State) : Out :=
  let c := s.ev.core
  match (s.core c).ustores.find? (·.id == s.ev.id) with
  | none => .next s
  | some u =>
    if !(s.core c).sent u.id || (s.core c).storeBefore u then .next (s.at_ (s.zc + 1) .uncachedStorePerformed s.ev)
    else match s.performStore c u with
    | (s, none) => .next s
    | (s, some cause) => .next (s.accessEnd c .w 3 u.pc u.addr cause)

/-! ## Tile writes (R170, R242) -/

/-- STT (R169, R170). -/
def execStt (v a : Fin 16) (x : Fin 64) (b : Fin 2) (s : State) : Out :=
  let off := (s.wa a).toNat
  let w := s.rg x
  let i := Instr.stt v a x b
  if !tileXferOk off w ∨ s.me.queueTouches b off vBytes then .next s.illegal
  else if s.memStall i then .next s
  else
    .next (s.issued fun t =>
      let tag := if w.getLsbD 16 then some (w.extractLsb' 0 16) else none
      ((t.modMe fun k => { k with stts := k.stts ++ [⟨t.nextId, b, off, t.me.v[v], tag⟩] }).bump).within (tileBound vBytes)
        .sttComplete (.of t.turn.core t.nextId))

/-- STT_COMPLETE: the last data beat of the STT `ev.id` of core `ev.core` lands, then its tags (R170, R242). -/
def execSttComplete (s : State) : Out :=
  let c := s.ev.core
  match (s.core c).stts.find? (·.id == s.ev.id) with
  | none => .next s
  | some w =>
    .next (s.modCore c fun k =>
      { k with
        stts := k.stts.filter (·.id != w.id)
        tile := tileWrite k.tile w.bg w.off vBytes (vecNat w.val)
        tag := match w.tag with
          | some g => tagWrite k.tag w.bg w.off vBytes g
          | none => k.tag })

/-! ## Release, marker and fence (R173-R175) -/

/-- STREL (R165, R173). -/
def execStrel (a : Fin 16) (g : Fin 64) (sc : Scope) (range : Bool) (q : Fin 64) (s : State) : Out :=
  let x := (s.wa a).toNat
  let i := Instr.strel a g sc range q
  let b := if range then (s.rg q).toNat else 0
  let n := if range then s.rg2 q else 0
  if x % 8 ≠ 0 then .next s.illegal
  else
    .next (s.access (s.spans i)
      (if s.memStall i then s
      else
        s.issued fun t =>
          let t := t.modMe fun k => (k.dropLda t.zc x 8).dropLda t.zc b n
          (t.syncWord (t.newCmd i 0 [x, b, n, (s.rg g).toNat, t.wseq])).unbounded .strelComplete
            (.of t.turn.core t.nextId)))

/-- New bytes poured into a copy, which holds them clean (R173). -/
def pourLine (ls : List Line) (cid : BitVec 12) (la : Nat) (mask : BitVec 128) (d : BitVec 1024) : List Line :=
  match findLine ls cid la with
  | none => ls
  | some l => putLine ls (l.pour mask d)

/-- The clean of a release's line to its point, for the release whose stamp is given (R173, R285). -/
def State.releaseLine (s : State) (c : Fin 64) (cid : BitVec 12) (sc : Scope) (stamp : BitVec 48) (la : Nat) : State :=
  match sc with
  | .core => s
  | .group | .zenith => s.cleanBlock c cid la
  | .package => s.cleanToHome c cid la
  | .system => (s.cleanToHome c cid la).checkLine cid stamp la

/-- The flag of a release at its point (R173). -/
def State.releaseFlag (s : State) (c : Fin 64) (cid : BitVec 12) (sc : Scope) (a x wseq : Nat) : State :=
  let la := lineOf a
  let o := a % 128
  let mask := spanMask o 8
  let d := BitVec.ofNat 1024 (x % 2 ^ 64 * 2 ^ (8 * o))
  let stamp := stampOf cid c wseq
  let z := zIdx c
  let pourBc (s : State) : State := s.modCore c fun k => { k with bc := pourLine k.bc cid la mask d }
  match sc with
  | .core => s.storeBytes c cid a 8 x stamp
  | .group | .zenith =>
    pourBc (s.putRdc z ((lineOr (s.rdcOf z) cid la).write mask d stamp))
  | .package | .system =>
    let s := s.homeWrite cid la o 8 (x % 2 ^ 64) stamp
    let s := pourBc (s.setRdc z (pourLine (s.rdcOf z) cid la mask d))
    if sc = .system then s.checkLine cid stamp la else s

/-- STREL_COMPLETE: the STREL `ev.id` of core `ev.core`; while earlier W words are not performed at its scope, a block fill of one
of its lines is pending, or its line requests wait for others, it waits (R160, R168, R173). DESIGN CHOICE (log 99): one at scope
SYSTEM whose check of a line fails (R315) writes its flag and lets W go on all the same, until the context's end arrives. -/
def execStrelComplete (s : State) : Out :=
  s.served fun s =>
  let c := s.ev.core
  match (s.core c).syncOf s.ev.id with
  | none => .next s
  | some m =>
    match m.op with
    | .strel _ _ sc _ _ =>
      let arg (i : Nat) : Nat := m.args.getD i 0
      if !(s.core c).fenced sc || (s.core c).fillingAny (lineOf (arg 0) :: linesOf (arg 1) (arg 2))
          || !(s.core c).sent m.id then
        .next (s.at_ (s.zc + 1) .strelComplete s.ev)
      else
        let cid := (s.core c).vis.csr.cid
        let s := (linesOf (arg 1) (arg 2)).foldl (fun s la => s.releaseLine c cid sc (stampOf cid c (arg 4)) la) s
        if (s.core c).uncached .w (arg 0 / 2 ^ 21) then
          match s.engineWrite cid (arg 0) 8 (arg 3) (stampOf cid c (arg 4)) with
          | (s, .inl _) => .next (s.syncDone c m)
          | (s, .inr (a, cause)) => .next (s.accessEnd c .w 3 m.pc a cause)
        else .next ((s.releaseFlag c cid sc (arg 0) (arg 3) (arg 4)).syncDone c m)
    | _ => .next s

/-- MARK in W (R174). -/
def execMarkW (s : State) : Out := markWord false s

/-- FENCE: holds W until every earlier W word has been performed, then issues (R175). -/
def execFence (sc : Scope) (s : State) : Out := if s.memStall (.fence sc) then .next s else .next (s.issued id)

/-! ## Cache maintenance (R176) -/

/-- A CMO word (R161, R176): `inv` for those that drop lines, which invalidate address-table entries. -/
def cmoWord (i : Instr) (a : Fin 16) (g k : Fin 64) (inv : Bool) (s : State) : Out :=
  let x := (s.wa a).toNat
  let n := (s.rg g).toNat
  if s.taken k then .next s.illegal
  else
    .next (s.access (s.spans i)
      (if s.memStall i then s
      else if n = 0 then s.issued fun t => t.modMe fun c => c.done k none
      else
        s.issued fun t =>
          let t := t.modMe fun c => if inv then (c.pend k).dropLda t.zc x n else c.pend k
          (t.addCmd { t.newCmd i k [x, n] with started := true }).unbounded .cmoComplete (.of t.turn.core t.nextId)))

def execCmoClean (a : Fin 16) (g : Fin 64) (lvl : CmoLevel) (k : Fin 64) (s : State) : Out :=
  cmoWord (.cmoClean a g lvl k) a g k false s
def execCmoInv (a : Fin 16) (g : Fin 64) (lvl : CmoLevel) (k : Fin 64) (s : State) : Out :=
  cmoWord (.cmoInv a g lvl k) a g k true s
def execCmoClinv (a : Fin 16) (g : Fin 64) (lvl : CmoLevel) (k : Fin 64) (s : State) : Out :=
  cmoWord (.cmoClinv a g lvl k) a g k true s

/-- CLEAN of a line to a level (R176, R285). -/
def State.cleanLine (s : State) (c : Fin 64) (cid : BitVec 12) (lvl : CmoLevel) (la : Nat) : State :=
  match lvl with
  | .rdc => s.cleanBlock c cid la
  | .home => s.cleanToHome c cid la
  | .mem => (s.cleanToHome c cid la).cleanHome cid la

/-- INV of a line to a level: the block-cache copy is discarded, lower ones cleaned first (R176). -/
def State.invLine (s : State) (c : Fin 64) (cid : BitVec 12) (lvl : CmoLevel) (la : Nat) : State :=
  let z := zIdx c
  let s := s.dropBlock c cid la
  match lvl with
  | .rdc => s
  | .home => (s.cleanRdc z cid la).dropRdc z cid la
  | .mem =>
    let s := ((s.cleanRdc z cid la).dropRdc z cid la).cleanHome cid la
    { s with home := dropLine s.home cid la }

/-- Blocks a CMO that drops lines reaches leave whole; their lines outside the range are cleaned to the named level first
(R176, R285). -/
def State.dropBlocks (s : State) (c : Fin 64) (cid : BitVec 12) (lvl : CmoLevel) (lo n : Nat) : State :=
  ((s.core c).blocksOn lo n).foldl
    (fun s b =>
      let s := (List.range b.n).foldl
        (fun s i =>
          let la := b.line + i
          if lo ≤ la ∧ la < lo + n then s else (s.cleanLine c cid lvl la).dropBlock c cid la) s
      s.modCore c fun k => { k with blocks := k.blocks.filter (· != b) }) s

/-- A CMO to memory meets a line whose dirty bytes the MTU refuses: `above` for those of the block cache too (R176, R315). -/
def State.strands (s : State) (c : Fin 64) (cid : BitVec 12) (lvl : CmoLevel) (above : Bool) (la : Nat) : Bool :=
  let dirty (ls : List Line) : Bool := (lineOr ls cid la).dirty != 0
  lvl == .mem && ((above && dirty (s.core c).bc) || dirty (s.rdcOf (zIdx c)) || dirty s.home) && s.refusesLine cid la

/-- CMO_COMPLETE: every line of the CMO `ev.id` of core `ev.core` reaches its level; it waits for a pending block fill in its
way, and for the line requests before its own. One of whose lines the write-back fails leaves its token PENDING until the
context's end (R160, R168, R176, R315, R316). -/
def execCmoComplete (s : State) : Out :=
  let c := s.ev.core
  match (s.core c).cmd s.ev.id with
  | none => .next s
  | some m =>
    let cid := (s.core c).vis.csr.cid
    let x := m.args.getD 0 0
    let n := m.args.getD 1 0
    let ls := linesOf x n
    let lo := lineOf x
    let fin (lvl : CmoLevel) (above : Bool) (t : State) : Out :=
      .next (if ls.any (s.strands c cid lvl above) then t else t.finishDone c m)
    if (s.core c).fillingAny ls || !(s.core c).sent m.id then .next (s.at_ (s.zc + 1) .cmoComplete s.ev)
    else
      match m.op with
      | .cmoClean _ _ lvl _ => fin lvl true (ls.foldl (fun s la => s.cleanLine c cid lvl la) s)
      | .cmoInv _ _ lvl _ =>
        fin lvl false (ls.foldl (fun s la => s.invLine c cid lvl la) (s.dropBlocks c cid lvl lo ls.length))
      | .cmoClinv _ _ lvl _ =>
        fin lvl true (ls.foldl (fun s la => (s.cleanLine c cid lvl la).invLine c cid lvl la)
          (s.dropBlocks c cid lvl lo ls.length))
      | _ => .next s

/-! ## Atomics (R177) -/

/-- An AMO word (R161, R177): its address, operand and, for CAS, new value. -/
def amoWord (i : Instr) (a : Fin 16) (x : Fin 64) (dw : Bool) (k : Fin 64) (s : State) : Out :=
  let b := (s.wa a).toNat
  if s.taken k ∨ b % amoBytes dw ≠ 0 then .next s.illegal
  else
    .next (s.access (s.spans i)
      (if s.memStall i then s
      else
        s.issued fun t =>
          let t := t.modMe fun c => (c.pend k).dropLda t.zc b (amoBytes dw)
          (t.addCmd { t.newCmd i k [b, (s.rg x).toNat, s.rg2 x, t.wseq] with started := true }).unbounded .amoPerformed
            (.of t.turn.core t.nextId)))

def execAmoAdd (a : Fin 16) (x : Fin 64) (dw : Bool) (k : Fin 64) (s : State) : Out := amoWord (.amoAdd a x dw k) a x dw k s
def execAmoMin (a : Fin 16) (x : Fin 64) (dw : Bool) (k : Fin 64) (s : State) : Out := amoWord (.amoMin a x dw k) a x dw k s
def execAmoMax (a : Fin 16) (x : Fin 64) (dw : Bool) (k : Fin 64) (s : State) : Out := amoWord (.amoMax a x dw k) a x dw k s
def execAmoOr (a : Fin 16) (x : Fin 64) (dw : Bool) (k : Fin 64) (s : State) : Out := amoWord (.amoOr a x dw k) a x dw k s
def execAmoAnd (a : Fin 16) (x : Fin 64) (dw : Bool) (k : Fin 64) (s : State) : Out := amoWord (.amoAnd a x dw k) a x dw k s
def execAmoXchg (a : Fin 16) (x : Fin 64) (dw : Bool) (k : Fin 64) (s : State) : Out := amoWord (.amoXchg a x dw k) a x dw k s
def execAmoCas (a : Fin 16) (x : Fin 64) (dw : Bool) (k : Fin 64) (s : State) : Out := amoWord (.amoCas a x dw k) a x dw k s

/-- The operation and size of an AMO. -/
def amoOf : Instr → Option (AmoOp × Bool)
  | .amoAdd _ _ dw _ => some (.add, dw)
  | .amoMin _ _ dw _ => some (.min, dw)
  | .amoMax _ _ dw _ => some (.max, dw)
  | .amoOr _ _ dw _ => some (.or, dw)
  | .amoAnd _ _ dw _ => some (.and, dw)
  | .amoXchg _ _ dw _ => some (.xchg, dw)
  | .amoCas _ _ dw _ => some (.cas, dw)
  | _ => none

/-- An earlier AMO of the core to a common address is not performed yet (R283). -/
def Core.amoBefore (k : Core) (m : Cmd) : Bool :=
  let a := m.args.getD 0 0
  k.cmds.any fun x => x.id < m.id && (amoOf x.op).isSome && x.args.getD 0 0 == a

/-- AMO_PERFORMED: the AMO `ev.id` of core `ev.core` is performed at home after the core's copies are cleaned and
dropped; AMOs of one core to one address keep their order, and a pending block fill of the line and the line requests before its
own come first (R160, R168, R177, R283). -/
def execAmoPerformed (s : State) : Out :=
  s.served fun s =>
  let c := s.ev.core
  match (s.core c).cmd s.ev.id with
  | none => .next s
  | some m =>
    match amoOf m.op with
    | none => .next s
    | some (op, dw) =>
      let arg (i : Nat) : Nat := m.args.getD i 0
      if (s.core c).amoBefore m || (s.core c).filling (lineOf (arg 0)) || !(s.core c).sent m.id then
        .next (s.at_ (s.zc + 1) .amoPerformed s.ev)
      else
        let cid := (s.core c).vis.csr.cid
        let s := s.acquireLine c cid .package (lineOf (arg 0))
        match s.atomic cid op dw (arg 0) (arg 1) (arg 2) (stampOf cid c (arg 3)) with
        | (s, .inl 0) => .next (s.finishDone c m)
        | (s, .inl code) => .next (s.finishFail c m (BitVec.ofNat 8 code))
        | (s, .inr (a, cause)) => .next (s.accessEnd c .w 3 m.pc a cause)

/-! ## Evictions (R168, R267, R268) -/

/-- BLOCK_CACHE_EVICTION: numbers CID and line of core `ev.core`; a filled block leaves whole, a block with a
pending fill never (R168, R268). -/
def execBlockCacheEviction (s : State) : Out :=
  let c := s.ev.core
  let cid := BitVec.ofNat 12 (s.arg 0)
  let la := s.arg 1
  if (s.core c).fillHolds cid la then .next s else .next (s.evictLine c cid la)

/-- RDC_EVICTION: numbers Zenith die, CID and line (R268). -/
def execRdcEviction (s : State) : Out :=
  let z : Fin 2 := Fin.ofNat 2 (s.arg 0)
  let cid := BitVec.ofNat 12 (s.arg 1)
  .next ((s.cleanRdc z cid (s.arg 2)).dropRdc z cid (s.arg 2))

/-- HOME_EVICTION: numbers CID and line (R268, R311, R315). -/
def execHomeEviction (s : State) : Out := .next (s.evictHome (BitVec.ofNat 12 (s.arg 0)) (s.arg 1))

end Sys2Proof.Machine
end

