-- ==== Sys2Proof/Machine/Preempt.lean ====
section
/-!
DEFINITION. Taking a trap at the end of its cycle (R109, R110, R246, R317-R321), the return from a handler (R322,
R385), replay (R247, R248), pre-emption and restart (R105, R113, R323-R326), the end of a context (R300, R316),
PLB refills (R307) and the step of an illegal encoding (R87).
-/

namespace Sys2Proof.Machine

/-! ## Taking a trap -/

/-- The launch a core runs (R295). -/
def State.runOf (s : State) (c : Fin 64) : Option Run := s.runs.find? fun r => r.st == .running && (s.core c).onRun r

/-- A cause of a memory fault found at a word (R317). -/
def accessCause (cause : Nat) : Bool := cause == causePerm || cause == causeTrans || cause == causeSynonym

/-- The die that found a memory fault of a word: the core's Zenith die where the answer that refuses it is in a permission
buffer, else the MTU's (R313). -/
def Core.faultDie (k : Core) (c : Fin 64) (r : TrapReq) : Fin 8 :=
  match k.pageAns r.cl (r.addr / 2 ^ 21) with
  | some .none => zenithOf c
  | some (.page _ _ _) => if r.cause = causePerm then zenithOf c else homeDie r.addr
  | none => homeDie r.addr

/-- The record of a memory fault found at a word (R312, R313). -/
def State.faultRecord (s : State) (c : Fin 64) (r : TrapReq) : State :=
  if accessCause r.cause then
    let k := s.core c
    s.memRecord c k.vis.csr.cid r.cl (k.faultDie c r) r.pc r.addr r.cause
  else s

/-- The die on which the fault of a trap is found (R300, R313). -/
def Core.endDie (k : Core) (c : Fin 64) (r : TrapReq) : Fin 8 :=
  if accessCause r.cause then k.faultDie c r else zenithOf c

/-- TAKING A TRAP of core `c` (R317): the core stops at its cut (R318, R319). A trap while a handler runs is a handler
fault (R110), one in a save sequence fails the save (R325); a fault of the replay class goes to the distributor
(R247); a handler that is installed is entered (R320, R321); every other trap ends the context (R109, R300, R317). A
faulting access has its record wherever it ends the context (R312); TRAPCAUSE of a handler fault is 0x11. DESIGN CHOICE (log 104): a core
that PROBE has suspended takes its trap when it goes on (R222, R314). -/
def State.takeTrap (s : State) (c : Fin 64) : State :=
  let k := s.core c
  match k.trap with
  | none => s
  | some r =>
    if k.st = .suspended then s
    else if !k.live then s.modCore c fun k => { k with trap := none }
    else
      let t := s.modCore c fun k => (k.stopAtCut r).halt
      let cid := k.vis.csr.cid
      let d := k.endDie c r
      if k.saving then (t.faultRecord c r).endCtx cid codeSaveFailed d
      else if k.shadow.isSome then
        ((t.faultRecord c r).modCore c (·.noteCause { r with cause := causeHandler })).endCtx cid causeHandler d
      else if replayable r.cause then
        match s.runOf c with
        | some q => t.later 1 (t.choices.headD 0) .replayRestart ⟨c, 0, [q.id, 0], []⟩
        | none => t
      else if handled r.cause && k.vis.csr.trapvec.extractLsb' 0 16 != 0 then
        s.modCore c fun k => k.enterHandler r (s.zc + 1) s.nextId
      else (t.faultRecord c r).endCtx cid r.cause d

/-- ILLEGAL_ENCODING: the word that reached issue takes the precise trap and has no other effect (R87). -/
def execIllegalEncoding (s : State) : Out := .next (s.raise causeIllegal 0)

/-! ## The return from a handler (R322, R385) -/

/-- A handler cluster of L or W is held at its head by a ring wait (R78, R385). -/
def Core.ringHeld (k : Core) (cl : Cl) : Bool :=
  k.holdOf cl == .run && match k.head cl with
    | some (h, _) => !linkWaits h.link cl k.old
    | none => false

/-- A cluster of the handler is idle: C at its RETT, or one with nothing to run, or L or W with an empty queue and its head
held by a ring wait. X holds at none (R78, R234, R385). -/
def Core.handlerIdle (k : Core) (cl : Cl) : Bool :=
  k.holdOf cl == .stopped || match cl with
    | .c => k.holdOf .c == .rett
    | .l => k.lEmpty && k.ringHeld .l
    | .x => false
    | .w => k.wEmpty && k.ringHeld .w

/-- The waits of RETT (R322, R385): every handler cluster idle, the L and W queues empty, and no token that a word of
the handler produced PENDING. -/
def Core.rettReady (k : Core) : Bool :=
  match k.shadow with
  | none => false
  | some h =>
    k.live && k.holdOf .c == .rett && [Cl.c, .l, .x, .w].all k.handlerIdle && k.lEmpty && k.wEmpty
      && !k.cmds.any fun m => h.firstId ≤ m.id && k.vis.tok[m.tok].st == .pending

/-- The handles the handler allocated and has not freed (R322). -/
def Core.ownShapes (k : Core) : List (Fin 8) :=
  (List.finRange 8).filter fun h => k.vis.sh[h] == .live

/-- RETT_RESUME: the waits of the RETT of core `ev.core` are met. The handler's LIVE handles are freed at their drain
points, the shadow and ACCMASK are restored, frozen shapes and tiles thawed and held commands released; one whose σ
has passed takes its schedule miss (R195, R322). -/
def execRettResume (s : State) : Out :=
  let c := s.ev.core
  let k := s.core c
  let own := k.ownShapes
  if !k.rettReady || own.any fun h => !k.shape[h].queue.isEmpty then .next s
  else
    let s := if own.isEmpty then s else s.freeCells c fun h => own.contains h
    let s := s.modCore c fun k =>
      { k with
        shape := own.foldl (fun (v : Vector Shape 8) (h : Fin 8) => v.set h { Shape.zero with count := v[h].count }) k.shape
        vis := { k.vis with sh := own.foldl (fun (v : Vector ShSt 8) (h : Fin 8) => v.set h .free) k.vis.sh } }
    .next (s.modCore c fun k => (k.leaveHandler (s.zc + 1)).missHeld s.zc)

/-! ## The control image (R33, R324) -/

/-- The control image of a core at yield point `y`; a chain value does not survive it (R221). -/
def Core.imageAt (k : Core) (y : Byte) : Image where
  yp := y
  clus := vmap (fun u => { u with hold := .run }) k.clus
  ring := k.vis.ring
  rs := k.rs
  sc := k.sc
  tok := vmap (fun t => { t with chain := none }) k.vis.tok
  ft := k.ft
  cb := k.vis.cb
  slot := k.vis.slot
  geo := ((List.finRange 8).filter fun h => k.vis.sh[h] == .live).map fun h => (h, k.shape[h].d, k.shape[h].w)
  dq := k.dq
  dn := k.dn
  csr := k.vis.csr
  phases := k.phases
  doms := k.doms

/-- The 400 KiB of open bytes that an image occupies (R324). -/
def imageBytes (n : Nat) : Nat := bytesNat ((List.range 409600).map (Config.freeImage n))

/-- The hardware writes the control image to the first 400 KiB of the save area; the address and cause that stopped it,
if any (R113, R324). -/
def State.writeImage (s : State) (c : Fin 64) : State × Option (Nat × Nat) :=
  let k := s.core c
  match s.engineWrite k.vis.csr.cid (k.launch.saveOf c) 409600 (imageBytes s.freeCtr)
    (stampOf k.vis.csr.cid c k.seqs[(3 : Fin 15)]) with
  | (t, .inl _) => (t.useFree 1, none)
  | (t, .inr e) => (t.useFree 1, some e)

/-- Every cluster of a core goes on at its word in the next cycle. DESIGN CHOICE (log 105): X counts the idle count of its first word
from then, as after a restore (R79, R113, R324). -/
def Core.goOn (k : Core) (t : Nat) : Core :=
  { k with clus := vmap (fun u => { u with hold := .run, susp := none, nextAt := max u.nextAt t }) k.clus }

/-- The yield point of the YIELD at which C holds (R113). -/
def Core.yieldHeld (k : Core) : Option Byte :=
  match k.holdOf .c with
  | .yield y => some y
  | _ => none

/-- A YIELD that does not pass control to a save sequence has met its waits: REQ is 0, or the save area is too small
(R113). -/
def Core.replayReady (k : Core) : Bool :=
  k.live && k.phase == .normal && k.yieldHeld.isSome && k.drained && (!k.vis.csr.req || k.launch.saveu < 7)

/-- REPLAY_POINT: a YIELD of core `ev.core` has met its waits. With SAVEU at 7 or above the control image is written and the
YIELD becomes the replay point; the clusters go on (R113, R248, R326). -/
def execReplayPoint (s : State) : Out :=
  let c := s.ev.core
  let k := s.core c
  match k.yieldHeld with
  | none => .next s
  | some y =>
    if !k.replayReady then .next s
    else if k.launch.saveu < 7 then .next (s.modCore c fun k => k.goOn (s.zc + 1))
    else
      match s.writeImage c with
      | (t, some (a, cause)) =>
        .next ((t.modCore c Core.halt).accessEnd c .c 0 (k.clus[clIx .c].pc - 1) a cause)
      | (t, none) =>
        let t := t.modCore c fun k =>
          ({ (if k.vis.csr.pstate = 3 then k.setPstate 0 else k) with replay := some (k.imageAt y) }).goOn (s.zc + 1)
        .next (match t.runOf c with
          | none => t
          | some r => t.modRun r.id fun x => { x with retry := 0 })

/-! ## Pre-emption (R105, R323-R325) -/

/-- The yield point of the preemptible level that a cluster has just ended under R105. -/
def Cluster.endedAt (u : Cluster) : Option Byte := u.hold.ended

/-- A cluster holds at an S = 1 head with no active preemptible level naming `y` (R324). -/
def Core.atSync (k : Core) (y : Byte) (cl : Cl) : Bool :=
  k.holdOf cl == .run && !(k.clus[clIx cl].loops.toList.any fun l => l.active && l.pf && l.yp == y) && match k.head cl with
    | some (h, _) => h.sync
    | none => false

/-- The yield point at which a core has reached its pre-emption point (R324). -/
def Core.preemptAt (k : Core) : Option Byte :=
  if k.live && k.phase == .normal && k.vis.csr.req && 7 ≤ k.launch.saveu && k.drained then
    match k.yieldHeld with
    | some y => some y
    | none =>
      match k.clus.toList.findSome? Cluster.endedAt with
      | none => none
      | some y =>
        if [Cl.c, .l, .x, .w].all fun cl => k.clus[clIx cl].endedAt == some y || k.atSync y cl then some y else none
  else none

/-- PREEMPTION_POINT: core `ev.core` has reached it: STATE 2, the control image written, the replay point set, C at SAVE
and the others at their hold words (R324). -/
def execPreemptionPoint (s : State) : Out :=
  let c := s.ev.core
  let k := s.core c
  match k.preemptAt with
  | none => .next s
  | some y =>
    match s.writeImage c with
    | (t, some (a, cause)) =>
      let cid := k.vis.csr.cid
      let pc := k.clus[clIx .c].pc - 1
      let s := (t.modCore c Core.halt).memRecord c cid .c (homeDie a) pc a cause
      let r : TrapReq := ⟨cause, 0, .c, 0, pc, a⟩
      .next (s.endCtxNote cid codeSaveFailed (homeDie a) [c.val, r.causeWord.toNat])
    | (t, none) =>
      let save := ((t.yieldRec c y).map (·.save)).getD 0
      .next (t.modCore c fun k =>
        let k := k.setPstate 2
        let k := { k with replay := some (k.imageAt y), phase := .saving y, deadln := none }
        let k := k.goOn (s.zc + 1)
        { k with clus := k.clus.set (clIx .c) { k.clus[clIx .c] with pc := save } })

/-- The closing YIELD of a save sequence has met its waits (R325). -/
def Core.saveReady (k : Core) : Bool := k.live && k.saving && k.yieldHeld.isSome && k.drained

/-- SAVE_COMPLETE: the save of core `ev.core` ends; the core is idle, and its context is saved when no core of the gang
runs any more (R291, R325). -/
def execSaveComplete (s : State) : Out :=
  let c := s.ev.core
  let k := s.core c
  if !k.saveReady then .next s
  else
    let s := match s.runOf c with
      | none => s
      | some r => s.modRun r.id fun x => { x with saved := x.saved ++ [(c, k.launch, k.replay)] }
    let s := s.freeCells c fun _ => true
    let s := s.modCore c fun k =>
      { (k.setPreempt 0).halt with
        st := .idle, idleAt := s.zc + 1, phase := .normal, replay := none
        shape := Vector.replicate 8 Shape.zero }
    .next (s.modCore c (·.modVis fun v => { v with sh := Vector.replicate 8 .free })).closeRuns

/-- A suspended level becomes active again at its slot k, and the cluster stands at its body's first word (R105,
R326). -/
def Cluster.reactivate (u : Cluster) (t : Nat) : Cluster :=
  match u.susp with
  | none => { u with hold := .run, nextAt := max u.nextAt t }
  | some x =>
    { u with
      pc := x.p + 1
      loops := u.loops.set x.lv
        (Loop.refresh { Loop.setup x.p x.len x.s x.n x.k true x.yp with first := x.k, last := x.n, t := x.k })
      hold := .run
      susp := none
      nextAt := max u.nextAt t }

/-- PREQ_REQ: number CID; every core that runs it is asked to save, one that a replay reloads among them (R247, R323). -/
def execPreqReq (s : State) : Out :=
  let cid : BitVec 12 := BitVec.ofNat 12 (s.arg 0)
  let pdl := s.regs.pdl
  let t := coreList.foldl
    (fun (t : State) (c : Fin 64) =>
      let k := t.core c
      if k.runs cid then
        t.modCore c fun k =>
          { k.modVis fun v => { v with csr := { v.csr with preempt := BitVec.ofNat 64 (1 + 2 + pdl.toNat * 2 ^ 32) } } with
            deadln := some (s.zc + pdl.toNat) }
      else t) s
  .next (t.at_ (s.zc + pdl.toNat) .preemptDeadline (.nums [cid.toNat]))

/-- The request of a core has expired with no pre-emption point reached (R323). -/
def Core.expired (k : Core) (cid : BitVec 12) (zc : Nat) : Bool :=
  k.vis.csr.cid == cid && k.st != .idle && match k.deadln with
    | some d => d ≤ zc
    | none => false

/-- PREEMPT_DEADLINE: number CID; cores that have reached no pre-emption point run on (R323; log 23). -/
def execPreemptDeadline (s : State) : Out :=
  let cid : BitVec 12 := BitVec.ofNat 12 (s.arg 0)
  let cs := coreList.filter fun c => (s.core c).expired cid s.zc
  if cs.isEmpty then .next s
  else
    let t := cs.foldl
      (fun (t : State) (c : Fin 64) => t.modCore c fun k =>
        { (if k.vis.csr.req then k.setPreempt 0 else { k with deadln := none }) with
          clus := vmap (fun u => if u.hold.ended.isSome then u.reactivate (s.zc + 1) else u) k.clus }) s
    .next (t.prst cid 2)

/-- PREQ_RES: number CID; its saved launch waits again, at its priority and with this count as its post count (R326). -/
def execPreqRes (s : State) : Out :=
  .next { s with runs := s.runs.map fun r =>
    if r.st == .saved && r.cid.toNat == s.arg 0 then { r with st := .waiting, kind := .resume, post := s.zc } else r }

/-- PREQ_END: number CID; the host ends the context (R316). -/
def execPreqEnd (s : State) : Out := .next (s.endCtx (BitVec.ofNat 12 (s.arg 0)) 0x23 0)

/-- The CSRs after a restore: the saved rows of R33, TRAPCAUSE, TRAPPC, CUT and ERRINJ zero, the rest as the resume set
them. -/
def Csr.restore (now saved : Csr) : Csr :=
  { now with
    zbase := saved.zbase, step := saved.step, fflags := saved.fflags, ftrow := saved.ftrow, trapvec := saved.trapvec
    retrylim := saved.retrylim, psub := saved.psub, haloctl := saved.haloctl, accmask := saved.accmask
    scratch := saved.scratch, trapcause := 0, trappc := 0, cut := Vector.replicate 16 0, errinj := 0 }

/-- The control image is reloaded and every cluster goes on at its resume word (R33, R326). -/
def Core.reload (k : Core) (g : Image) (t : Nat) : Core :=
  { k with
    phase := .normal
    vis := { k.vis with
      tok := vmap (fun t => { t with chain := none }) g.tok, ring := g.ring, cb := g.cb, slot := g.slot, csr := k.vis.csr.restore g.csr }
    clus := Vector.ofFn fun i => { g.clus[i] with nextAt := t }.reactivate t
    rs := g.rs
    sc := g.sc
    ft := g.ft
    dq := g.dq
    dn := g.dn
    lda := Vector.replicate 32 none
    phases := g.phases
    reports := []
    doms := g.doms }

/-- The closing YIELD of a restore sequence has met its waits: the image and whether it is a replay (R326). -/
def Core.restoreReady (k : Core) : Option (Image × Bool) :=
  match k.phase, k.replay with
  | .restoring _ replay, some g => if k.live && k.yieldHeld.isSome && k.drained then some (g, replay) else none
  | _, _ => none

/-- RESTORE_COMPLETE: the restore of core `ev.core` ends (R326). -/
def execRestoreComplete (s : State) : Out :=
  let c := s.ev.core
  match (s.core c).restoreReady with
  | none => .next s
  | some (g, replay) =>
    let s := s.modCore c fun k => k.reload g (s.zc + 1)
    let s := if g.csr.psub = 0 then s else s.psubWritten c g.csr.psub
    .next (if replay then s else s.prst (s.core c).vis.csr.cid 4)

/-! ## Replay (R247) -/

/-- Commands that run on across a restart: those started, but for the words that only wait or speak to a shape. -/
def Cmd.runsOn (m : Cmd) : Bool :=
  m.started && match m.op with
    | .tkJoin _ _ _ | .cntWait _ _ | .shapeAlloc _ _ _ | .shapeFree _ _ | .shapeCut _ _ _ _ | .shapeChain _ _ _ | .shapeQry _ _ => false
    | _ => true

/-- A core of a context that is replayed stops at its cut: queued commands, and an MX.LACC that would start after count `t`,
are discarded, and started ones run to completion without a report (R227, R247). -/
def Core.stopForReplay (t : Nat) (k : Core) : Core :=
  let k := if k.live then k.cutHere else k
  { k.halt with
    st := .halted
    trap := none
    laccs := k.laccs.filter fun x => x.start ≤ t
    cmds := (k.cmds.filter (·.runsOn)).map fun m => { m with gone := true }
    shape := vmap (fun g => { g with queue := g.queue.filter (·.started) }) k.shape }

/-- Everything that lay before a core's cut has completed (R318). -/
def Core.settled (k : Core) : Bool :=
  k.loads.isEmpty && k.stts.isEmpty && k.ustores.isEmpty && k.xpend.isEmpty && k.cpend.isEmpty && k.syncs.isEmpty
    && k.laccs.isEmpty && k.queuesEmpty

/-- The transfers of a replay for one core: those of its launch when it has no replay point, else without the argument
range, and the pins (R247, R326). DESIGN CHOICE: each core of a gang goes by its own replay point (log 115), and what a restore
sequence does not reload is at its launch value, tiles too (log 116). -/
def State.reloadMember (s : State) (r : Run) (c : Fin 64) : State :=
  let s := (s.freeCells c fun _ => true).dropPending c
  match (s.core c).replay with
  | none => s.loadCore r c true
  | some _ => (s.loadCore r c false).pinMember r c

/-- REPLAY_RESTART: numbers the run and the stage. At stage 0 core `ev.core` has taken a replayable fault: the
context is abandoned at the limit, else its cores stop. At stage 1 they are reloaded once all that lay before their
cuts has completed, and start by the path of R326 or as at launch (R247). DESIGN CHOICE (log 114): faults of other cores of the
gang that are reported while this goes on are part of it. -/
def execReplayRestart (s : State) : Out :=
  let c := s.ev.core
  match s.runs.find? fun r => r.id == s.arg 0 with
  | none => .next s
  | some r =>
    let on := (gangCores r.gang).filter fun d => (s.core d).onRun r
    let next : Ev := { s.ev with args := [r.id, 1] }
    if s.arg 1 = 0 then
      if r.st ≠ .running then .next s
      else if (s.core c).vis.csr.retrylim.toNat ≤ r.retry then .next (s.endCtx r.cid 0x22 (zenithOf c))
      else
        let t := s.modRun r.id fun x => { x with st := .loading, kind := .replay, stuck := [], retry := x.retry + 1 }
        let t := on.foldl (fun (t : State) (d : Fin 64) => t.modCore d (Core.stopForReplay s.zc)) t
        .next (t.at_ (s.zc + 1) .replayRestart next)
    else if on.all fun d => (s.core d).settled then
      let t := on.foldl (fun (t : State) (d : Fin 64) => t.reloadMember r d) s
      .next (t.resident r.id)
    else .next (s.at_ (s.zc + 1) .replayRestart next)

/-! ## The end of a context (R300, R316) -/

/-- A core belongs to a context: it runs it, or its launch of it is under way. -/
def State.inCtx (s : State) (cid : BitVec 12) (c : Fin 64) : Bool :=
  (s.core c).runs cid
    || s.runs.any fun r => r.cid == cid && r.st == .loading && r.kind != .replay && r.gang.getLsbD c.val

/-- The codes a FAILED token can carry (R226). -/
def failCodes : List Byte :=
  [0x10, 0x12, 0x13, 0x14, 0x20, 0x24, 0x25, 0x26, 0x27, 0x30, 0x31, 0x32, 0x33, 0x34, 0x35, 0x41, 0x50, 0x51, 0x60, 0x61, 0x62]

/-- A core of an ended context: its commands abandoned with their tokens FAILED, idle; words issued before its cut still
land their results (R316, R318). Which of R226's codes the tokens carry the spec leaves open: `code` (log 11). -/
def Core.ended (k : Core) (t : Nat) (code : Byte) : Core :=
  let k := k.cmds.foldl (fun k m => if m.gone then k else k.fail m.tok code) k
  { k.halt with
    st := .idle, idleAt := t, phase := .normal, trap := none, shadow := none, frozen := 0, replay := none, deadln := none
    syncs := [], blocks := [], cmds := []
    shape := Vector.replicate 8 Shape.zero
    vis := { k.vis with sh := Vector.replicate 8 .free } }

/-- Lines that an end leaves: those not dirty under its CID (R316). -/
def keepLines (cid : BitVec 12) (ls : List Line) : List Line := ls.filter fun l => !(l.cid == cid && l.dirty != 0)

/-- An owner entry once a context's mappings are freed (R316). -/
def Owner.without (o : Owner) (cid : BitVec 12) : Option Owner :=
  match o with
  | .writer c p => if c = cid then none else some (.writer c p)
  | .readers u ms =>
    match ms.filter fun m => m.1 != cid with
    | [] => none
    | r => some (.readers u r)

/-- An MTU once a context's entries are freed (R310, R316). -/
def Mtu.without (m : Mtu) (cid : BitVec 12) : Mtu :=
  { m with
    tc := m.tc.filter (·.cid != cid)
    owners := m.owners.filterMap fun x => (x.2.without cid).map fun o => (x.1, o) }

/-- The held chunks of a receiving context are refused at their senders (R316, R334). -/
def State.refuseHeld (s : State) (cid : BitVec 12) : State :=
  let mine := s.helds.filter (·.rcid == cid)
  mine.foldl (fun (s : State) (h : Held) => h.parts.foldl (fun (s : State) (p : Chunk) => s.answerChunk p 0x72) s)
    { s with helds := s.helds.filter (·.rcid != cid) }

/-- Entries of a context that have not fired are discarded (R329). -/
def State.dropUnfired (s : State) (cid : BitVec 12) : State :=
  { s with qps := s.qps.map fun q =>
      if q.2.cid = cid then
        (q.1, { q.2 with ents := q.2.ents.filter fun e => match e.st with
          | .posted | .armed _ _ _ => false
          | _ => true })
      else q }

/-- The stores to UNCACHED pages that a core issued before its cut are performed, or have their records; their context is
ending already (R306, R318). -/
def State.flushStores (s : State) (c : Fin 64) : State :=
  (s.core c).ustores.foldl
    (fun (s : State) (u : UStore) =>
      match s.performStore c u with
      | (s, none) => s
      | (s, some cause) => s.memRecord c (s.core c).vis.csr.cid .w (homeDie u.addr) u.pc u.addr cause) s

/-- A core of a context that ends stops at its cut, with the TRAPCAUSE of a fault attributed to it (R300, R316, R317). -/
def Core.stopForEnd (cause : Option Dword) (k : Core) : Core :=
  let k := if k.live then k.cutHere else k
  match cause with
  | none => k.halt
  | some w => (k.modVis fun v => { v with csr := { v.csr with trapcause := w } }).halt

/-- The TRAPCAUSE that the end of a context leaves on a core: that of a fault attributed to it (R317). -/
def State.endCause (s : State) (c : Fin 64) : Option Dword :=
  if s.ev.args.getD 3 65 = c.val ∨ s.ev.args.getD 3 65 = 64 then some (BitVec.ofNat 64 (s.arg 4)) else none

/-- CONTEXT_END: numbers Zenith die, CID, end code, and for a fault attributed to a core its number and TRAPCAUSE. The cores on
that die stop at their cuts; when the order has reached both dies the end is carried out (R300, R316, R317). The barriers of
this device's ended members are gone with them: an own arrival for a barrier that only they had formed is counted by no later
kernel (R297). DESIGN CHOICE (log 117): the fields of the KIND 8 record that name an access are zero. -/
def execContextEnd (s : State) : Out :=
  let z := s.arg 0
  let cid : BitVec 12 := BitVec.ofNat 12 (s.arg 1)
  let mine := coreList.filter (s.inCtx cid)
  let s := (mine.filter fun c => (zIdx c).val == z).foldl (fun (s : State) (c : Fin 64) => s.modCore c (Core.stopForEnd (s.endCause c))) s
  if z = 0 then .next s
  else
    let s := mine.foldl
      (fun (s : State) (c : Fin 64) =>
        let cells := s.cells[(cumIdx c)].any fun x => x.2.1 == c
        let s := s.flushStores c
        let code := failCodes.getD (s.choice (failCodes.length - 1)) 0x10
        let s := s.chosen.modCore c fun k => k.ended (s.zc + 1) code
        if cells then s.freeCells c fun _ => true else s) s
    let gone := s.runs.filter fun r => r.cid == cid && !(r.st == .waiting && r.kind == .launch)
    let open3 (rs : List Run) : List (BitVec 16 × Nat) :=
      ((rs.map (·.l3)).flatten.filter fun e => !e.2.2).map fun e => (e.1, e.2.1)
    let own3 := (open3 gone).filter fun x => !(open3 (s.runs.filter fun r => !gone.contains r)).contains x
    let s := (coreList.filter fun c => mine.contains c || gone.any fun r => r.id == (s.core c).run).foldl
      (fun (s : State) (c : Fin 64) => s.dropSubs c) s
    let s := s.runs.foldl
      (fun (s : State) (r : Run) =>
        if r.cid == cid && r.st == .loading && r.kind == .launch then
          (gangCores r.gang).foldl (fun (s : State) (c : Fin 64) => s.modMail c fun m => { m with st := .empty }) s
        else s) s
    let s := (s.refuseHeld cid).dropUnfired cid
    let s : State := { s with
      cores := vmap (fun (k : Core) => { k with bc := keepLines cid k.bc }) s.cores
      rdc := vmap (keepLines cid) s.rdc
      home := keepLines cid s.home
      pins := s.pins.filter fun (p : Pin) => p.cid != cid
      arrivals := s.arrivals.filter fun a => !(a.2.2 == s.dev && own3.contains (a.1, a.2.1))
      mtu := vmap (fun (m : Mtu) => m.without cid) s.mtu
      runs := s.runs.filter fun (r : Run) => r.cid != cid || (r.st == .waiting && r.kind == .launch)
      ended := s.ended.filter (· != cid) ++ [cid] }
    let s := s.record ⟨8, s.arg 2, cid, 0, 0, 0, 0, false, 0, 0, 0, 0, false, 0⟩
    .next (s.prst cid 3)

/-! ## PLB refills (R307, R310) -/

/-- A PLB takes an answer: its 256 entries keep the pages `need` that the waiting word still asks for (R307). -/
def plbPut (ps : List Plb) (n : Plb) (need : Nat → Bool) : List Plb :=
  let rest := ps.filter fun p => p.page != n.page
  let keep := rest.filter fun p => need p.page
  let other := rest.filter fun p => !need p.page
  n :: keep ++ other.take (255 - keep.length)

/-- PLB_REFILL: numbers cluster, page and the address of the access in it; the MTU of the page's home answers core `ev.core`.
A refused install is a synonym fault of the waiting word (R307, R310, R313). -/
def execPlbRefill (s : State) : Out :=
  let c := s.ev.core
  let cl : Cl := if s.arg 0 = 0 then .c else if s.arg 0 = 1 then .l else if s.arg 0 = 2 then .x else .w
  let page := s.arg 1
  let cid := (s.core c).vis.csr.cid
  let need (p : Nat) : Bool := (s.ev.args.drop 3).contains p
  match s.xlate cid page with
  | (_, .synonym) =>
    .next (s.modCore c fun k => k.raise ⟨causeSynonym, 0, cl, cl.code, k.clus[clIx cl].pc, s.arg 2⟩)
  | (s, x) => .next (s.modCore c fun k => { k with plb := plbPut k.plb (x.plb page) need })

/-- The stream PLB of a cluster (R307). -/
def streamOf : Cl → Option (Fin 3)
  | .l => some 0
  | .w => some 1
  | _ => none

/-- A range of a word enters its pages: the stream PLB of its cluster fetches the next ones (R307). -/
def State.enterPages (s : State) (c : Fin 64) (cl : Cl) (pages : List Nat) : State :=
  match streamOf cl with
  | none => s
  | some i => (pages.drop 1).foldl (fun (s : State) (p : Nat) => s.prefetch c i p) s

end Sys2Proof.Machine
end

