-- ==== Sys2Proof/Machine/Reset.lean ====
section
/-!
DEFINITION. Die reset (R370, R371), readiness (R372), the device reset with its firmware check (R377, R379), and the host
link's failure (R365).
-/

namespace Sys2Proof.Machine

/-! ## Readiness (R372) -/

/-- The channels beside a channel of the same Cumulus die (R2). -/
def besides (c : Fin 64) : List (Fin 64) :=
  coreList.filter fun d => d.val / 16 == c.val / 16 && (d.val + 1 == c.val || d.val == c.val + 1)

/-- A memory channel can report ready: it has a device, like that of a channel beside it (R2, R372). DESIGN CHOICE (log 80):
a channel is unlike its neighbours when no channel beside it carries as many devices. -/
def State.channelOk (s : State) (c : Fin 64) : Bool := s.pop[c] != 0 && (besides c).any fun d => s.pop[d] == s.pop[c]

/-- MEM bits of the Cumulus dies all of whose channels are ready (R372). -/
def memBits (ch : Dword) : Dword :=
  BitVec.ofNat 64 (((List.range 4).map fun i => if ch.toNat / 2 ^ (16 * i) % 2 ^ 16 = 0xFFFF then 2 ^ (27 + i) else 0).sum)

/-- The readiness bits of a die's functions: bits of READY0 and of READY1 (R370, R372). -/
def readyBits (d : Nat) : Dword × Dword :=
  let one (i : Nat) : Dword := BitVec.ofNat 64 (2 ^ i)
  if 2 ≤ d ∧ d ≤ 5 then
    (one d ||| one (8 + (d - 2)) ||| one (27 + (d - 2)), BitVec.ofNat 64 ((2 ^ 16 - 1) * 2 ^ (16 * (d - 2))))
  else if d = 6 then (one 6 ||| one 12, 0)
  else (one d, 0)

/-- The readiness bits that a die's functions will set: those of its channels that carry a device, and MEM when all do (R2,
R372). -/
def State.readyDue (s : State) (d : Nat) : Dword × Dword :=
  let m := readyBits d
  let ch : Dword := BitVec.ofNat 64 ((coreList.map fun c => if s.channelOk c then 2 ^ c.val else 0).sum)
  (m.1 &&& (~~~(0x78000000 : Dword) ||| memBits (m.2 &&& ch)), m.2 &&& ch)

/-- READY0 and READY1 change; vector 4 follows a change (R372, R382). -/
def State.setReady (s : State) (a b : Dword) : State :=
  let t := s.modRegs fun g => { g with ready0 := a, ready1 := b }
  if s.regs.ready0 = a ∧ s.regs.ready1 = b then t else t.msi 4

/-- DRST.STATE changes; vector 3 follows (R370, R382). -/
def State.setDrst (s : State) (st : Nat) : State := (s.modRegs fun g => { g with drstState := st }).msi 3

/-- The security root verifies the stored firmware, the staged copy when there is one; a staged image that verifies raises
the fused minimum (R377). -/
def Trust.verify (t : Trust) : Trust × Bool :=
  match t.standby with
  | none => (t, verified t.minSvn t.firmware)
  | some b =>
    if verified t.minSvn (rlist b) then ({ t with running := some b, standby := none, minSvn := (fwSvnOf (rlist b)).toNat }, true)
    else ({ t with standby := none }, false)

/-- The verdict on the stored firmware, reached once after a reset (R377). -/
def Trust.judge (t : Trust) : Trust × Bool :=
  match t.passed with
  | some ok => (t, ok)
  | none => let v := t.verify; ({ v.1 with passed := some v.2 }, v.2)

/-- FUNCTION_READY: numbers the register (0 or 1) and the bit. A function is ready, but for a channel with no device or an
unlike one; MEM of a die follows its channels, PORT follows UP, and FW is set only where the stored firmware verifies. A die whose functions all are ready ends its reset (R2,
R340, R370, R372, R377). -/
def execFunctionReady (s : State) : Out :=
  let i := s.arg 1 % 64
  let b : Dword := BitVec.ofNat 64 (2 ^ i)
  let ch := if s.arg 0 ≠ 0 && s.channelOk (Fin.ofNat 64 i) then s.regs.ready1 ||| b else s.regs.ready1
  let v := if s.arg 0 = 0 ∧ i = 26 then s.trust.judge else (s.trust, true)
  let r0 := if s.arg 0 = 0 && !(14 ≤ i && i ≤ 25) && i < 27 && v.2 then s.regs.ready0 ||| b else s.regs.ready0
  let s : State := { s with trust := v.1 }
  let s := s.setReady (r0 ||| memBits ch) ch
  let m := s.readyDue s.regs.drstCur
  if s.regs.drstState = 4 ∧ s.regs.ready0 &&& m.1 = m.1 ∧ s.regs.ready1 &&& m.2 = m.2 then .next (s.setDrst 0)
  else .next s

/-! ## Die reset (R370, R371) -/

/-- A context holds a dirty line or a pin on a page homed on a Cumulus die (R371). -/
def State.touches (s : State) (cid : BitVec 12) (d : Nat) : Bool :=
  let here (va : Nat) : Bool := (homeDie va).val == d
  let dirty (l : Line) : Bool := l.cid == cid && l.dirty != 0 && here (l.la * 128)
  s.home.any dirty || s.rdc.toList.any (·.any dirty) || s.cores.toList.any (fun k => k.bc.any dirty)
    || s.pins.any fun p => p.cid == cid && (p.big || here (p.page * 2 ^ 21))

/-- The ranges of this device's memory that an engine command reads or writes (R210-R213, R217, R223). -/
def Cmd.ranges (m : Cmd) : List Span :=
  let a := m.quad.1.toNat
  let b := m.quad.2.1.toNat
  let n := lenOf m.quad.2.2.1
  match m.op with
  | .cpCopy _ _ | .cpSumFold _ _ _ | .cpSumCrc _ _ _ => [⟨a, n, .read⟩, ⟨b, n, .write⟩]
  | .cpLink _ _ | .cpLinkFold _ _ _ | .cpLinkCrc _ _ _ | .cpTileTo _ _ _ => [⟨a, n, .read⟩]
  | .cpFill _ _ _ | .cpTileFrom _ _ _ => [⟨b, n, .write⟩]
  | .cqPost _ _ => [⟨a, 64, .read⟩]
  | i => nbSpans m.slot i m.quad

/-- An engine command of a core touches a page homed on a Cumulus die (R371). -/
def Cmd.touches (m : Cmd) (d : Nat) : Bool := (spanPages m.ranges).any fun p => (homeDie (p * 2 ^ 21)).val == d

/-- The slot that a CQ.POST writes is homed on a Cumulus die (R327, R371; log 77). -/
def State.postTouches (s : State) (m : Cmd) (d : Nat) : Bool :=
  match m.op with
  | .cqPost _ _ =>
    let q := s.qp m.quad.2.1.toNat
    (pagesOf (q.base.toNat + 64 * q.tail) 64).any fun p => (homeDie (p * 2 ^ 21)).val == d
  | _ => false

/-- A context uses a die (R371). -/
def State.usesDie (s : State) (cid : BitVec 12) (d : Nat) : Bool :=
  let on := coreList.filter fun c => s.inCtx cid c
  if d = 6 then !on.isEmpty
  else if d = 1 then on.any fun c => (zenithOf c).val == 1
  else on.any (fun c => (cumulusOf c).val == d) || s.touches cid d
    || on.any fun c => (s.core c).cmds.any fun m => m.touches d || s.postTouches m d

/-- The contexts that run, have a launch under way or saved, or hold a dirty line or a pin: one is live until it ends, when its
kernels have ended too (R301, R371). -/
def State.contexts (s : State) : List (BitVec 12) :=
  let dirty (ls : List Line) : List (BitVec 12) := (ls.filter (·.dirty != 0)).map (·.cid)
  ((coreList.filter fun c => (s.core c).st = .running ∨ (s.core c).st = .suspended).map fun c =>
    (s.core c).vis.csr.cid) ++ (s.runs.filter fun r => !(r.st == .waiting && r.kind == .launch)).map (·.cid)
    ++ dirty s.home ++ (s.rdc.toList.map dirty).flatten ++ (s.cores.toList.map fun k => dirty k.bc).flatten ++ s.pins.map (·.cid)

/-! ### What is under way to and from a die (R370) -/

/-- The ranges that a started command or a holding word still reads or writes; a CP.LINK has read its source when it starts. -/
def Cmd.reach (m : Cmd) : List Span :=
  let g (i : Nat) : Nat := m.args.getD i 0
  match m.op with
  | .cpLink _ _ | .cpLinkFold _ _ _ | .cpLinkCrc _ _ _ => []
  | .hbload _ _ _ => [⟨g 0, 32, .read⟩]
  | .hbstore _ _ _ => [⟨g 0, m.slot.imageBytes, .write⟩]
  | .ldb _ _ _ => [⟨128 * g 0, 128 * g 1, .read⟩]
  | .cmoClean _ _ _ _ | .cmoInv _ _ _ _ | .cmoClinv _ _ _ _ => [⟨g 0, g 1, .access⟩]
  | .amoAdd _ _ _ _ | .amoMin _ _ _ _ | .amoMax _ _ _ _ | .amoOr _ _ _ _ | .amoAnd _ _ _ _ | .amoXchg _ _ _ _
  | .amoCas _ _ _ _ | .verchk _ _ => [⟨g 0, 8, .access⟩]
  | .ldacq _ _ _ _ _ | .strel _ _ _ _ _ => [⟨g 0, 8, .access⟩, ⟨g 1, g 2, .access⟩]
  | _ => m.ranges

/-- A command moves data to or from its core's own tile or basis store (R203, R208, R211, R217). -/
def Cmd.usesStores (m : Cmd) : Bool :=
  match m.op with
  | .cpTileTo _ _ _ | .cpTileFrom _ _ _ | .hbload _ _ _ | .hbstore _ _ _ | .nbqr _ _ _ | .nbrot _ _ _ | .nbcarry _ _ _ _ => true
  | _ => false

/-- A die is an end of what moves between a core and its own stores (R4). -/
def storesOn (c : Fin 64) (d : Nat) : Bool := (zenithOf c).val == d || (cumulusOf c).val == d

/-- An effect of an X word lands in the accumulators (R155, R200). -/
def XWrite.toStores : XWrite → Bool
  | .acc _ _ _ | .zero _ => true
  | _ => false

/-- A transfer issued before the item `mark` is under way between a core and its own stores: an LTV, which is a load of no line, an
STT, an MX.LACC or an accumulator write of X. -/
def Core.moving (k : Core) (mark : Nat) : Bool :=
  (k.loads.any fun l => l.id < mark && l.lines == 0) || (k.stts.any fun w => w.id < mark)
    || (k.laccs.any fun x => x.id < mark) || k.xpend.any fun x => x.id < mark && x.writes.any (·.toStores)

/-- A range of a core's command crosses to a die: its own Zenith die, Aurora for a Nimbus command, its own stores, or the homes it
reaches. -/
def Cmd.crosses (m : Cmd) (c : Fin 64) (d : Nat) : Bool :=
  if d = 1 then (zenithOf c).val == 1
  else if d = 6 then engineOf m.op == some 14
  else m.usesStores && (cumulusOf c).val == d || (spanPages m.reach).any fun p => (homeDie (p * 2 ^ 21)).val == d

/-- An UNCACHED store of a core crosses to a die. -/
def UStore.crosses (u : UStore) (c : Fin 64) (d : Nat) : Bool :=
  if d = 1 then (zenithOf c).val == 1 else (homeDie u.addr).val == d

/-- A load of a core may cross to a die: a load keeps no addresses, so it may to any home (log 61). -/
def loadCrosses (c : Fin 64) (d : Nat) : Bool := d != 6 && (d != 1 || (zenithOf c).val == 1)

/-- Something that was outstanding before the item `mark` is still under way to or from a die (R370). -/
def State.crossing (s : State) (d mark : Nat) : Bool :=
  coreList.any fun c =>
    let k := s.core c
    (loadCrosses c d && k.loads.any fun l => l.id < mark && l.lines != 0)
      || (storesOn c d && k.moving mark)
      || (k.ustores.any fun u => u.id < mark && u.crosses c d)
      || (k.cmds.filter (·.started) ++ k.syncs).any fun m => m.id < mark && m.crosses c d

/-- A started command that crosses is aborted: it completes toward its core with no data, and has no effect at the die (R370). -/
def State.abortCmd (s : State) (c : Fin 64) (m : Cmd) : State :=
  let s := match m.op with
    | .ldb _ _ _ => s.modCore c (·.endFill (m.args.getD 0 0))
    | _ => s
  s.finishDone c m

/-- A holding word that crosses is aborted: its cluster goes on with no data, no flag and no comparison (R370; log 61). -/
def State.abortSync (s : State) (c : Fin 64) (m : Cmd) : State :=
  match m.op with
  | .verchk _ _ => ((s.syncDone c m).turnTo c .l).issued id
  | _ => s.syncDone c m

/-- What moves between a core and its own stores is discarded: it lands nowhere (R370). -/
def Core.stopMoving (k : Core) : Core :=
  { k with
    loads := k.loads.filter (·.lines != 0)
    stts := []
    laccs := []
    xpend := k.xpend.map fun x => { x with writes := x.writes.filter (!·.toStores) } }

/-- What is in flight across a die's links is discarded: UNCACHED stores to it and transfers to its stores are performed nowhere;
loads, commands and holding words complete with no data. Which loads cross is an open choice, the bits of a number of the tape (R370; log 61). -/
def State.discard (s : State) (d : Nat) : State :=
  let n := s.choices.headD 0
  let t := State.chosen { s with cores := Vector.ofFn fun c : Fin 64 =>
    let k := if storesOn c d then s.cores[c].stopMoving else s.cores[c]
    { k with
      loads := k.loads.filter fun l => !loadCrosses c d || l.lines == 0 || n.testBit l.id
      ustores := k.ustores.filter fun u => !u.crosses c d } }
  coreList.foldl
    (fun (t : State) (c : Fin 64) =>
      let t := ((t.core c).cmds.filter fun m => m.started && m.crosses c d).foldl (fun (t : State) (m : Cmd) => t.abortCmd c m) t
      ((t.core c).syncs.filter fun m => m.crosses c d).foldl (fun (t : State) (m : Cmd) => t.abortSync c m) t) t

/-- DIE_RESET_GO: number die. Its readiness bits clear and every context that uses it ends; what is outstanding now is to drain.
Nothing of an earlier reset is left to come (R370, R371). -/
def execDieResetGo (s : State) : Out :=
  let d := s.arg 0
  if s.regs.drstState ≠ 0 ∨ d = 0 ∨ 7 ≤ d then .next s
  else
    let m := readyBits d
    let s : State := { s with agenda := s.agenda.filter fun x => x.op != .dieResetFenced && x.op != .dieResetDeadline }
    let s := s.setReady (s.regs.ready0 &&& ~~~m.1) (s.regs.ready1 &&& ~~~m.2)
    let s := (s.modRegs fun g => { g with drstForced := false, drstCur := d, drstMark := s.nextId }).setDrst 1
    let users := s.contexts.dedup.filter fun cid => s.usesDie cid d
    let s := users.foldl (fun (s : State) (cid : BitVec 12) => s.endCtx cid codeDieReset (Fin.ofNat 8 d)) s
    let s := s.at_ (s.zc + s.regs.drdl.toNat) .dieResetDeadline (.nums [d])
    .next (s.later 1 (s.choices.headD 0) .dieResetFenced (.nums [d, s.nextId]))

/-- The die is fenced: STATE 2, and its clearing follows (R370). -/
def State.fenceDie (s : State) (d : Nat) (forced : Bool) : State :=
  let s := (s.modRegs fun g => { g with drstForced := forced }).setDrst 2
  s.later 1 (s.choices.headD 0) .dieResetCleared (.nums [d, 0])

/-- DIE_RESET_FENCED: numbers die and the first identifier not outstanding at its GO; the die is fenced once everything before
it has drained (R370). -/
def execDieResetFenced (s : State) : Out :=
  if s.regs.drstState = 1 ∧ s.regs.drstCur = s.arg 0 then
    .next (if s.crossing (s.arg 0) (s.arg 1) then s.at_ (s.zc + 1) .dieResetFenced s.ev else s.fenceDie (s.arg 0) false)
  else .next s

/-- DIE_RESET_DEADLINE: number die; DRDL has passed with transactions undrained, which are discarded (R370). -/
def execDieResetDeadline (s : State) : Out :=
  if s.regs.drstState = 1 ∧ s.regs.drstCur = s.arg 0 then .next ((s.discard (s.arg 0)).fenceDie (s.arg 0) true) else .next s

/-- The SRAMs of a core's Cumulus die are cleared: its accumulators, tile store and basis store (R4, R370). -/
def Core.clearStores (k : Core) : Core := { k with acc := [], tile := [], tag := [], basis := [] }

/-- What of a core lies on its Zenith die is cleared; its stores and shapes stay on its Cumulus die (R4, R370). -/
def Core.clearZenith (k : Core) : Core :=
  { Core.reset with acc := k.acc, tile := k.tile, tag := k.tag, basis := k.basis, shape := k.shape, run := k.run }

/-- The SRAMs of a die are cleared; GDDR-7 keeps its contents (R370). -/
def State.clearDie (s : State) (d : Nat) : State :=
  if d = 1 then
    { s with
      cores := Vector.ofFn fun c : Fin 64 => if (zenithOf c).val = 1 then (s.cores[c]).clearZenith else s.cores[c]
      rdc := s.rdc.set 1 [] }
  else if 2 ≤ d ∧ d ≤ 5 then
    let i : Fin 4 := Fin.ofNat 4 (d - 2)
    let s : State := { s with
      cores := Vector.ofFn fun c : Fin 64 => if cumIdx c = i then (s.cores[c]).clearStores else s.cores[c]
      home := s.home.filter fun l => homeIdx (l.la * 128) != i
      mtu := s.mtu.set i Mtu.reset
      cells := s.cells.set i []
      allocAt := s.allocAt.set i 0 }
    s.reportCells i
  else s

/-- DIE_RESET_CLEARED: numbers die and stage. At stage 0 STATE 3, the SRAMs clear; at stage 1 STATE 4, links and memory
channels retrain, and each function then sets its bit (R370). -/
def execDieResetCleared (s : State) : Out :=
  let d := s.arg 0
  if s.arg 1 = 0 then
    if s.regs.drstState ≠ 2 ∨ s.regs.drstCur ≠ d then .next s
    else
      let s := (s.setDrst 3).clearDie d
      .next (s.later 1 (s.choices.headD 0) .dieResetCleared (.nums [d, 1]))
  else if s.regs.drstState ≠ 3 ∨ s.regs.drstCur ≠ d then .next s
  else
    let s := s.setDrst 4
    let m := s.readyDue d
    let due : List (Nat × Nat) :=
      ((List.range 27).filter fun i => m.1.getLsbD i).map (fun i => (0, i))
        ++ ((List.range 64).filter fun i => m.2.getLsbD i).map fun i => (1, i)
    .next (due.foldl
      (fun (s : State) (x : Nat × Nat) => s.later 1 (s.choices.headD 0) .functionReady (.nums [x.1, x.2])) s)

/-! ## Device reset (R377, R379) -/

/-- DEVICE_RESET: every context ends, every die and register is reset and the count restarts at 0; device memory and the
security root are kept, and the firmware is verified again (R377, R379; log 33). -/
def execDeviceReset (s : State) : Out :=
  let v := Trust.judge { s.trust with passed := none }
  let t : State := { State.reset with
    latt := s.latt, dev := s.dev, pop := s.pop, mem := s.mem, trust := v.1, outbox := s.outbox, msix := s.msix
    replies := s.replies, inbox := s.inbox.map fun e => { e with at_ := e.at_ - s.zc }
    choices := s.choices, freeCtr := s.freeCtr, nextId := s.nextId }
  .next (if v.2 then t.later 1 (t.choices.headD 0) .functionReady (.nums [0, 26]) else t)

/-- HOST_PORT_LINK_DOWN: the link fails and goes down; nothing of the host reaches the device until a reset (R365,
R379). -/
def execHostPortLinkDown (s : State) : Out := .next (s.modRegs fun g => { g with hostUp := false })

end Sys2Proof.Machine
end

