-- ==== Sys2Proof/Machine/Link.lean ====
section
/-!
DEFINITION. The Stratus ports (R339, R340, R387) and the host's accesses through BAR2 (R306, R381).
-/

namespace Sys2Proof.Machine

/-! ## Ports (R339, R340) -/

/-- The readiness bit of a port (R372). -/
def portBit (p : Fin 12) : Dword := BitVec.ofNat 64 (2 ^ (14 + p.val))

/-- FLIT_RECEIVE: numbers port, 1 when the flit's check passes, and the device this one sent the flit toward, with 1 added, or
0. A flit that fails is retried and counted, and the wait for that device's acknowledgements starts again; the sixteenth failure
in a row takes the port down (R339, R340, R387). -/
def execFlitReceive (s : State) : Out :=
  let p : Fin 12 := Fin.ofNat 12 (s.arg 0)
  if s.arg 1 = 1 then .next { s with flits := s.flits.set p 0 }
  else
    let n := s.flits[p] + 1
    let s := s.modRegs fun g => { g with portRetry := g.portRetry.set p (g.portRetry[p] + 1) }
    let s := if s.arg 2 = 0 then s else s.noteSend (s.arg 2 - 1)
    if n < 16 then .next { s with flits := s.flits.set p n }
    else
      let s : State := { s with flits := s.flits.set p 0 }
      let s := s.modRegs fun g => { g with
        portUp := g.portUp.set p false, portDowns := g.portDowns.set p (g.portDowns[p] + 1) }
      .next (s.setReady (s.regs.ready0 &&& ~~~portBit p) s.regs.ready1)

/-- PORT_TRAINED: number port; it carries flits again, and acknowledgements held for a route are sent (R339, R340,
R387). -/
def execPortTrained (s : State) : Out :=
  let p : Fin 12 := Fin.ofNat 12 (s.arg 0)
  let s := s.modRegs fun g => { g with portUp := g.portUp.set p true }
  let s : State := { s with flits := s.flits.set p 0, outbox := s.outbox ++ s.ackHeld, ackHeld := [] }
  .next (s.setReady (s.regs.ready0 ||| portBit p) s.regs.ready1)

/-! ## BAR2 (R306, R381) -/

/-- The dies an access touches have their readiness bits, and their memory is usable (R372, R381). -/
def State.homesReady (s : State) (a n : Nat) : Bool :=
  (pagesOf a n).all fun p =>
    let d := (homeDie (p * 2 ^ 21)).val
    s.regs.ready0.getLsbD d && s.memReady d

/-- A host access that fails raises an error record (R381). -/
def State.bar2Fail (s : State) (a : Nat) : State := s.errRecord 11 (homeDie a) 0 0 0 a

/-- BAR2_READ: numbers address and bytes; served at home or, on an UNCACHED page, at memory, or answered Unsupported
Request (R306, R381). -/
def execBar2Read (s : State) : Out :=
  let a := s.arg 0
  let n := s.arg 1
  let no (s : State) : Out :=
    let t := s.bar2Fail a
    .next { t with replies := t.replies ++ [none] }
  if !s.regs.hostUp then .next s
  else if 2 ^ 48 < a + n ∨ !s.homesReady a n then no s
  else
    match s.engineRead 0 a n with
    | (t, .inl x) => .next { t with replies := t.replies ++ [some x] }
    | (_, .inr _) => no s

/-- The bytes of a context's entry in the context table share a byte with a physical range (R303). -/
def State.entryHit (s : State) (cid : BitVec 12) (pa n : Nat) : Bool :=
  let e := s.regs.ctxbase.toNat + 16 * cid.toNat
  pa < e + 16 && e < pa + n

/-- The host has written `n` bytes at an address of its window: a context whose table entry they reach is live again when
the entry says so (R301). -/
def State.entriesWritten (s : State) (a n : Nat) : State :=
  { s with ended := s.ended.filter fun cid =>
      !(linePieces a n).any fun p => s.entryHit cid (s.faultPa 0 (p.1 * 128 + p.2.1)) p.2.2.1 }

/-- BAR2_WRITE: numbers address and bytes, and the data; performed at home or at memory, or dropped (R301, R306, R381). -/
def execBar2Write (s : State) : Out :=
  let a := s.arg 0
  let n := s.arg 1
  if !s.regs.hostUp then .next s
  else if 2 ^ 48 < a + n ∨ !s.homesReady a n then .next (s.bar2Fail a)
  else
    match s.engineWrite 0 a n (bytesNat (rlist s.ev.data)) 0 with
    | (t, .inl _) => .next (t.entriesWritten a n)
    | (_, .inr _) => .next (s.bar2Fail a)

end Sys2Proof.Machine
end

