-- ==== Sys2Proof/Machine/Manage.lean ====
section
/-!
DEFINITION. The management commands (R297, R315, R374-R378). A command reads its arguments and does its work when it
runs; its result, BUSY and vector 2 follow at an open count. Addresses are virtual in CID 0; an address that is refused
is a bad argument (log 31).
-/

namespace Sys2Proof.Machine

/-- Result codes (R374). -/
def resDone : Nat := 0
def resBad : Nat := 1
def resRefused : Nat := 2
def resSignature : Nat := 3

/-- An argument of the command. -/
def State.marg (s : State) (i : Fin 3) : Nat := s.regs.marg[i].toNat

/-- FW is set: every command but RESYNC and FWSTAGE is refused while it is 0 (R374). -/
def State.fw (s : State) : Bool := s.regs.ready0.getLsbD 26

/-- Bytes of the host window. -/
def State.hostRead (s : State) (a n : Nat) : State × Option Nat :=
  if 2 ^ 48 < a + n then (s, none)
  else
    match s.engineRead 0 a n with
    | (t, .inl x) => (t, some x)
    | (t, .inr _) => (t, none)

/-- The dirty bytes that home holds of a range of the host window are performed at memory (R374). -/
def State.hostSettle (s : State) (a n : Nat) : State := (linesOf a n).foldl (fun s la => s.cleanHome 0 la) s

/-- Write bytes of the host window, performed at memory, of which BUSY's clearing is the sign (R374); tells whether every
page took them. -/
def State.hostWrite (s : State) (a n x : Nat) : State × Bool :=
  if 2 ^ 48 < a + n then (s, false)
  else
    match s.engineWrite 0 a n x 0 with
    | (t, r) => (t.hostSettle a n, r.isLeft)

/-! ## RESYNC (R375) -/

/-- The sum of fields placed at byte offsets. -/
def placed (l : List (Nat × Nat)) : Nat := (l.map fun f => fld f.2 (8 * f.1)).foldl (· + ·) 0

/-- The two doublewords of a core in the summary block (R375). -/
def State.coreWords (s : State) (c : Fin 64) : Nat × Nat :=
  let k := s.core c
  let w0 := k.vis.csr.cid.toNat + fld (k.st == .running).toNat 12 + fld s.mail[c].st.code 13 + fld k.vis.csr.pstate 16
  let held (cl : Cl) : Nat := (k.syncs.filter (·.cl == cl)).length + (k.cmds.filter fun m => engineOf m.op == none && m.cl == cl).length
  let l := k.loads.length + held .l
  let w := k.stts.length + k.ustores.length + held .w
  let sh := (k.shape.toList.map fun g => g.queue.length).foldl (· + ·) 0
  (w0, min l 4095 + fld (min w 4095) 12 + fld (min (k.depth 12) 255) 24 + fld (min (k.depth 13) 255) 32
    + fld (min (k.depth 14) 255) 40 + fld (min sh 255) 48)

/-- The parked entries of an MTU in the summary block (R375). -/
def lateWords (m : Mtu) (i : Nat) : List (Nat × Nat) :=
  m.late.map fun e => (0x800 + 8 * (64 * i + e.slot), e.line.stamp.toNat + 2 ^ 48)

/-- The summary block, 4 KiB (R375). -/
def State.summary (s : State) : Nat :=
  let g := s.regs
  let head : List (Nat × Nat) :=
    [(0x000, s.zc % 2 ^ 64), (0x008, g.ready0.toNat), (0x010, g.ready1.toNat), (0x018, g.frhead.toNat),
      (0x020, g.frtail.toNat), (0x028, g.frlost.toNat), (0x030, g.pwstat), (0x038, g.drst),
      (0x060, Config.nimbusFree s.nbView % 2 ^ 64), (0x068, s.arrivals.length), (0x070, g.errhead.toNat)]
  let cells := (List.finRange 4).map fun i => (0x040 + 8 * i.val, s.view[i])
  let late := (List.finRange 4).map fun i => (0x080 + 8 * i.val, s.mtu[i].late.length)
  let ce := (List.finRange 8).map fun d => (0x0B0 + 8 * d.val, g.cecnt[d].toNat)
  let cores := (coreList.map fun c =>
    [(0x100 + 16 * c.val, (s.coreWords c).1), (0x108 + 16 * c.val, (s.coreWords c).2)]).flatten
  let parked := ((List.finRange 4).map fun i => lateWords s.mtu[i] i.val).flatten
  placed (head ++ cells ++ late ++ ce ++ cores ++ parked)

/-- RESYNC: the summary block goes to MARG0, 4 KiB aligned (R374, R375). -/
def execResync (s : State) : Out :=
  let a := s.marg 0
  if a % 4096 ≠ 0 then .next (s.mgmtEnd resBad)
  else
    match s.hostWrite a 4096 s.summary with
    | (t, ok) => .next (t.mgmtEnd (if ok then resDone else resBad))

/-! ## Image slots (R374, R376) -/

/-- LOADIMG: MARG0 slot, MARG1 image address, MARG2 length; the image goes to an empty slot unless it breaks R71-R73
(R376). -/
def execLoadimg (s : State) : Out :=
  let slot := s.marg 0
  let n := s.marg 2
  if !s.fw then .next (s.mgmtEnd resRefused)
  else if 64 ≤ slot then .next (s.mgmtEnd resBad)
  else if (sget slot s.images).isSome ∨ 2 ^ 26 < n then .next (s.mgmtEnd resRefused)
  else
    match s.hostRead (s.marg 1) n with
    | (t, none) => .next (t.mgmtEnd resBad)
    | (t, some x) =>
      let b := natBytes n x
      if !imageOk (rof b) then .next (t.mgmtEnd resRefused)
      else .next (State.mgmtEnd { t with images := sput slot ⟨rof b, digestOf b⟩ t.images } resDone)

/-- A launch of an image slot is posted, under way or running; a saved one is none of these until PREQ.RES makes it a launch again
(R326, R374). -/
def State.slotUsed (s : State) (slot : Nat) : Bool :=
  let of (r : MailReq) : Bool := r.image.toNat / 2 ^ 16 % 2 ^ 16 == slot
  (s.runs.any fun r => r.st != .saved && r.saved.any fun x => of x.2.1) || coreList.any fun c =>
    ((s.mail[c].st == .posted || s.mail[c].st == .loading || s.mail[c].st == .suspended) && of s.mail[c].req)
      || ((s.core c).st != .idle && of (s.core c).launch)

/-- UNLOADIMG: MARG0 slot; refused while a launch of it is posted or running (R374). -/
def execUnloadimg (s : State) : Out :=
  let slot := s.marg 0
  if !s.fw then .next (s.mgmtEnd resRefused)
  else if 64 ≤ slot then .next (s.mgmtEnd resBad)
  else if s.slotUsed slot then .next (s.mgmtEnd resRefused)
  else .next (State.mgmtEnd { s with images := sdel slot s.images } resDone)

/-! ## ACKEND and CLRARR (R297, R315, R374) -/

/-- A context is live: its entry in the context table says so, and it has not ended since (R301, R303). -/
def State.tableLive (s : State) (cid : BitVec 12) : Bool :=
  s.mem.read (s.regs.ctxbase.toNat + 16 * cid.toNat) 1 % 2 == 1 && !s.ended.contains cid

/-- ACKEND: MARG0 CID; its parked entries are freed, unless it is live (R315, R374). -/
def execAckend (s : State) : Out :=
  let cid : BitVec 12 := BitVec.ofNat 12 (s.marg 0)
  if !s.fw then .next (s.mgmtEnd resRefused)
  else if 4096 ≤ s.marg 0 then .next (s.mgmtEnd resBad)
  else if s.tableLive cid then .next (s.mgmtEnd resRefused)
  else
    let free (m : Mtu) : Mtu := { m with late := m.late.filter fun e => BitVec.ofNat 12 e.line.stamp.toNat != cid }
    .next (State.mgmtEnd { s with mtu := vmap free s.mtu } resDone)

/-- CLRARR: MARG0 D3ID; its held arrivals are discarded (R297, R374). -/
def execClrarr (s : State) : Out :=
  if !s.fw then .next (s.mgmtEnd resRefused)
  else if 2 ^ 16 ≤ s.marg 0 then .next (s.mgmtEnd resBad)
  else
    let keep := s.arrivals.filter fun a => a.1 != BitVec.ofNat 16 (s.marg 0)
    .next (State.mgmtEnd { s with arrivals := keep } resDone)

/-! ## Firmware and attestation (R377, R378) -/

/-- FWSTAGE: MARG0 image address, MARG1 length; an image that verifies is written to the standby copy (R377). -/
def execFwstage (s : State) : Out :=
  let n := s.marg 1
  if n < 64 + 2420 then .next (s.mgmtEnd resSignature)
  else
    match s.hostRead (s.marg 0) n with
    | (t, none) => .next (t.mgmtEnd resSignature)
    | (t, some x) =>
      let b := natBytes n x
      if verified t.trust.minSvn b then .next (State.mgmtEnd { t with trust := { t.trust with standby := some (rof b) } } resDone)
      else .next (t.mgmtEnd resSignature)

/-- The attestation report up to its signature, 0x860 bytes (R378). -/
def State.reportBody (s : State) (nonce : Nat) : Nat :=
  let mask := (s.images.map fun x => 2 ^ x.1).foldl (· + ·) 0
  let fw := s.trust.firmware
  placed ([(0x000, 0x544154534A565A46), (0x008, nonce), (0x028, bytesNat (digestOf (fwSignedPart fw))),
      (0x048, (fwSvnOf fw).toNat), (0x050, mask % 2 ^ 64), (0x858, s.zc % 2 ^ 64)]
    ++ s.images.map fun x => (0x058 + 32 * x.1, bytesNat x.2.digest))

/-- The attestation report, 4564 bytes: the body, then the signature over its digest (R378). -/
def State.report (s : State) (nonce : Nat) : Nat :=
  let body := s.reportBody nonce
  let sign := (List.range 2420).map (Config.signature s.freeCtr (digestOf (natBytes 0x860 body)))
  body + bytesNat sign * 2 ^ (8 * 0x860)

/-- ATTEST: MARG0 nonce address, MARG1 report address; the signed report is written (R378). -/
def execAttest (s : State) : Out :=
  if !s.fw then .next (s.mgmtEnd resRefused)
  else
    match s.hostRead (s.marg 0) 32 with
    | (t, none) => .next (t.mgmtEnd resBad)
    | (t, some nonce) =>
      match (t.useFree 1).hostWrite (t.marg 1) 4564 (t.report nonce) with
      | (t, ok) => .next (t.mgmtEnd (if ok then resDone else resBad))

/-- MGMT_COMMAND_COMPLETE: number the result; BUSY clears and vector 2 is sent (R374, R382). -/
def execMgmtCommandComplete (s : State) : Out :=
  .next ((s.modRegs fun g => { g with mbusy := false, mresult := BitVec.ofNat 8 (s.arg 0) }).msi 2)

end Sys2Proof.Machine
end

