-- ==== Sys2Proof/Machine/Nimbus.lean ====
section
/-!
DEFINITION. Basis slots and the Nimbus unit: slot images (R21, R208), seeds (R209), orthonormalisation, rotation
and carry (R210-R213), switches (R214) and their checks (R349).
-/

namespace Sys2Proof.Machine

/-! ## Slots (R21, R203) -/

/-- The 256-bit image of a slot (R21). -/
def Slot.image (x : Slot) : Nat :=
  x.boff.toNat + x.rows.toNat * 2 ^ 32 + x.rank.toNat * 2 ^ 64 + x.kw.toNat * 2 ^ 80 + x.rowoff.toNat * 2 ^ 96
    + x.gen.toNat * 2 ^ 128 + x.pgen.toNat * 2 ^ 144 + x.pvalid.toNat * 2 ^ 160 + x.pready.toNat * 2 ^ 161
    + x.pfail.toNat * 2 ^ 162 + x.pcode.toNat * 2 ^ 163 + x.seed.toNat * 2 ^ 176 + x.swstep.toNat * 2 ^ 192

/-- A slot read from its image; reserved bits are dropped (R9, R21). -/
def Slot.ofImage (n : Nat) : Slot :=
  let f (lo w : Nat) : BitVec w := BitVec.ofNat w (n / 2 ^ lo)
  ⟨f 0 19, f 32 20, f 64 9, f 80 7, f 96 32, f 128 16, f 144 16, n / 2 ^ 160 % 2 == 1, n / 2 ^ 161 % 2 == 1,
    n / 2 ^ 162 % 2 == 1, f 163 8, f 176 16, f 192 64⟩

/-- First element of region(G) (R203). -/
def Slot.region (x : Slot) (g : Nat) : Nat := x.boff.toNat + g % 2 * (x.rows.toNat * x.rank.toNat)

/-- Elements of a region (R203). -/
def Slot.elems (x : Slot) : Nat := x.rows.toNat * x.rank.toNat

/-- Elements of the basis store (R203). -/
def basisSize : Nat := 524288

/-- Write BF16 elements into the basis store. -/
def basisWrite (b : Sparse (BitVec 16)) (at_ : Nat) : List Nat → Sparse (BitVec 16)
  | [] => b
  | x :: r => basisWrite (sset 0 at_ (BitVec.ofNat 16 x) b) (at_ + 1) r

/-- Read `n` BF16 elements of the basis store. -/
def basisRead (b : Sparse (BitVec 16)) (at_ n : Nat) : List Nat :=
  (List.range n).map fun i => (srd 0 (at_ + i) b).toNat

/-- A matrix or Nimbus command names a slot (R208). -/
def Core.namesSlot (k : Core) (h : Fin 16) : Bool :=
  (k.shape.toList.any fun g => g.queue.any fun m =>
    (cbProj m.cb && cbPslot m.cb == h) || (cbSketch m.cb && cbSslot m.cb == h))
  || k.cmds.any fun m => match m.op with
    | .nbqr _ _ x | .nbrot _ _ x | .nbcarry _ _ _ x | .nbswitch _ _ x => x == h
    | _ => false

/-- A slot transfer at issue (R208, R161, R159). DESIGN CHOICE (log 101): HBSTORE writes the slot's fields as they stand at its
issue, which fixes its range, and the regions' elements as they stand at its completion. -/
def slotWord (op : Instr) (h : Fin 16) (a k : Fin 64) (s : State) : Out :=
  if (s.tok k).st = .pending ∨ (s.rg a).toNat % 32 ≠ 0 ∨ s.me.namesSlot h then .next s.illegal
  else
    .next (s.access (s.spans op) (s.issued fun t =>
      ((t.modMe fun c => c.pend k).addCmd
        { t.newCmd op k [(s.rg a).toNat] with slot := s.me.old.slot[h], started := true }).unbounded .slotTransferComplete
        (.of t.turn.core t.nextId)))

/-- HBLOAD (R208). -/
def execHbload (h : Fin 16) (a k : Fin 64) (s : State) : Out := slotWord (.hbload h a k) h a k s

/-- HBSTORE (R208). -/
def execHbstore (h : Fin 16) (a k : Fin 64) (s : State) : Out := slotWord (.hbstore h a k) h a k s

/-- The checks of a loaded slot image (R208). -/
def Slot.imageOk (x : Slot) : Bool :=
  1 ≤ x.rank.toNat && x.rank.toNat ≤ 256 && 1 ≤ x.kw.toNat && x.kw.toNat ≤ 64 && 1 ≤ x.rows.toNat
    && x.region x.gen.toNat + x.elems ≤ basisSize
    && (!x.pready || x.region (x.gen.toNat + 1) + x.elems ≤ basisSize)

/-- A slot or Nimbus command stopped by a page ends the context. HBLOAD fails with ACCESS; no code is listed for the others,
whose token fails when the context's end abandons them (R208, R226, R316). -/
def State.cmdRefused (s : State) (c : Fin 64) (m : Cmd) (e : Nat × Nat) : State :=
  let s := match m.op with
    | .hbload _ _ _ => s.finishFail c m 0x10
    | _ => s
  s.accessEnd c m.cl (cmdQueue m) m.pc e.1 e.2

/-- SLOT_TRANSFER_COMPLETE: the HBLOAD or HBSTORE `ev.id` of core `ev.core`. The pages of the regions are reached before the
slot's limits are checked at the completion (R208). -/
def execSlotTransferComplete (s : State) : Out :=
  s.served fun s =>
  let c := s.ev.core
  match (s.core c).cmd s.ev.id with
  | none => .next s
  | some m =>
    let k := s.core c
    let cid := k.vis.csr.cid
    let a := m.args.getD 0 0
    match m.op with
    | .hbload h _ _ =>
      match s.engineRead cid a 32 with
      | (s, .inr e) => .next (s.cmdRefused c m e)
      | (s, .inl img) =>
        let x := Slot.ofImage img
        match s.engineRead cid (a + 32) (x.imageBytes - 32) with
        | (s, .inr e) => .next (s.cmdRefused c m e)
        | (s, .inl d) =>
          if !x.imageOk then .next (s.finishFail c m 0x24)
          else
            let el (lo : Nat) : List Nat := (List.range x.elems).map fun i => d / 2 ^ (16 * (lo + i)) % 65536
            let s := s.modCore c fun k =>
              let b := basisWrite k.basis (x.region x.gen.toNat) (el 0)
              let b := if x.pready then basisWrite b (x.region (x.gen.toNat + 1)) (el x.elems) else b
              { k with
                basis := b
                switch := k.switch.set h none
                vis := { k.vis with slot := k.vis.slot.set h x } }
            .next (s.finishDone c m)
    | _ =>
      let x := m.slot
      let e0 := basisRead k.basis (x.region x.gen.toNat) x.elems
      let e1 := if x.pready then basisRead k.basis (x.region (x.gen.toNat + 1)) x.elems else []
      let d := x.image + 2 ^ 256 * bytesNat ((e0 ++ e1).map (natBytes 2)).flatten
      match s.engineWrite cid a x.imageBytes d (stampOf cid c k.seqs[(3 : Fin 15)]) with
      | (s, .inr e) => .next (s.cmdRefused c m e)
      | (s, .inl _) => .next (s.finishDone c m)

/-- HSEED (R209). -/
def execHseed (h : Fin 16) (a : Fin 64) (s : State) : Out :=
  let x := s.rg a
  if 65536 ≤ x.toNat then .next s.illegal
  else
    .next (s.issued fun t => t.modMe fun k => k.modVis fun v =>
      { v with slot := v.slot.set h { v.slot[h] with seed := x.extractLsb' 0 16 } })

/-! ## Nimbus words at issue (R210-R214, R349) -/

/-- Reserved bits of a Nimbus auxiliary word are zero (R210). -/
def nbAuxOk (x : Dword) : Bool := auxLow x false && x.toNat / 2 ^ 56 == 0

/-- A Nimbus word (R210, R349): its own limits `ok`, its pages, then its command; `f` is what it sets at
the end of its issue cycle. -/
def nimbusWord (op : Instr) (k a : Fin 64) (h : Fin 16) (ok : Dword × Dword × Dword × Dword → Slot → Bool)
    (f : Nat → Core → Core) (s : State) : Out :=
  let x := s.quadAt a
  let aux := x.2.2.2
  let ts := auxToks aux
  let slot := s.me.old.slot[h]
  if (s.tok k).st = .pending ∨ !nbAuxOk aux ∨ badToks s.me.old k ts ∨ !ok x slot then .next s.illegal
  else
    .next (s.access (s.spans op) (s.issued fun t =>
      (t.modMe fun c => f t.nextId (c.pend k)).addCmd { t.quadCmd op k x ts with slot := slot }))

/-- Addresses of FP32 matrices are 4-byte aligned (R210). -/
def nbAligned (x : Dword × Dword × Dword × Dword) : Bool :=
  x.1.toNat % 4 == 0 && x.2.1.toNat % 4 == 0 && x.2.2.1.toNat % 4 == 0

def execNbqr (k a : Fin 64) (h : Fin 16) (s : State) : Out :=
  nimbusWord (.nbqr k a h) k a h
    (fun x t => nbAligned x && x.2.2.1 == 0 && nbDim x.2.2.2 != 0 && t.rank.toNat ≤ t.kw.toNat) (fun _ c => c) s

def execNbrot (k a : Fin 64) (h : Fin 16) (s : State) : Out :=
  nimbusWord (.nbrot k a h) k a h (fun x _ => nbAligned x && nbDim x.2.2.2 != 0) (fun _ c => c) s

def execNbcarry (k a : Fin 64) (reset : Bool) (h : Fin 16) (s : State) : Out :=
  nimbusWord (.nbcarry k a reset h) k a h (fun x _ => nbAligned x && nbDim x.2.2.2 != 0) (fun _ c => c) s

/-- NBSWITCH records the switch at the end of its issue cycle (R214). -/
def execNbswitch (k a : Fin 64) (h : Fin 16) (s : State) : Out :=
  let step := s.csr.step
  nimbusWord (.nbswitch k a h) k a h
    (fun x t => x.2.1 == 0 && x.2.2.1 == 0 && nbDim x.2.2.2 == 0 && !t.pvalid && step < x.1)
    (fun id c =>
      let x := (s.quadAt a).1
      let y := c.vis.slot[h]
      let y := { y with pgen := y.gen + 1, swstep := x, pvalid := true, pfail := false, pcode := 0 }
      { c with switch := c.switch.set h (some id), vis := { c.vis with slot := c.vis.slot.set h y } }) s

/-! ## The algorithms (R211-R213) -/

/-- An FP32 pattern is neither infinite nor NaN. -/
def finite32 (x : Nat) : Bool := x / 2 ^ 23 % 256 != 255

/-- RNE32(a·b + c) (R210). -/
def fma32 (a b c : Nat) : Nat := (elFma false false 0 a b c).1

/-- RNE32(c − a·b) (R211). -/
def fnma32 (a b c : Nat) : Nat := (elFma true false 0 a b c).1

/-- RNE32(a / b) of finite values with b not zero (R211). -/
def div32 (a b : Nat) : Nat :=
  match fp32.decode a, fp32.decode b with
  | .fin n m e, .fin d k f =>
    if m = 0 then fp32.pack (n ^^ d) 0
    else
      let (q, qe, st) := quot m e k f
      (fp32.round (n ^^ d) q qe st).1
  | _, _ => fp32.nanBits

/-- The ordered sum of products of two columns (R211-R213). -/
def dot32 (x y : List Nat) : Nat := (List.zip x y).foldl (fun d p => fma32 p.1 p.2 d) 0

/-- One pass step of NBQR on a column against the columns done in this pass: the column, or a code, the first that the order of
the computation meets (R211; log 102). -/
def qrColumn (done : List (List Nat)) (col : List Nat) : List Nat ⊕ Nat :=
  let r := done.foldl
    (fun (acc : List Nat ⊕ Nat) qb =>
      match acc with
      | .inr e => .inr e
      | .inl qa =>
        let d := dot32 qb qa
        let qa := List.zipWith (fun x y => fnma32 d y x) qa qb
        if finite32 d && qa.all finite32 then .inl qa else .inr 0x27) (.inl col)
  match r with
  | .inr e => .inr e
  | .inl qa =>
    let s := dot32 qa qa
    if !finite32 s then .inr 0x27
    else if s % 2 ^ 31 = 0 then .inr 0x26
    else
      let nrm := (sqrtF fp32 (fp32.decode s)).1
      let q := qa.map fun x => div32 x nrm
      if q.all finite32 then .inl q else .inr 0x27

/-- One pass of NBQR over the columns (R211). -/
def qrPass (cols : List (List Nat)) : List (List Nat) ⊕ Nat :=
  cols.foldl
    (fun (acc : List (List Nat) ⊕ Nat) col =>
      match acc with
      | .inr e => .inr e
      | .inl done =>
        match qrColumn done col with
        | .inl q => .inl (done ++ [q])
        | .inr e => .inr e) (.inl [])

/-- Columns of a row-major matrix of `rows` × `cols` held as a number of 32-bit elements. -/
def columnsOf (x rows cols : Nat) : List (List Nat) :=
  (List.range cols).map fun j => (List.range rows).map fun i => x / 2 ^ (32 * (i * cols + j)) % 2 ^ 32

/-- Row-major elements of columns. -/
def rowMajor (rows : Nat) (cols : List (List Nat)) : List Nat :=
  ((List.range rows).map fun i => cols.map fun c => c.getD i 0).flatten

/-- A row-major matrix as a number. -/
def packFp (xs : List Nat) : Nat := bytesNat ((xs.map (natBytes 4)).flatten)

/-- The result of a Nimbus command: matrices to write (address, elements), the BF16 rows of NBQR, or a
code. -/
abbrev NbRes := (List (Nat × List Nat) × List Nat) ⊕ Nat

/-- NBQR (R211). DESIGN CHOICE (log 102): of several failures that apply REGION comes first, then NOT FINITE of an element of Y,
then the first that the passes meet. -/
def nbqrRun (slot : Slot) (m out y : Nat) : NbRes :=
  let r := slot.rank.toNat
  let cols := columnsOf y m slot.kw.toNat
  if m < slot.rowoff.toNat + slot.rows.toNat || basisSize < slot.region (slot.gen.toNat + 1) + slot.elems then .inr 0x25
  else if !cols.all (·.all finite32) then .inr 0x27
  else
    match qrPass cols with
    | .inr e => .inr e
    | .inl q1 =>
      match qrPass q1 with
      | .inr e => .inr e
      | .inl q2 =>
        let p := q2.take r
        let rows := p.map fun c => (c.drop slot.rowoff.toNat).take slot.rows.toNat
        let bf := (rowMajor slot.rows.toNat rows).map fun x => (bf16.ofFV (fp32.decode x)).1
        .inl ([(out, rowMajor m p)], bf)

/-- NBROT (R212). -/
def nbrotRun (r m out pn po : Nat) : NbRes :=
  let a := columnsOf pn m r
  let b := columnsOf po m r
  let c := (a.map fun x => b.map fun y => dot32 x y).flatten
  if a.all (·.all finite32) && b.all (·.all finite32) && c.all finite32 then .inl ([(out, c)], []) else .inr 0x27

/-- Rows of a row-major matrix. -/
def rowsOf (x rows cols : Nat) : List (List Nat) :=
  (List.range rows).map fun i => (List.range cols).map fun j => x / 2 ^ (32 * (i * cols + j)) % 2 ^ 32

/-- NBCARRY (R213): C, M and V as numbers. -/
def nbcarryRun (r n : Nat) (reset : Bool) (am av c m v : Nat) : NbRes :=
  let cs := rowsOf c r r
  let cc := cs.map fun row => row.map fun x => (mul32 x x).1
  let ms := columnsOf m r n
  let vs := columnsOf v r n
  let mn := (cs.map fun row => ms.map fun col => dot32 row col).flatten
  let vn := if reset then List.replicate (r * n) 0 else (cc.map fun row => vs.map fun col => dot32 row col).flatten
  let ok := cs.all (·.all finite32) && cc.all (·.all finite32) && ms.all (·.all finite32) && mn.all finite32
    && (reset || (vs.all (·.all finite32) && vn.all finite32))
  if ok then .inl ([(am, mn), (av, vn)], []) else .inr 0x27

/-! ## Starts and completions -/

/-- A Nimbus command starts (R210, R214). -/
def State.nimbusStart (s : State) (c : Fin 64) (m : Cmd) : State :=
  let s := s.modCore c (·.startCmd m)
  match m.op with
  | .nbswitch _ _ h => (s.modCore c fun k => k.switchReady m h).finishDone c m
  | _ => s.unbounded .nimbusComplete (.of c m.id)

/-- Read the inputs of a Nimbus command and run it. -/
def State.nimbusRun (s : State) (cid : BitVec 12) (m : Cmd) : State × (NbRes ⊕ (Nat × Nat)) :=
  let a := m.quad.1.toNat
  let b := m.quad.2.1.toNat
  let d := m.quad.2.2.1.toNat
  let n := nbDim m.quad.2.2.2
  let r := m.slot.rank.toNat
  match m.op with
  | .nbqr _ _ _ =>
    match s.engineRead cid a (4 * n * m.slot.kw.toNat) with
    | (s, .inr e) => (s, .inr e)
    | (s, .inl y) => (s, .inl (nbqrRun m.slot n b y))
  | .nbrot _ _ _ =>
    match s.engineRead cid a (4 * n * r) with
    | (s, .inr e) => (s, .inr e)
    | (s, .inl pn) =>
      match s.engineRead cid b (4 * n * r) with
      | (s, .inr e) => (s, .inr e)
      | (s, .inl po) => (s, .inl (nbrotRun r n d pn po))
  | .nbcarry _ _ reset _ =>
    match s.engineRead cid a (4 * r * r) with
    | (s, .inr e) => (s, .inr e)
    | (s, .inl c) =>
      match s.engineRead cid b (4 * r * n) with
      | (s, .inr e) => (s, .inr e)
      | (s, .inl mm) =>
        match (if reset then (s, .inl 0) else s.engineRead cid d (4 * r * n)) with
        | (s, .inr e) => (s, .inr e)
        | (s, .inl v) => (s, .inl (nbcarryRun r n reset b d c mm v))
  | _ => (s, .inl (.inl ([], [])))

/-- NIMBUS_COMPLETE: command `ev.id` of core `ev.core` writes its results or fails; NBQR then waits to write its
basis (R210-R213). -/
def execNimbusComplete (s : State) : Out :=
  let c := s.ev.core
  match (s.core c).cmd s.ev.id with
  | none => .next s
  | some m =>
    let k := s.core c
    let cid := k.vis.csr.cid
    match s.nimbusRun cid m with
    | (s, .inr e) => .next (s.cmdRefused c m e)
    | (s, .inl (.inr code)) => .next (s.finishFail c m (BitVec.ofNat 8 code))
    | (s, .inl (.inl (outs, bf))) =>
      let stamp := stampOf cid c k.seqs[(3 : Fin 15)]
      let r := outs.foldl
        (fun (acc : State × Option (Nat × Nat)) o =>
          match acc with
          | (s, some e) => (s, some e)
          | (s, none) =>
            match s.engineWrite cid o.1 (4 * o.2.length) (packFp o.2) stamp with
            | (s, .inl _) => (s, none)
            | (s, .inr e) => (s, some e)) (s, none)
      match r with
      | (s, some e) => .next (s.cmdRefused c m e)
      | (s, none) =>
        match m.op with
        | .nbqr _ _ _ =>
          .next (s.modCore c fun k => k.modCmd m.id fun x =>
            { x with data := rof ((bf.map (natBytes 2)).flatten), chain := 1 })
        | _ => .next (s.finishDone c m)

/-- A queued or unfinished command reads region(GEN + 1) of a slot under an earlier generation: a matrix command, or an HBSTORE,
which reads the region of its generation and, where that is ready, of the next (R208, R211). -/
def Core.oldReader (k : Core) (h : Fin 16) (gen : Nat) : Bool :=
  let old (g : Nat) : Bool := g % 2 == (gen + 1) % 2 && g % 65536 != (gen + 1) % 65536
  (k.shape.toList.any fun g => g.queue.any fun m =>
    (cbProj m.cb && cbPslot m.cb == h && old m.pslot.gen.toNat)
      || (cbSketch m.cb && cbSslot m.cb == h && old m.sslot.gen.toNat))
    || k.cmds.any fun m => match m.op with
      | .hbstore x _ _ => x == h && (old m.slot.gen.toNat || (m.slot.pready && old (m.slot.gen.toNat + 1)))
      | _ => false

/-- The NBQR of a core whose basis write may go on (R211). -/
def Core.basisReady (k : Core) : Option Cmd :=
  k.cmds.find? fun m => match m.op with
    | .nbqr _ _ h => m.chain == 1 && !k.oldReader h m.slot.gen.toNat
    | _ => false

/-- NBQR_BASIS_WRITE: the BF16 rows of an NBQR of core `ev.core` reach region(GEN + 1) (R203, R211). -/
def execNbqrBasisWrite (s : State) : Out :=
  let c := s.ev.core
  match (s.core c).basisReady with
  | none => .next s
  | some m =>
    let bytes := bytesNat (rlist m.data)
    let es := (List.range m.slot.elems).map fun i => bytes / 2 ^ (16 * i) % 65536
    .next ((s.modCore c fun k =>
      { k with basis := basisWrite k.basis (m.slot.region (m.slot.gen.toNat + 1)) es }).finishDone c m)

end Sys2Proof.Machine
end

