-- ==== Sys2Proof/Machine/Vector.lean ====
section
/-!
DEFINITION. The vector words of X (06_vector_instructions): lanes and elements (R123), what every X word does
at its issue (R124-R127) and the meanings of R129-R152. The accumulator words stand with the matrix words.
-/

namespace Sys2Proof.Machine

/-! ## Units (R126, R235) -/

/-- The units of X in the order of `Core.units`. -/
inductive XUnit where
  | va | vf | vv | vp | vk | dq | ap | mi
  deriving DecidableEq, Repr

/-- A unit's place in `Core.units`. -/
def XUnit.ix : XUnit → Fin 8
  | .va => 0 | .vf => 1 | .vv => 2 | .vp => 3 | .vk => 4 | .dq => 5 | .ap => 6 | .mi => 7

/-- Occupancy and latency of a word's unit. -/
structure Timing where
  unit : XUnit
  occ  : Nat
  lat  : Nat
  deriving DecidableEq, Repr

def tVa : Timing := ⟨.va, 16, 18⟩
def tFma : Timing := ⟨.va, 16, 20⟩
def tVf : Timing := ⟨.vf, 16, 30⟩
def tVv : Timing := ⟨.vv, 16, 20⟩
def tQdx : Timing := ⟨.vv, 32, 40⟩
def tVp : Timing := ⟨.vp, 16, 22⟩
def tRed : Timing := ⟨.vp, 16, 32⟩
def tVk : Timing := ⟨.vk, 1, 2⟩
def tPopc : Timing := ⟨.vk, 1, 8⟩
def tDq : Timing := ⟨.dq, 16, 18⟩

/-- The unit an X word occupies (R79, R126, R235). -/
def unitOf : Instr → Option XUnit
  | .vadd _ _ _ _ _ | .vsub _ _ _ _ _ | .vmul _ _ _ _ _ | .vmin _ _ _ _ _ | .vmax _ _ _ _ _ | .vfma _ _ _ _ _
  | .vfms _ _ _ _ _ | .vfnma _ _ _ _ _ | .vunNeg _ _ _ _ | .vunAbs _ _ _ _ | .vunNot _ _ _ _ | .vcmpEq _ _ _ _ _
  | .vcmpNe _ _ _ _ _ | .vcmpLt _ _ _ _ _ | .vcmpLe _ _ _ _ _ | .vcmpGt _ _ _ _ _ | .vcmpGe _ _ _ _ _
  | .vcmpUo _ _ _ _ _ | .vsel _ _ _ _ _ | .vand _ _ _ _ _ | .vor _ _ _ _ _ | .vxor _ _ _ _ _ | .vshl _ _ _ _ _
  | .vshr _ _ _ _ _ | .vsha _ _ _ _ _ | .vbcast _ _ _ _ | .viota _ _ _ | .vmom1 _ _ _ _ _ | .vmom2 _ _ _ _ _ => some .va
  | .vunRcp _ _ _ _ | .vunRsq _ _ _ _ | .vunSqrt _ _ _ _ | .vunExp2 _ _ _ _ | .vunLog2 _ _ _ _ | .vunTanh _ _ _ _
  | .vunSigm _ _ _ _ | .vadstep _ _ _ _ _ => some .vf
  | .vcvt _ _ _ _ _ | .vcvts _ _ _ _ | .vcadd _ _ _ _ | .vcsplit _ _ _ | .vqdx _ _ _ _ | .vdqdx _ _ _ _
  | .vscalex _ _ _ _ _ | .vrng _ _ _ => some .vv
  | .vperm _ _ _ _ _ | .vrote _ _ _ _ _ | .vredSum _ _ _ _ | .vredMax _ _ _ _ | .vredMin _ _ _ _ => some .vp
  | .mlogAnd _ _ _ | .mlogOr _ _ _ | .mlogXor _ _ _ | .mlogNot _ _ | .mlogPopc _ _ => some .vk
  | .dqpush _ _ _ _ | .dqdrain _ _ _ => some .dq
  | .vaccrd _ _ _ _ _ | .vaccwr _ _ _ _ | .mxZero _ => some .ap
  | .mxMma _ _ _ _ | .mxMmat _ _ _ _ | .mxMmac _ _ _ _ | .mxLacc _ => some .mi
  | _ => none

/-- The unit that the major of an X word names, which the unit-free term of an illegal encoding waits for (R86, R87, R126).
DESIGN CHOICE (log 78): a VUN with a reserved minor, which would be of VA or of VF, waits for no unit. -/
def majorUnit (major : Nat) : Option XUnit :=
  if (4 ≤ major && major ≤ 11) || (13 ≤ major && major ≤ 20) || (30 ≤ major && major ≤ 33) then some .va
  else if (21 ≤ major && major ≤ 26) || major == 35 || major == 36 then some .vv
  else if 27 ≤ major && major ≤ 29 then some .vp
  else if major == 34 then some .vf
  else if major == 37 then some .vk
  else if major == 38 || major == 39 then some .dq
  else if major == 40 || major == 41 || major == 45 then some .ap
  else if (42 ≤ major && major ≤ 44) || major == 47 then some .mi
  else none

/-- The unit beats of an X word, counted for its core's series pair; the accumulator port is no vector unit (R354). -/
def State.beats (s : State) (t : Timing) : State :=
  if t.unit.ix.val < 6 then s.works (zenithOf s.turn.core) (s.turn.core.val % 32) s.zc t.occ 1 else s

/-- An X word issues: its unit is taken, and what it writes lands at its latency (R125, R126). -/
def State.xIssue (s : State) (t : Timing) (ws : List XWrite) (f : Flags) (g : Core → Core) : State :=
  s.issued fun u =>
    (((u.modMe fun k =>
      { g k with
        units := k.units.set t.unit.ix (u.zc + t.occ)
        xpend := k.xpend ++ [⟨u.nextId, u.zc + t.lat, u.clu.pc, ws, f⟩] }).bump).beats t).at_ (u.zc + t.lat)
      .xResultLands (.of u.turn.core u.nextId)

/-- A vector word: the pending check of R125, its state check `ok` (R124), then its writes and flags. DESIGN CHOICE
(log 73): of a word that fails both checks the schedule miss is taken. -/
def vecWord (i : Instr) (t : Timing) (ok : Bool) (r : List XWrite × Flags) (s : State) : Out :=
  if s.me.xConflict i then .next (s.raise causeMiss 0x02)
  else if !ok then .next s.illegal
  else .next (s.xIssue t r.1 r.2 id)

/-- The key of element (i, j) of a tile, side area included: its columns lie from 128 on (R14, R201). -/
def accKey (t i j : Nat) : Nat := t * 2 ^ 16 + i * 256 + j

/-- Write the elements of a tile from a row on, 128 to a row; an absent element keeps its value (R155). -/
def accWrite (acc : Sparse Word) (t row : Nat) (val : Runs (Option Word)) : Sparse Word :=
  let cells := rlist val
  (List.zip (List.range cells.length) cells).foldl
    (fun a p => match p.2 with
      | some w => sset 0 (accKey t (row + p.1 / 128) (p.1 % 128)) w a
      | none => a) acc

/-- A tile cleared (R200). -/
def accZero (acc : Sparse Word) (t : Nat) : Sparse Word := acc.filter fun x => x.1 / 2 ^ 16 != t

/-- A write without the values it would put into the body of tile `t`; its landing stays. -/
def XWrite.cleared (t : Nat) : XWrite → XWrite
  | .acc u row val => .acc u row (if u = t then [] else val)
  | w => w

/-- The bits of `msk` taken from `val`, the rest from what the register holds (R123). -/
def mergeVec (old val msk : Runs Word) : Runs Word :=
  rmap (fun p : Word × Word × Word => (p.1 &&& ~~~p.2.2) ||| (p.2.1 &&& p.2.2)) (rzip old (rzip val msk))

/-- What a landed write of the X word `id` changes (R125, R155, R200). The port performs its words in issue order: what
an older VACCWR would still write into a tile that is zeroed now is gone (R154), and its landing stays ahead (R156). -/
def Core.xLand (id : Nat) (k : Core) : XWrite → Core
  | .v r x => { k with v := k.v.set r x }
  | .vm r x msk => { k with v := k.v.set r (mergeVec k.v[r] x msk) }
  | .m r x => k.wm r x
  | .acc t row val => { k with acc := accWrite k.acc t row val }
  | .zero t =>
    { k with
      acc := accZero k.acc t
      xpend := k.xpend.map fun x =>
        if x.id < id then { x with writes := x.writes.map (·.cleared t) } else x }

/-- X_RESULT_LANDS: the result and flags of the X word `ev.id` of core `ev.core` land (R47, R125, R127). -/
def execXResultLands (s : State) : Out :=
  let c := s.ev.core
  match (s.core c).xpend.find? (·.id == s.ev.id) with
  | none => .next s
  | some x =>
    .next (s.modCore c fun k =>
      (x.writes.foldl (Core.xLand x.id) { k with xpend := k.xpend.filter (·.id != x.id) }).orFlags x.flags)

/-! ## Elements in lanes (R123) -/

/-- The elements of width `w` of a lane, lowest first. -/
def laneElems (w : Nat) (x : Word) : List Nat := (List.range (32 / w)).map fun i => x.toNat / 2 ^ (w * i) % 2 ^ w

/-- A lane of elements of width `w`. -/
def laneOf (w : Nat) (es : List Nat) : Word := BitVec.ofNat 32 (es.foldr (fun e acc => e % 2 ^ w + 2 ^ w * acc) 0)

/-- Apply an element function to three lanes; elements are read and written in their value bits (R123). -/
def laneMap (code : Nat) (f : Nat → Nat → Nat → Nat × Flags) (a b d : Word) : Word × Flags :=
  let w := widthOf code
  let m (x : Nat) : Nat := x % 2 ^ valueBits code w
  let rs := (List.zip (laneElems w a) (List.zip (laneElems w b) (laneElems w d))).map fun p =>
    f (m p.1) (m p.2.1) (m p.2.2)
  (laneOf w (rs.map fun r => m r.1), rs.foldl (fun f r => f ||| r.2) 0)

/-- Apply an element function to the active elements of three registers; inactive ones keep the third's
value (R123). -/
def vecMap (code : Nat) (mk : Runs Bool) (f : Nat → Nat → Nat → Nat × Flags) (a b d : Runs Word) : Runs Word × Flags :=
  let r := (rzip mk (rzip a (rzip b d))).map fun x =>
    let (on, la, lb, ld) := x.2
    (x.1, if on then laneMap code f la lb ld else (ld, 0))
  (rnorm (r.map fun x => (x.1, x.2.1)), r.foldl (fun f x => f ||| x.2.2) 0)

/-- All elements of width `w` of a register. -/
def vecElems (w : Nat) (v : Runs Word) : List Nat := ((rlist v).map (laneElems w)).flatten

/-- Chunks of `n` elements. -/
def chunksOf {α : Type} (n : Nat) : Nat → List α → List (List α)
  | 0, _ => []
  | f + 1, xs => xs.take n :: chunksOf n f (xs.drop n)

/-- A register of elements of width `w`. -/
def vecOfElems (w : Nat) (es : List Nat) : Runs Word := rof ((chunksOf (32 / w) 6144 es).map (laneOf w))

/-- The bits of the active elements of width `w`, in element order; elements past the list's end are inactive (R123). -/
def elemMask (w : Nat) (on : List Bool) : Runs Word := vecOfElems w (on.map fun b => if b then 2 ^ w - 1 else 0)

/-- The bits of the lanes that a mask governs (R123). -/
def laneMask (mk : Runs Bool) : Runs Word := rmap (fun b => if b then BitVec.allOnes 32 else 0) mk

/-- Number of elements (R123). -/
def elemCount (w : Nat) : Nat := 6144 * (32 / w)

/-- A vector register. -/
def State.vr (s : State) (r : Fin 16) : Runs Word := s.me.v[r]

/-- EFMT of a column (R58). -/
def State.efmt (s : State) (fs : Fin 8) : Nat := ftEfmt (s.ftEntry fs)

/-- An elementwise word under a mask: formats accepted, then the element function of the format. -/
def elemWord (i : Instr) (t : Timing) (fmts : List Nat) (d a b : Fin 16) (mk fs : Fin 8)
    (f : Nat → Nat → Nat → Nat → Nat × Flags) (s : State) : Out :=
  let code := s.efmt fs
  let r := vecMap code (s.me.rm mk) (f code) (s.vr a) (s.vr b) (s.vr d)
  vecWord i t (fmts.contains code) ([.vm d r.1 (laneMask (s.me.rm mk))], r.2) s

/-- Formats of R124. -/
def fmtArith : List Nat := [0, 1, 2, 3, 9, 15]
def fmtFloat : List Nat := [0, 1, 2, 3]
def fmtBits : List Nat := [0, 1, 2, 3, 4, 5, 6, 7, 8, 9, 10, 14, 15]
def fmtShift : List Nat := [0, 1, 2, 3, 4, 5, 6, 7, 9, 14, 15]
def fmtCmp : List Nat := [0, 1, 15]
def fmtPerm : List Nat := [0, 1, 2, 3, 14, 15]
def fmtRed : List Nat := [0, 1, 2, 3, 4, 5, 6, 7, 8, 9, 10, 15]

/-! ## Arithmetic (R129-R132) -/

def execVadd (d a b : Fin 16) (mk fs : Fin 8) (s : State) : Out :=
  elemWord (.vadd d a b mk fs) tVa fmtArith d a b mk fs (fun c x y _ => elAdd c x y) s
def execVsub (d a b : Fin 16) (mk fs : Fin 8) (s : State) : Out :=
  elemWord (.vsub d a b mk fs) tVa fmtArith d a b mk fs (fun c x y _ => elSub c x y) s
def execVmul (d a b : Fin 16) (mk fs : Fin 8) (s : State) : Out :=
  elemWord (.vmul d a b mk fs) tVa fmtArith d a b mk fs (fun c x y _ => elMul c x y) s
def execVmin (d a b : Fin 16) (mk fs : Fin 8) (s : State) : Out :=
  elemWord (.vmin d a b mk fs) tVa fmtArith d a b mk fs (fun c x y _ => elPick true c x y) s
def execVmax (d a b : Fin 16) (mk fs : Fin 8) (s : State) : Out :=
  elemWord (.vmax d a b mk fs) tVa fmtArith d a b mk fs (fun c x y _ => elPick false c x y) s
def execVfma (d a b : Fin 16) (mk fs : Fin 8) (s : State) : Out :=
  elemWord (.vfma d a b mk fs) tFma fmtFloat d a b mk fs (fun c x y z => elFma false false c x y z) s
def execVfms (d a b : Fin 16) (mk fs : Fin 8) (s : State) : Out :=
  elemWord (.vfms d a b mk fs) tFma fmtFloat d a b mk fs (fun c x y z => elFma false true c x y z) s
def execVfnma (d a b : Fin 16) (mk fs : Fin 8) (s : State) : Out :=
  elemWord (.vfnma d a b mk fs) tFma fmtFloat d a b mk fs (fun c x y z => elFma true false c x y z) s

/-! ## Unary functions (R133, R134) -/

def execVunNeg (d a : Fin 16) (mk fs : Fin 8) (s : State) : Out :=
  elemWord (.vunNeg d a mk fs) tVa fmtArith d a a mk fs (fun c x _ _ => elNeg c x) s
def execVunAbs (d a : Fin 16) (mk fs : Fin 8) (s : State) : Out :=
  elemWord (.vunAbs d a mk fs) tVa fmtArith d a a mk fs (fun c x _ _ => elAbs c x) s
def execVunRcp (d a : Fin 16) (mk fs : Fin 8) (s : State) : Out :=
  elemWord (.vunRcp d a mk fs) tVf fmtFloat d a a mk fs (fun c x _ _ => elFun recip c x) s
def execVunRsq (d a : Fin 16) (mk fs : Fin 8) (s : State) : Out :=
  elemWord (.vunRsq d a mk fs) tVf fmtFloat d a a mk fs (fun c x _ _ => elFun rsqrtF c x) s
def execVunSqrt (d a : Fin 16) (mk fs : Fin 8) (s : State) : Out :=
  elemWord (.vunSqrt d a mk fs) tVf fmtFloat d a a mk fs (fun c x _ _ => elFun sqrtF c x) s
def execVunExp2 (d a : Fin 16) (mk fs : Fin 8) (s : State) : Out :=
  elemWord (.vunExp2 d a mk fs) tVf fmtFloat d a a mk fs (fun c x _ _ => elFun exp2F c x) s
def execVunLog2 (d a : Fin 16) (mk fs : Fin 8) (s : State) : Out :=
  elemWord (.vunLog2 d a mk fs) tVf fmtFloat d a a mk fs (fun c x _ _ => elFun log2F c x) s
def execVunTanh (d a : Fin 16) (mk fs : Fin 8) (s : State) : Out :=
  elemWord (.vunTanh d a mk fs) tVf fmtFloat d a a mk fs (fun c x _ _ => elFun tanhF c x) s
def execVunSigm (d a : Fin 16) (mk fs : Fin 8) (s : State) : Out :=
  elemWord (.vunSigm d a mk fs) tVf fmtFloat d a a mk fs (fun c x _ _ => elFun sigmF c x) s
def execVunNot (d a : Fin 16) (mk fs : Fin 8) (s : State) : Out :=
  elemWord (.vunNot d a mk fs) tVa fmtBits d a a mk fs
    (fun c x _ _ => (2 ^ valueBits c (widthOf c) - 1 - x, 0)) s

/-! ## Compare, select, logic and shifts (R135-R137) -/

/-- VCMP (R135). -/
def cmpWord (i : Instr) (cond : VCond) (d : Fin 8) (a b : Fin 16) (fs : Fin 8) (z : Bool) (s : State) : Out :=
  let code := s.efmt fs
  let r := rmap (fun p : Word × Word => elCmp cond code p.1.toNat p.2.toNat) (rzip (s.vr a) (s.vr b))
  let r := if z then rmap (fun p : Bool × Bool => p.1 && p.2) (rzip (s.me.rm d) r) else r
  vecWord i tVa (fmtCmp.contains code) ([.m d r], 0) s

def execVcmpEq (d : Fin 8) (a b : Fin 16) (fs : Fin 8) (z : Bool) (s : State) : Out :=
  cmpWord (.vcmpEq d a b fs z) .eq d a b fs z s
def execVcmpNe (d : Fin 8) (a b : Fin 16) (fs : Fin 8) (z : Bool) (s : State) : Out :=
  cmpWord (.vcmpNe d a b fs z) .ne d a b fs z s
def execVcmpLt (d : Fin 8) (a b : Fin 16) (fs : Fin 8) (z : Bool) (s : State) : Out :=
  cmpWord (.vcmpLt d a b fs z) .lt d a b fs z s
def execVcmpLe (d : Fin 8) (a b : Fin 16) (fs : Fin 8) (z : Bool) (s : State) : Out :=
  cmpWord (.vcmpLe d a b fs z) .le d a b fs z s
def execVcmpGt (d : Fin 8) (a b : Fin 16) (fs : Fin 8) (z : Bool) (s : State) : Out :=
  cmpWord (.vcmpGt d a b fs z) .gt d a b fs z s
def execVcmpGe (d : Fin 8) (a b : Fin 16) (fs : Fin 8) (z : Bool) (s : State) : Out :=
  cmpWord (.vcmpGe d a b fs z) .ge d a b fs z s
def execVcmpUo (d : Fin 8) (a b : Fin 16) (fs : Fin 8) (z : Bool) (s : State) : Out :=
  cmpWord (.vcmpUo d a b fs z) .uo d a b fs z s

/-- A lane with the bits that no element holds cleared (R123). -/
def laneClear (code : Nat) (x : Word) : Word := if code = 6 ∨ code = 7 then x &&& 0x3F3F3F3F else x

/-- VSEL (R136). -/
def execVsel (d a b : Fin 16) (mk fs : Fin 8) (s : State) : Out :=
  let code := s.efmt fs
  let r := rmap (fun p : Bool × Word × Word => laneClear code (if p.1 then p.2.1 else p.2.2))
    (rzip (s.me.rm mk) (rzip (s.vr a) (s.vr b)))
  vecWord (.vsel d a b mk fs) tVa (fmtBits.contains code) ([.v d r], 0) s

def execVand (d a b : Fin 16) (mk fs : Fin 8) (s : State) : Out :=
  elemWord (.vand d a b mk fs) tVa fmtBits d a b mk fs (fun _ x y _ => (x &&& y, 0)) s
def execVor (d a b : Fin 16) (mk fs : Fin 8) (s : State) : Out :=
  elemWord (.vor d a b mk fs) tVa fmtBits d a b mk fs (fun _ x y _ => (x ||| y, 0)) s
def execVxor (d a b : Fin 16) (mk fs : Fin 8) (s : State) : Out :=
  elemWord (.vxor d a b mk fs) tVa fmtBits d a b mk fs (fun _ x y _ => (x ^^^ y, 0)) s

def execVshl (d a b : Fin 16) (mk fs : Fin 8) (s : State) : Out :=
  elemWord (.vshl d a b mk fs) tVa fmtShift d a b mk fs (fun c x y _ => (elShift 0 c (widthOf c) x y, 0)) s
def execVshr (d a b : Fin 16) (mk fs : Fin 8) (s : State) : Out :=
  elemWord (.vshr d a b mk fs) tVa fmtShift d a b mk fs (fun c x y _ => (elShift 1 c (widthOf c) x y, 0)) s
def execVsha (d a b : Fin 16) (mk fs : Fin 8) (s : State) : Out :=
  elemWord (.vsha d a b mk fs) tVa fmtShift d a b mk fs (fun c x y _ => (elShift 2 c (widthOf c) x y, 0)) s

/-! ## Conversions (R138-R142) -/

/-- VCVT (R138). -/
def execVcvt (d a code : Fin 16) (mk fs : Fin 8) (s : State) : Out :=
  let src := s.efmt fs
  let ws := widthOf src
  let wt := widthOf code.val
  let big := max ws wt
  let n := elemCount big
  let mask := rlist (s.me.rm mk)
  let es := (vecElems ws (s.vr a)).take n
  let old := vecElems wt (s.vr d)
  let on : List Bool := (mask.map fun b => List.replicate (32 / big) b).flatten
  let rs := (List.zip on (List.zip es old)).map fun p =>
    if p.1 then
      let x := p.2.1 % 2 ^ valueBits src ws
      convert src code.val x
    else (p.2.2, 0)
  vecWord (.vcvt d a code mk fs) tVv (fmtBits.contains src)
    ([.vm d (vecOfElems wt (rs.map (·.1) ++ old.drop n)) (elemMask wt (on.take n))], rs.foldl (fun f r => f ||| r.2) 0) s

/-- VCVTS (R43, R139). -/
def execVcvts (d a b code : Fin 16) (s : State) : Out :=
  let wt := widthOf code.val
  let old := vecElems wt (s.vr d)
  let rs := (List.zip (rlist (s.vr a)) (rlist (s.vr b))).map fun p =>
    match ffmtOf code.val with
    | some f => stochastic f p.1.toNat (p.2.toNat % 65536)
    | none => (0, 0)
  vecWord (.vcvts d a b code) tVv true
    ([.vm d (vecOfElems wt (rs.map (·.1) ++ old.drop 6144)) (elemMask wt (List.replicate 6144 true))], rs.foldl (fun f r => f ||| r.2) 0) s

/-- VCADD (R49, R140). -/
def execVcadd (d a b : Fin 16) (mk : Fin 8) (s : State) : Out :=
  let r := vecMap 14 (s.me.rm mk) (fun x y _ => cpAdd x y) (s.vr a) (s.vr b) (s.vr d)
  vecWord (.vcadd d a b mk) tVv true ([.vm d r.1 (laneMask (s.me.rm mk))], r.2) s

/-- VCSPLIT (R48, R140). -/
def execVcsplit (d a : Fin 16) (mk : Fin 8) (s : State) : Out :=
  let r := vecMap 0 (s.me.rm mk) (fun x _ _ => cpSplit (fp32.decode x)) (s.vr a) (s.vr a) (s.vr d)
  vecWord (.vcsplit d a mk) tVv true ([.vm d r.1 (laneMask (s.me.rm mk))], r.2) s

/-- A little-endian bit string of `n`-bit items. -/
def bitString (n : Nat) (xs : List Nat) : Nat := xs.foldr (fun x acc => x % 2 ^ n + 2 ^ n * acc) 0

/-- VQDX (R40, R141). -/
def execVqdx (d a b : Fin 16) (fs : Fin 8) (s : State) : Out :=
  let code := s.efmt fs
  let n := dxBits code
  let gap := ftGap (s.ftEntry fs)
  let blocks := (chunksOf 32 192 ((rlist (s.vr a)).map (·.toNat))).map (dxBlock n gap)
  let els := bitString n ((blocks.map (·.1)).flatten)
  let exps := bitString 16 (blocks.map fun x => x.2.1 + 256 * x.2.2.1)
  vecWord (.vqdx d a b fs) tQdx (isDx code && d != b)
    ([.v d (rof (natWords els 6144)), .v b (rof (natWords exps 6144))], blocks.foldl (fun f x => f ||| x.2.2.2) 0) s

/-- VDQDX (R37, R141). -/
def execVdqdx (d a b : Fin 16) (fs : Fin 8) (s : State) : Out :=
  let code := s.efmt fs
  let n := dxBits code
  let els := wordsNat (rlist (s.vr a))
  let exps := wordsNat ((rlist (s.vr b)).take 96)
  let val (i : Nat) : Nat :=
    let e := exps / 2 ^ (16 * (i / 32)) % 65536
    (fp32.ofFV (dxValue n (e % 256) (e / 256) (els / 2 ^ (n * i) % 2 ^ n))).1
  vecWord (.vdqdx d a b fs) tVv (isDx code) ([.v d (rof ((List.range 6144).map fun i => BitVec.ofNat 32 (val i)))], 0) s

/-- VSCALEX (R142). -/
def execVscalex (d a b : Fin 16) (mk fs : Fin 8) (s : State) : Out :=
  elemWord (.vscalex d a b mk fs) tVv fmtFloat d a b mk fs (fun c x y _ => elScale c (widthOf c) x y) s

/-- VRNG (R148). -/
def execVrng (d a : Fin 16) (mk : Fin 8) (s : State) : Out :=
  let r := vecMap 0 (s.me.rm mk) (fun x _ _ => ((xorshift (BitVec.ofNat 32 x)).toNat, 0)) (s.vr a) (s.vr a) (s.vr d)
  vecWord (.vrng d a mk) tVv true ([.vm d r.1 (laneMask (s.me.rm mk))], 0) s

/-! ## Reductions and moves (R143-R145) -/

/-- VRED of a kind: 0 SUM, 1 MAX, 2 MIN (R55, R143). -/
def redWord (i : Instr) (kind : Nat) (d a : Fin 16) (mk fs : Fin 8) (s : State) : Out :=
  let code := s.efmt fs
  let w := widthOf code
  let isInt := isIntCode code
  let on : List Bool := ((rlist (s.me.rm mk)).map fun b => List.replicate (32 / w) b).flatten
  let xs := (List.zip on (vecElems w (s.vr a))).map fun p =>
    if p.1 then
      let x := p.2 % 2 ^ valueBits code w
      if isInt then (convert code 15 x).1 else (convert code 0 x).1
    else redIdent kind isInt
  let r := redTree (if isInt then redI kind else redF kind) 17 xs 0
  vecWord i tRed (fmtRed.contains code) ([.v d [(6144, BitVec.ofNat 32 r.1)]], r.2) s

def execVredSum (d a : Fin 16) (mk fs : Fin 8) (s : State) : Out := redWord (.vredSum d a mk fs) 0 d a mk fs s
def execVredMax (d a : Fin 16) (mk fs : Fin 8) (s : State) : Out := redWord (.vredMax d a mk fs) 1 d a mk fs s
def execVredMin (d a : Fin 16) (mk fs : Fin 8) (s : State) : Out := redWord (.vredMin d a mk fs) 2 d a mk fs s

/-- A register whose active elements come from `f` by element index; the rest keep the old value. -/
def moveElems (code : Nat) (mk : Runs Bool) (old : Runs Word) (f : Nat → Nat) : Runs Word :=
  let w := widthOf code
  let on : List Bool := ((rlist mk).map fun b => List.replicate (32 / w) b).flatten
  let es := (List.zip (List.range (elemCount w)) (List.zip on (vecElems w old))).map fun p =>
    if p.2.1 then f p.1 % 2 ^ valueBits code w else p.2.2
  vecOfElems w es

/-- VPERM (R144). -/
def execVperm (d a b : Fin 16) (mk fs : Fin 8) (s : State) : Out :=
  let code := s.efmt fs
  let w := widthOf code
  let src := (vecElems w (s.vr a)).toArray
  let ix := (vecElems w (s.vr b)).toArray
  let r := moveElems code (s.me.rm mk) (s.vr d) fun e => src.getD (ix.getD e 0) 0
  vecWord (.vperm d a b mk fs) tVp (fmtPerm.contains code) ([.vm d r (laneMask (s.me.rm mk))], 0) s

/-- VROTE (R145). -/
def execVrote (d a g : Fin 16) (mk fs : Fin 8) (s : State) : Out :=
  let code := s.efmt fs
  let w := widthOf code
  let n := elemCount w
  let sh := (s.rg (gx g)).toNat % n
  let src := (vecElems w (s.vr a)).toArray
  let r := moveElems code (s.me.rm mk) (s.vr d) fun e => src.getD ((e + sh) % n) 0
  vecWord (.vrote d a g mk fs) tVp (fmtBits.contains code) ([.vm d r (laneMask (s.me.rm mk))], 0) s

/-- VBCAST (R145). -/
def execVbcast (d g : Fin 16) (mk fs : Fin 8) (s : State) : Out :=
  let x := (s.rg (gx g)).toNat
  elemWord (.vbcast d g mk fs) tVa fmtBits d d d mk fs (fun c _ _ _ => (x % 2 ^ valueBits c (widthOf c), 0)) s

/-- VIOTA (R145). -/
def execViota (d : Fin 16) (mk fs : Fin 8) (s : State) : Out :=
  let code := s.efmt fs
  let r := moveElems code (s.me.rm mk) (s.vr d) fun e => if code = 15 then e else (fp32.ofFV (.fin false e 0)).1
  vecWord (.viota d mk fs) tVa (code == 0 || code == 15) ([.vm d r (laneMask (s.me.rm mk))], 0) s

/-! ## Optimiser words (R146, R147) -/

/-- A word on FP32 lanes with two FP32 numbers in a g register. -/
def optWord (i : Instr) (t : Timing) (d a g : Fin 16) (mk fs : Fin 8) (f : Nat → Nat → Nat → Nat → Nat × Flags)
    (s : State) : Out :=
  let x := (s.rg (gx g)).toNat
  elemWord i t [0] d a a mk fs (fun _ y _ z => f (x % 2 ^ 32) (x / 2 ^ 32) z y) s

def execVmom1 (d a g : Fin 16) (mk fs : Fin 8) (s : State) : Out :=
  optWord (.vmom1 d a g mk fs) tFma d a g mk fs elMom1 s
def execVmom2 (d a g : Fin 16) (mk fs : Fin 8) (s : State) : Out :=
  optWord (.vmom2 d a g mk fs) tFma d a g mk fs elMom2 s

/-- VADSTEP (R147). -/
def execVadstep (d a g : Fin 16) (mk fs : Fin 8) (s : State) : Out :=
  optWord (.vadstep d a g mk fs) tVf d a g mk fs
    (fun eps c m v => adstep (fp32.decode m) (fp32.decode v) (fp32.decode eps) (fp32.decode c)) s

/-! ## Mask logic (R149) -/

/-- A mask word of two sources. -/
def maskWord (i : Instr) (d a b : Fin 8) (f : Bool → Bool → Bool) (s : State) : Out :=
  vecWord i tVk true ([.m d (rmap (fun p : Bool × Bool => f p.1 p.2) (rzip (s.me.rm a) (s.me.rm b)))], 0) s

def execMlogAnd (d a b : Fin 8) (s : State) : Out := maskWord (.mlogAnd d a b) d a b (· && ·) s
def execMlogOr (d a b : Fin 8) (s : State) : Out := maskWord (.mlogOr d a b) d a b (· || ·) s
def execMlogXor (d a b : Fin 8) (s : State) : Out := maskWord (.mlogXor d a b) d a b (fun x y => x != y) s
def execMlogNot (d a : Fin 8) (s : State) : Out := maskWord (.mlogNot d a) d a a (fun x _ => !x) s

/-- Ones of a mask. -/
def maskOnes (m : Runs Bool) : Nat := m.foldl (fun n x => if x.2 then n + x.1 else n) 0

def execMlogPopc (d : Fin 16) (b : Fin 8) (s : State) : Out :=
  vecWord (.mlogPopc d b) tPopc true ([.v d [(6144, BitVec.ofNat 32 (maskOnes (s.me.rm b)))]], 0) s

/-! ## The deferral queue (R150-R152) -/

/-- DQPUSH: entries join the queue at the end of the issue cycle (R150, R152). -/
def execDqpush (a b : Fin 16) (mk : Fin 8) (n : BitVec 3) (s : State) : Out :=
  let m := s.me.rm mk
  if s.me.xConflict (.dqpush a b mk n) then .next (s.raise causeMiss 0x02)
  else if 24576 < s.me.dq.length + maskOnes m then .next (s.raise causeDefer 0)
  else
    let xs := List.zip (List.range 6144) (List.zip (rlist m) (List.zip (rlist (s.vr a)) (rlist (s.vr b))))
    let es : List (Nat × Word × Word) := xs.filterMap fun p =>
      if p.2.1 then some (p.1, if 1 ≤ n.toNat then p.2.2.1 else 0, if n.toNat = 2 then p.2.2.2 else 0) else none
    .next (s.xIssue tDq [] 0 fun k => { k with dq := k.dq ++ es })

/-- DQDRAIN (R151, R152). -/
def execDqdrain (d a b : Fin 16) (s : State) : Out :=
  if s.me.xConflict (.dqdrain d a b) then .next (s.raise causeMiss 0x02)
  else if d = a ∨ d = b ∨ a = b then .next s.illegal
  else
    let es := s.me.dq.take 6144
    let col (f : Nat × Word × Word → Word) : Runs Word := rapp (rof (es.map f)) (rcons (6144 - es.length) 0 [])
    .next (s.xIssue tDq [.v d (col fun e => BitVec.ofNat 32 e.1), .v a (col (·.2.1)), .v b (col (·.2.2))] 0 fun k =>
      { k with dq := k.dq.drop 6144, dn := es.length })

end Sys2Proof.Machine
end

