-- ==== Sys2Proof/Machine/Product.lean ====
section
/-!
DEFINITION. What a product command computes: operand rows (R35, R38, R190), output elements (R50-R54, R196,
R197), the Halo stage (R203-R206, R264), the checksum side area (R198, R258) and the injection of R284.
-/

namespace Sys2Proof.Machine

/-! ## Operand elements -/

/-- The elements of a stored row of `n` elements: code, and the exponents E0 + 256·E1 of a DX block (R35,
R38). -/
def rowCodes (efmt n x : Nat) : List (Nat × Nat) :=
  if isDx efmt then
    let b := dxBits efmt
    let plane := 8 * ceilDiv (n * b) 8
    (List.range n).map fun i => (x / 2 ^ (b * i) % 2 ^ b, x / 2 ^ (plane + 16 * (i / 32)) % 65536)
  else
    let w := widthOf efmt
    (List.range n).map fun i => (x / 2 ^ (w * i) % 2 ^ w, 0)

/-- The value of an element (R34-R37). -/
def codeValue (efmt : Nat) (c : Nat × Nat) : FV :=
  if isDx efmt then dxValue (dxBits efmt) (c.2 % 256) (c.2 / 256) c.1 else readElem efmt c.1

/-- A row of an operand of a command's core. -/
def Core.opRow (k : Core) (bg : Fin 2) (off pitch q efmt n : Nat) : List (Nat × Nat) :=
  rowCodes efmt n (tileRead k.tile bg (off + q * pitch) (rowBytes efmt n))

/-- The stored elements of row q of A (R190). -/
def Core.aCodes (k : Core) (m : MCmd) (q : Nat) : List (Nat × Nat) :=
  k.opRow 0 (cbAoff m.cb) (cbApitch m.cb) q (ftEfmt m.fmt) (cbK m.cb)

/-- Row q of A as it entered the shape (R256). -/
def MCmd.aRow (m : MCmd) (q : Nat) : List FV :=
  ((m.rows.lookup q).getD []).map (codeValue (ftEfmt m.fmt))

/-- The stored elements of the stored row q of B: a row of B, or for a DX format a column (R190). -/
def Core.bCodes (k : Core) (m : MCmd) (q : Nat) : List (Nat × Nat) :=
  let e := ftEfmt m.fmt
  k.opRow 1 (cbBoff m.cb) (cbBpitch m.cb) q e (bRows e m.cb).2

/-- A column with its element i written; elements never written are the zeros of allocation (R194). -/
def setElem (i x : Nat) (col : List Nat) : List Nat :=
  if i < col.length then col.set i x else col ++ List.replicate (i - col.length) 0 ++ [x]

/-- A row laid over the columns that the cells held, as their elements i. -/
def overRow (i : Nat) : List Nat → List (List Nat) → List (List Nat)
  | [], old => old
  | x :: xs, [] => setElem i x [] :: overRow i xs []
  | x :: xs, o :: os => setElem i x o :: overRow i xs os

/-- New columns over what the cells held: positions that are not loaded keep their elements (log 20). -/
def overGrid : List (List Nat) → List (List Nat) → List (List Nat)
  | [], old => old
  | r :: rs, [] => r :: overGrid rs []
  | r :: rs, o :: os => (r ++ o.drop r.length) :: overGrid rs os

/-- New columns over those from column j on. -/
def overFrom (j : Nat) (cols old : List (List Nat)) : List (List Nat) :=
  (old ++ List.replicate (j - old.length) []).take j ++ overGrid cols (old.drop j)

/-- The rows of B read in portion p of the B load: one stored row, or for a DX format up to 16 stored rows, the columns
of B (R244, R256). -/
def MCmd.portion (m : MCmd) (p : Nat) : List Nat :=
  if isDx (ftEfmt m.fmt) then (List.range (min 16 (cbN m.cb - 16 * p))).map (16 * p + ·) else [p]

/-- The cells of a shape take portion p of B (R194, R251, R256). -/
def Core.loadPortion (k : Core) (h : Fin 8) (m : MCmd) (p : Nat) : Core :=
  let rows := (m.portion p).map (k.bCodes m)
  let lay (x : Nat × Nat → Nat) (old : List (List Nat)) : List (List Nat) :=
    if isDx (ftEfmt m.fmt) then overFrom (16 * p) (rows.map fun c => c.map x) old
    else rows.foldl (fun old r => overRow p (r.map x) old) old
  k.modShape h fun g => { g with keptB := lay (·.1) g.keptB, keptX := lay (·.2) g.keptX }

/-- Column j of the B that the cells hold; an element never loaded is the zero B of allocation (R194). DESIGN CHOICE (log 89): the
cells hold codes, which a BKEEP command of another EFMT reads in its own format. -/
def Shape.bCol (g : Shape) (efmt K j : Nat) : List FV :=
  let pad (l : List Nat) : List Nat := (l ++ List.replicate (K - l.length) 0).take K
  (List.zip (pad (g.keptB.getD j [])) (pad (g.keptX.getD j []))).map (codeValue efmt)

/-! ## Sums (R50-R54) -/

/-- An integer value. -/
def FV.toI (x : FV) : Int :=
  let p := x.signed
  p.1 * 2 ^ p.2.toNat

/-- INT8 or INT4 operands (R53). -/
def isIntFmt (efmt : Nat) : Bool := efmt == 9 || efmt == 10

/-- Products group by group added to a partial sum, in ascending K (R50, R53). -/
def dotFrom (efmt : Nat) (start : Nat) (a b : List FV) : Nat × Flags :=
  let g := if isDx efmt then 32 else 16
  let ps := List.zip a b
  (chunksOf g (ceilDiv ps.length g) ps).foldl
    (fun acc ps =>
      if isIntFmt efmt then
        let x := ps.foldl (fun t p => t + p.1.toI * p.2.toI) (bitsInt 32 acc.1)
        let r := satOF 32 x
        (r.1, acc.2 ||| r.2)
      else
        let prods := ps.map fun p => FV.mul p.1 p.2
        let total := FV.sum (prods.map (·.1))
        let grp := rne32 total.1
        let sum := add32 acc.1 grp.1
        (sum.1, acc.2 ||| prods.foldl (fun f p => f ||| p.2) (total.2 ||| grp.2 ||| sum.2))) (start, 0)

/-- An output element: from `prior` when the command accumulates, else from +0 (R50, R52, R53). -/
def outElem (m : MCmd) (accum : Bool) (prior : Nat) (a b : List FV) : Nat × Flags :=
  let e := ftEfmt m.fmt
  if ftScaled m.fmt then
    let p := mul32 (cbSa m.cb) (cbSb m.cb)
    let v := dotFrom e 0 a b
    let o := mul32 v.1 p.1
    let f := p.2 ||| v.2 ||| o.2
    if accum then
      let t := add32 prior o.1
      (t.1, f ||| t.2)
    else (o.1, f)
  else dotFrom e (if accum then prior else 0) a b

/-! ## The accumulator store -/

/-- Read a tile element. -/
def accRead (acc : Sparse Word) (t i j : Nat) : Nat := (srd 0 (accKey t i j) acc).toNat

/-- Write a tile element. -/
def accPut (acc : Sparse Word) (t i j x : Nat) : Sparse Word := sset 0 (accKey t i j) (BitVec.ofNat 32 x) acc

/-- The armed flip of TARGET 3 names a body element (R284). -/
def flips (errinj : Dword) (t i j : Nat) : Bool :=
  let e := errinj.toNat
  e % 2 == 1 && e / 2 % 8 == 3 && e / 2 ^ 4 % 16 == t && e / 2 ^ 8 % 128 == i && e / 2 ^ 16 % 128 == j

/-- A product command writes a body element; a flip that was armed at the start of the cycle and names it inverts one
bit and is taken (R111, R284). -/
def Core.putBody (k : Core) (t i j x : Nat) : Core :=
  let e := k.old.csr.errinj
  if flips e t i j then
    { k with acc := accPut k.acc t i j (x ^^^ 2 ^ (e.toNat / 2 ^ 24 % 32)) }.disarm
  else { k with acc := accPut k.acc t i j x }

/-- `⌈N / 128⌉`. -/
def cbWn (b : Vector Dword 8) : Nat := ceilDiv (cbN b) 128

/-- The tile of output element (q, c) (R192). -/
def MCmd.outTile (m : MCmd) (q c : Nat) : Nat := cbAtile m.cb + cbWn m.cb * (q / 128) + c / 128

/-! ## Triangular mode (R197, R257) -/

/-- The command is MX.MMAT. -/
def MCmd.tri (m : MCmd) : Bool := match m.op with
  | .mxMmat _ _ _ _ => true
  | _ => false

/-- Output element (q, c) is kept (R197). -/
def MCmd.kept (m : MCmd) (q c : Nat) : Bool :=
  !m.tri || decide (cbDiag m.cb ≤ ((cbGrow m.cb + q : Nat) : Int) - ((cbGcol m.cb + c : Nat) : Int))

/-- The row block of row q is streamed: some element of it is kept (R257). -/
def MCmd.streams (m : MCmd) (q : Nat) : Bool := m.kept (min (q / 128 * 128 + 127) (cbM m.cb - 1)) 0

/-- The rows streamed, in ascending q (R257). -/
def MCmd.rowList (m : MCmd) : List Nat := (List.range (cbM m.cb)).filter m.streams

/-- The rows of skipped row blocks. -/
def MCmd.skippedRows (m : MCmd) : List Nat := (List.range (cbM m.cb)).filter fun q => !m.streams q

/-! ## The Halo stage (R203-R206) -/

/-- Ω of a global column and sketch column (R205). -/
def omegaNeg (x : Slot) (j s : Nat) : Bool :=
  let hv := (x.seed.toNat + 0x9E37 * j + 0x7F4A * s + 0x3C6E * x.gen.toNat) % 65536
  (List.range 16).foldl (fun b i => b ^^ (hv / 2 ^ i % 2 == 1)) false

/-- Projection of a row (R206): element (ρ, c) of the projected range. -/
def Core.projectRow (k : Core) (m : MCmd) (i : Nat) (x : List FV) : Core × Flags :=
  let h := m.pslot
  let r := h.rank.toNat
  let p := (basisRead k.basis (h.region h.gen.toNat + (i - h.rowoff.toNat) * r) r).map bf16.decode
  let xs := List.zip (List.range x.length) x
  (List.zip (List.range r) p).foldl
    (fun st rp => xs.foldl
      (fun st cx =>
        let t := cbPtile m.cb + cbWn m.cb * (rp.1 / 128) + cx.1 / 128
        let prod := FV.mul rp.2 cx.2
        let sum := FV.add (fp32.decode (accRead st.1.acc t (rp.1 % 128) (cx.1 % 128))) prod.1
        let o := rne32 sum.1
        (st.1.putBody t (rp.1 % 128) (cx.1 % 128) o.1, st.2 ||| prod.2 ||| sum.2 ||| o.2)) st) (k, 0)

/-- Sketch of a row (R206). -/
def Core.sketchRow (k : Core) (m : MCmd) (i : Nat) (x : List FV) : Core × Flags :=
  let h := m.sslot
  let row := i - h.rowoff.toNat
  let t := cbStile m.cb + row / 128
  (List.range h.kw.toNat).foldl
    (fun st s =>
      let terms := (List.zip (List.range x.length) x).map fun cx =>
        if omegaNeg h (cbGcol m.cb + cx.1) s then cx.2.negate else cx.2
      let total := FV.sum terms
      let y := rne32 total.1
      let o := add32 (accRead st.1.acc t (row % 128) s) y.1
      (st.1.putBody t (row % 128) s o.1, st.2 ||| total.2 ||| y.2 ||| o.2)) (k, 0)

/-- With ACC = 0 the projected and sketch elements start at +0 (R204, R205). DESIGN CHOICE (log 100): 'every row of that range' of
R205 is the rows 0 to ROWS − 1 of the slot; the other rows of the last sketch tile keep their values. -/
def Core.haloZero (k : Core) (m : MCmd) : Core :=
  if cbAcc m.cb then k
  else
    let put (k : Core) (t rows cols : Nat) (tile : Nat → Nat → Nat) : Core :=
      (List.range rows).foldl (fun k r => (List.range cols).foldl
        (fun k c => k.putBody (t + tile r c) (r % 128) (c % 128) 0) k) k
    let k := if cbProj m.cb then
        put k (cbPtile m.cb) m.pslot.rank.toNat (cbN m.cb) fun r c => cbWn m.cb * (r / 128) + c / 128
      else k
    if cbSketch m.cb then put k (cbStile m.cb) m.sslot.rows.toNat m.sslot.kw.toNat fun r _ => r / 128 else k

/-! ## A row lands (R196, R197, R206, R264) -/

/-- Output row q of a command on shape h lands, with its flags. -/
def Core.landRow (k : Core) (h : Fin 8) (m : MCmd) (q : Nat) : Core × Flags :=
  let e := ftEfmt m.fmt
  let a := m.aRow q
  let g := k.shape[h]
  let cols := (List.range (cbN m.cb)).map fun c => (c, g.bCol e (cbK m.cb) c)
  let written : Core × Flags :=
    if cbProj m.cb then (k, 0)
    else cols.foldl
      (fun st cb =>
        let t := m.outTile q cb.1
        if m.kept q cb.1 then
          let o := outElem m (cbAcc m.cb) (accRead st.1.acc t (q % 128) (cb.1 % 128)) a cb.2
          (st.1.putBody t (q % 128) (cb.1 % 128) o.1, st.2 ||| o.2)
        else (st.1.putBody t (q % 128) (cb.1 % 128) (cbTconst m.cb), st.2)) (k, 0)
  if cbProj m.cb || cbSketch m.cb then
    let (k, f0) := written
    let out := cols.map fun cb => outElem m false 0 a cb.2
    let xs := out.map fun o => rne16 (fp32.decode o.1)
    let f1 := (out ++ xs).foldl (fun f o => f ||| o.2) f0
    let x := xs.map fun o => bf16.decode o.1
    let i := cbGrow m.cb + q
    let (k, f2) := if cbProj m.cb then k.projectRow m i x else (k, 0)
    let (k, f3) := if cbSketch m.cb then k.sketchRow m i x else (k, 0)
    (k, f1 ||| f2 ||| f3)
  else written

/-- The masked elements of the skipped row blocks take TCONST (R257). -/
def Core.landSkipped (k : Core) (m : MCmd) : Core :=
  m.skippedRows.foldl
    (fun k q => (List.range (cbN m.cb)).foldl
      (fun k c => k.putBody (m.outTile q c) (q % 128) (c % 128) (cbTconst m.cb)) k) k

/-! ## The checksum side area (R198, R258) -/

/-- A sum rounded once, or limited to INT32. -/
def sumOnce (isInt : Bool) (xs : List FV) : Nat :=
  if isInt then intBits 32 (sat 32 (xs.foldl (fun t x => t + x.toI) 0)).1 else (rne32 (FV.sum xs).1).1

/-- The value of a stored sum. -/
def sumValue (isInt : Bool) (x : Nat) : FV := if isInt then FV.ofInt (bitsInt 32 x) else fp32.decode x

/-- A residue fails its tolerance (R198). -/
def residueFails (isInt : Bool) (tol : Int) (observed predicted : Nat) : Bool :=
  let d := (FV.add (sumValue isInt observed) (sumValue isInt predicted).negate).1
  d.isNan || FV.lt (.fin false 1 tol) d.abs

/-- The side area of an MX.MMAC on shape h. -/
def Core.sideArea (k : Core) (h : Fin 8) (m : MCmd) : Core :=
  let e := ftEfmt m.fmt
  let isInt := isIntFmt e
  let t := cbAtile m.cb
  let M := cbM m.cb
  let N := cbN m.cb
  let K := cbK m.cb
  let val := sumValue isInt
  let a := (List.range M).map m.aRow
  let b := (List.range N).map (k.shape[h].bCol e K)
  let at_ (l : List FV) (i : Nat) : FV := l.getD i (.fin false 0 0)
  let body (i j : Nat) : FV := val (accRead k.acc t i j)
  let ca := (List.range K).map fun i => sumOnce isInt (a.map (at_ · i))
  let rb := (List.range K).map fun i => sumOnce isInt (b.map (at_ · i))
  let pcol := b.map fun col => (dotFrom e 0 (ca.map val) col).1
  let prow := a.map fun row => (dotFrom e 0 row (rb.map val)).1
  let ocol := (List.range N).map fun j => sumOnce isInt ((List.range M).map (body · j))
  let orow := (List.range M).map fun i => sumOnce isInt ((List.range N).map (body i))
  let count (o p : List Nat) : Nat :=
    let n := ((List.zip o p).filter fun x => residueFails isInt (cbTolexp m.cb) x.1 x.2).length
    if isInt then n else (fp32.ofFV (.fin false n 0)).1
  let clear := k.acc.filter fun x => !(x.1 / 2 ^ 16 == t && (128 ≤ x.1 % 2 ^ 16 / 256 || 128 ≤ x.1 % 256))
  let put (acc : Sparse Word) (key : Nat → Nat × Nat) (l : List Nat) : Sparse Word :=
    (List.zip (List.range l.length) l).foldl (fun acc x => accPut acc t (key x.1).1 (key x.1).2 x.2) acc
  let acc := put clear (fun j => (128, j)) pcol
  let acc := put acc (fun j => (129, j)) ocol
  let acc := put acc (fun i => (i, 128)) prow
  let acc := put acc (fun i => (i, 129)) orow
  { k with acc := accPut (accPut acc t 128 128 (count orow prow)) t 128 129 (count ocol pcol) }

/-! ## Timing (R255-R258, R207) -/

/-- The row rate ν of an element format, in rows per 8 cycles (R255). -/
def rowRate (efmt : Nat) : Nat :=
  if efmt = 0 then 1
  else if efmt = 1 then 4
  else if efmt = 2 ∨ efmt = 3 then 8
  else if efmt = 8 ∨ efmt = 10 ∨ efmt = 13 then 32
  else 16

/-- Halo rate: the rank and sketch width in use (R207). -/
def haloRate (b : Vector Dword 8) (p s : Slot) : Nat :=
  (if cbProj b then p.rank.toNat else 0) + if cbSketch b then s.kw.toNat else 0

/-- The portions of the B load (R256). -/
def MCmd.portions (m : MCmd) : Nat :=
  if cbBkeep m.cb then 0 else if isDx (ftEfmt m.fmt) then ceilDiv (cbN m.cb) 16 else cbK m.cb

/-- The cycles of one portion of the B load (R244, R256). -/
def MCmd.portionTime (m : MCmd) : Nat :=
  let e := ftEfmt m.fmt
  let sB := ceilDiv (rowBytes e (bRows e m.cb).2) 64
  if isDx e then sB else ceilDiv sB 16

/-- LB (R256). -/
def MCmd.loadTime (m : MCmd) : Nat := m.portions * m.portionTime

/-- S (R256). -/
def MCmd.streamTime (m : MCmd) : Nat :=
  let e := ftEfmt m.fmt
  let rows := m.rowList.length
  let sA := ceilDiv (rowBytes e (cbK m.cb)) 64
  let h := if cbProj m.cb || cbSketch m.cb then ceilDiv (haloRate m.cb m.pslot m.sslot) 64 else 0
  max (ceilDiv (8 * rows) (rowRate e)) (max (ceilDiv (rows * sA) 16) (rows * h))

/-- P on a shape of depth d (R256). -/
def MCmd.pipeTime (m : MCmd) (d : Nat) : Nat := 128 * d + 32 + if cbProj m.cb || cbSketch m.cb then 8 else 0

/-- The count at which the i-th streamed row enters (R256). -/
def MCmd.entersAt (m : MCmd) (i : Nat) : Nat :=
  m.sigma + m.loadTime + ceilDiv ((i + 1) * m.streamTime) m.rowList.length - 1

/-- The command is MX.MMAC. -/
def MCmd.check (m : MCmd) : Bool := match m.op with
  | .mxMmac _ _ _ _ => true
  | _ => false

/-- F (R256, R258). -/
def MCmd.finishAt (m : MCmd) (d : Nat) : Nat :=
  m.sigma + m.loadTime + m.streamTime + m.pipeTime d - 1 + if m.check then 132 else 0

end Sys2Proof.Machine
end

