-- ==== Sys2Proof/Machine/Matrix.lean ====
section
/-!
DEFINITION. The matrix words and the accumulator words of X (R153-R156, R191-R202, R235) and the events of
the shape queues (R237, R238, R244, R246, R254-R258).
-/

namespace Sys2Proof.Machine

/-! ## Tiles a command names (R156, R192, R204, R205) -/

/-- Ranges of tiles, as first tile and number: output, projected and sketch. -/
def tileRanges (b : Vector Dword 8) (p s : Slot) : List (Nat × Nat) :=
  (if cbProj b then [] else [(cbAtile b, cbWn b * ceilDiv (cbM b) 128)])
    ++ (if cbProj b then [(cbPtile b, ceilDiv p.rank.toNat 128 * cbWn b)] else [])
    ++ (if cbSketch b then [(cbStile b, ceilDiv s.rows.toNat 128)] else [])

/-- The tiles of ranges. -/
def rangeTiles (rs : List (Nat × Nat)) : List Nat := (rs.map fun r => (List.range r.2).map (r.1 + ·)).flatten

/-- The target tiles of a queued command. -/
def MCmd.targets (m : MCmd) : List Nat := rangeTiles (tileRanges m.cb m.pslot m.sslot)

/-- A queued or unfinished command of the core targets a tile (R156, R200). DEDUCED (log 87): the commands are those of the shape
queues; an MX.LACC has none. -/
def Core.targeted (k : Core) (t : Nat) : Bool := k.shape.toList.any fun g => g.queue.any fun m => m.targets.contains t

/-- A frozen tile (R321). -/
def Core.frozenTile (k : Core) (t : Nat) : Bool := k.frozen.getLsbD t

/-! ## The accumulator port (R235) -/

/-- The AP cycles of an MX.LACC meet `[a, a + n)` as counts of events (R235). -/
def Lacc.meets (x : Lacc) (a n : Nat) : Bool := x.start < a + n && a < x.start + cbM x.cb

/-- A word of the accumulator port on tile `t`, taking it for `occ` cycles (R125, R153-R156, R200, R235). DESIGN CHOICE
(log 74): the checks are made in this order, and the first that fails is taken. -/
def apWord (i : Instr) (t occ lat : Nat) (ok : Bool) (ws : List XWrite) (f : Flags) (s : State) : Out :=
  let k := s.me
  if k.xConflict i then .next (s.raise causeMiss 0x02)
  else if !ok then .next s.illegal
  else if k.frozenTile t then .next (s.raise causeHandler 0)
  else if k.targeted t then .next (s.raise causeMiss 0x08)
  else if k.laccs.any (·.meets s.zc occ) then .next (s.raise causeMiss 0x0B)
  else .next (s.xIssue ⟨.ap, occ, lat⟩ ws f id)

/-- The row word of R153: ROW0, N, SIDE. -/
def apRow (g : Dword) : Nat := g.toNat % 128
def apRows (g : Dword) : Nat := g.toNat / 2 ^ 8 % 64
def apSide (g : Dword) : Bool := g.getLsbD 16

/-- The checks of R153. -/
def apOk (g : Dword) (sideOk : Bool) : Bool :=
  g &&& ~~~0x13F7F == 0
    && if apSide g then sideOk && apRow g == 0 && apRows g == 0
      else 1 ≤ apRows g && apRows g ≤ 48 && apRow g + apRows g ≤ 128

/-- Cycles of the port (R126). -/
def apOcc (g : Dword) : Nat := if apSide g then 5 else apRows g

/-- The accumulator store with every earlier write of the port (R154). -/
def Core.accSoon (k : Core) : Sparse Word :=
  k.xpend.foldl
    (fun acc x => x.writes.foldl
      (fun acc w => match w with
        | .acc t row val => accWrite acc t row val
        | .zero t => accZero acc t
        | _ => acc) acc) k.acc

/-- The position of the `e`-th element VACCRD reads (R154). -/
def apElem (g : Dword) (e : Nat) : Nat × Nat :=
  if apSide g then
    if e < 130 then (128, e) else if e < 260 then (129, e - 130) else if e < 388 then (e - 260, 128) else (e - 388, 129)
  else (apRow g + e / 128, e % 128)

/-- VACCRD (R153, R154, R156). DEDUCED (log 108): with EFMT 2 or 3 it raises the flags of its rounding (R42, R127). -/
def execVaccrd (d t g : Fin 16) (mk fs : Fin 8) (s : State) : Out :=
  let x := s.rg (gx g)
  let code := s.efmt fs
  let w := widthOf code
  let n := if apSide x then 516 else 128 * apRows x
  let acc := s.me.accSoon
  let rs := (List.range n).map fun e =>
    let p := apElem x e
    let v := accRead acc t.val p.1 p.2
    if code = 2 ∨ code = 3 then convert 0 code v else (v, 0)
  let vals := rs.toArray
  let old := (vecElems w (s.vr d)).toArray
  let r := moveElems code (s.me.rm mk) (s.vr d) fun e => if e < n then (vals.getD e (0, 0)).1 else old.getD e 0
  let on := s.me.rm mk
  let msk := elemMask w ((List.range n).map fun e => rget false on (e * w / 32))
  let f := (List.zip (List.range n) rs).foldl
    (fun f p => if rget false on (p.1 * w / 32) then f ||| p.2.2 else f) 0
  apWord (.vaccrd d t g mk fs) t.val (apOcc x) (apOcc x + 30) (apOk x true && [0, 2, 3, 15].contains code) [.vm d r msk] f s

/-- VACCWR (R153, R155, R156). -/
def execVaccwr (t a g : Fin 16) (mk : Fin 8) (s : State) : Out :=
  let x := s.rg (gx g)
  let n := 128 * apRows x
  let val := rmap (fun p : Bool × Word => if p.1 then some p.2 else none) (rtake n (rzip (s.me.rm mk) (s.vr a)))
  apWord (.vaccwr t a g mk) t.val (apOcc x) (apOcc x + 30) (apOk x false) [.acc t.val (apRow x) val] 0 s

/-- MX.ZERO (R200). -/
def execMxZero (t : Fin 16) (s : State) : Out := apWord (.mxZero t) t.val 16 20 true [.zero t.val] 0 s

/-! ## Product commands at issue (R57, R191-R193, R197, R198, R204, R205, R207, R237) -/

/-- The format checks of R57 and the depth check of R39. -/
def fmtOk (fmt : Word) (K : Nat) : Bool :=
  let e := ftEfmt fmt
  let a := ftAfmt fmt
  e < 14 && (if isIntFmt e then a == 15 && !ftScaled fmt else a == 0) && (!isDx e || K % 32 == 0)

/-- Every row of an operand ends inside its bank group (R190). -/
def rowsInside (off pitch rows bytes : Nat) : Bool := rows == 0 || rowsEnd off pitch rows bytes ≤ 2 ^ 21

/-- Ranges stay below a12 and share no tile (R191). -/
def rangesOk (rs : List (Nat × Nat)) : Bool := rs.all (fun r => r.1 + r.2 ≤ 12) && decide (rangeTiles rs).Nodup

/-- The rows a Halo function reads of a slot lie in it (R204, R205). -/
def slotRowsOk (b : Vector Dword 8) (x : Slot) : Bool :=
  x.rowoff.toNat ≤ cbGrow b && cbGrow b + cbM b ≤ x.rowoff.toNat + x.rows.toNat

/-- The Halo rules (R31, R204, R205, R207). -/
def haloOk (b : Vector Dword 8) (fmt : Word) (p s : Slot) (ctl : BitVec 2) : Bool :=
  (!cbProj b || (p.rank != 0 && slotRowsOk b p && ftAfmt fmt == 0 && ctl.getLsbD 0))
    && (!cbSketch b || (s.kw != 0 && slotRowsOk b s && ftAfmt fmt == 0 && ctl.getLsbD 1))
    && haloRate b p s ≤ 256

/-- The rules of the mode: MX.MMAT and MX.MMAC (R197, R198). -/
def modeOk (op : Instr) (b : Vector Dword 8) (fmt : Word) : Bool :=
  match op with
  | .mxMmat _ _ _ _ => !cbProj b && !cbSketch b
  | .mxMmac _ _ _ _ => cbM b ≤ 128 && cbN b ≤ 128 && !cbAcc b && !cbProj b && !cbSketch b && !ftScaled fmt
  | _ => true

/-- A product command passes the checks of R191 on a shape. DEDUCED (log 20): R191 gives no lower limit for M, K and N, so a
block of no rows or no columns passes, and one with K = 0 has empty sums. -/
def productOk (op : Instr) (b : Vector Dword 8) (fmt : Word) (g : Shape) (p s : Slot) (ctl : BitVec 2) : Bool :=
  let e := ftEfmt fmt
  let br := bRows e b
  fmtOk fmt (cbK b) && cbAbg b == 0 && cbBbg b == 1 && cbK b ≤ 128 * g.d && cbN b ≤ 128 * g.w
    && rowsInside (cbAoff b) (cbApitch b) (cbM b) (rowBytes e (cbK b))
    && (cbBkeep b || rowsInside (cbBoff b) (cbBpitch b) br.1 (rowBytes e br.2))
    && rangesOk (tileRanges b p s) && haloOk b fmt p s ctl && modeOk op b fmt

/-- The local count σ of a block (R193): ZBASE + STAMP modulo 2⁶⁴. -/
def stampCount (zbase : Dword) (b : Vector Dword 8) : Nat := (zbase + BitVec.ofNat 64 (cbStamp b)).toNat

/-- A product command at issue: the handle (R186), the block (R191), the token (R107), frozen tiles (R321), the
queue and the stamp (R237); then it enters the shape's queue (R193). DESIGN CHOICE (log 84): the rules do not order these
checks; the first that fails in this order is taken. -/
def mxWord (op : Instr) (cb : Fin 16) (h : Fin 8) (chk : Bool) (k : Fin 64) (s : State) : Out :=
  let c := s.turn.core
  let v := s.me.old
  let b := v.cb[cb]
  let fmt := s.ftEntry (cbFcol b)
  let g := s.me.shape[h]
  let p := v.slot[(cbPslot b)]
  let q := v.slot[(cbSslot b)]
  let sigma := s.cumEvent c (stampCount v.csr.zbase b)
  if v.sh[h] = .frozen then .next (s.raise causeHandler 0)
  else if v.sh[h] ≠ .live then .next (s.raise causeShape 0)
  else if !productOk op b fmt g p q v.csr.haloctl then .next s.illegal
  else
    match (if chk then tokCheck (s.tok k) else none) with
    | some (cause, code) => .next (s.raise cause code)
    | none =>
      if (rangeTiles (tileRanges b p q)).any s.me.frozenTile then .next (s.raise causeHandler 0)
      else if 16 ≤ g.queue.length then .next (s.raise causeMiss 0x05)
      else if sigma < s.arrivalAt c then .next (s.raise causeMiss 0x06)
      else
        .next (s.issued fun t =>
          let m : MCmd := ⟨t.nextId, op, b, fmt, p, q, s.clu.pc, sigma, s.arrivalAt c, false, false, 0, 0, []⟩
          let t := t.modMe fun k =>
            { k.modShape h fun g => { g with queue := g.queue ++ [m], count := g.count + 1 } with
              units := k.units.set (7 : Fin 8) (s.zc + 1) }
          (t.bump.first sigma .matrixCommandStart ⟨c, m.id, [h.val], []⟩).first m.arrival .commandArrival
            ⟨c, m.id, [h.val], []⟩)

def execMxMma (cb : Fin 16) (h : Fin 8) (chk : Bool) (k : Fin 64) (s : State) : Out :=
  mxWord (.mxMma cb h chk k) cb h chk k s
def execMxMmat (cb : Fin 16) (h : Fin 8) (chk : Bool) (k : Fin 64) (s : State) : Out :=
  mxWord (.mxMmat cb h chk k) cb h chk k s
def execMxMmac (cb : Fin 16) (h : Fin 8) (chk : Bool) (k : Fin 64) (s : State) : Out :=
  mxWord (.mxMmac cb h chk k) cb h chk k s

/-- MX.DRAIN: the shape is at its drain point, or the handle is FREE (R201). -/
def execMxDrain (h : Fin 8) (s : State) : Out :=
  if s.me.old.sh[h] = .free ∨ s.me.shape[h].queue.isEmpty then .next (s.issued id)
  else .next (s.raise causeMiss 0x09)

/-! ## MX.LACC (R202, R235) -/

/-- The checks of R202. -/
def laccOk (b : Vector Dword 8) (fmt : Word) : Bool :=
  let e := ftEfmt fmt
  let m := cbM b
  let n := cbN b
  let pitch := cbApitch b
  (e ≤ 8 || e == 15) && 1 ≤ m && m ≤ 1048576 && 1 ≤ n && n ≤ 1024 && m ≤ 128 * (12 / cbWn b) && cbAbg b == 0
    && cbAoff b % 64 == 0 && pitch % 64 == 0 && 64 ≤ pitch && pitch ≤ 65472
    && rowsInside (cbAoff b) pitch m (rowBytes e n) && cbAtile b + cbWn b * ceilDiv m 128 ≤ 12

/-- The tiles of an MX.LACC. -/
def laccTiles (b : Vector Dword 8) : List Nat := rangeTiles [(cbAtile b, cbWn b * ceilDiv (cbM b) 128)]

/-- MX.LACC at issue (R202, R235, R237, R321). DESIGN CHOICE (log 110): the rules do not order these checks; the first that fails in
this order is taken. -/
def execMxLacc (cb : Fin 16) (s : State) : Out :=
  let c := s.turn.core
  let b := s.me.old.cb[cb]
  let fmt := s.ftEntry (cbFcol b)
  let start := s.cumEvent c (stampCount s.csr.zbase b)
  let x : Lacc := ⟨s.nextId, b, fmt, s.clu.pc, start, 0⟩
  if !laccOk b fmt then .next s.illegal
  else if (laccTiles b).any s.me.frozenTile then .next (s.raise causeHandler 0)
  else if start < s.arrivalAt c then .next (s.raise causeMiss 0x06)
  else if start < s.me.units[(6 : Fin 8)] ∨ s.me.laccs.any (·.meets start (cbM b)) then .next (s.raise causeMiss 0x0B)
  else
    .next (s.issued fun t =>
      (t.modMe fun k => { k with laccs := k.laccs ++ [x], units := k.units.set (7 : Fin 8) (s.zc + 1) }).bump.first start
        .laccStart ⟨c, x.id, [0], []⟩)

/-- A fault of a command on the Cumulus die: its report reaches the core after the die's latency (R246). -/
def State.dieFault (s : State) (c : Fin 64) (cause code queue : Nat) (pc : BitVec 16) : State :=
  s.at_ (s.reportAt c) .faultReportArrival ⟨c, 0, [cause, code, queue, pc.toNat], []⟩

/-- A tile is still being written at or after a count: by a started command of a shape that `skip` does not name, or by
a VACCWR or MX.ZERO (R156, R199, R238). -/
def Core.tileBusy (k : Core) (skip : Fin 8 → Bool) (t count : Nat) : Bool :=
  ((List.finRange 8).any fun h => !skip h && k.shape[h].queue.any fun m => m.started && m.targets.contains t)
    || k.xpend.any fun x => count ≤ x.at_ && x.writes.any fun w => match w with
      | .acc u _ _ => u == t
      | .zero u => u == t
      | _ => false

/-- A row of an MX.LACC is widened and written or added (R202). -/
def Core.laccRow (k : Core) (x : Lacc) (q : Nat) : Core × Flags :=
  let e := ftEfmt x.fmt
  let n := cbN x.cb
  let row := k.opRow 0 (cbAoff x.cb) (cbApitch x.cb) q e n
  (List.zip (List.range n) row).foldl
    (fun st p =>
      let (k, f) := st
      let t := cbAtile x.cb + cbWn x.cb * (q / 128) + p.1 / 128
      let prior := accRead k.acc t (q % 128) (p.1 % 128)
      let v : Nat := if e = 15 then p.2.1 else (fp32.ofFV (readElem e p.2.1)).1
      let r : Nat × Flags :=
        if !cbAcc x.cb then (v, 0)
        else if e = 15 then satOF 32 (bitsInt 32 prior + bitsInt 32 v)
        else add32 prior v
      ({ k with acc := accPut k.acc t (q % 128) (p.1 % 128) r.1 }, f ||| r.2)) (k, 0)

/-- LACC_START: the MX.LACC `ev.id` of core `ev.core` reads row `ev.args[0]`; with row 0 come the checks at its
stamp. It reads one row per cycle (R202, R235, R243, R246). -/
def execLaccStart (s : State) : Out :=
  let c := s.ev.core
  let q := s.arg 0
  let k := s.core c
  match k.laccs.find? (·.id == s.ev.id) with
  | none => .next s
  | some x =>
    let b := x.cb
    if q = 0 ∧ (laccTiles b).any (k.tileBusy (fun _ => false) · x.start) then
      .next ((s.modCore c fun k => { k with laccs := k.laccs.filter (·.id != x.id) }).dieFault c causeMiss 0x08 2 x.pc)
    else if q = 0 ∧ !rowsTagged k.tag 0 (cbAoff b) (cbApitch b) (cbM b) (rowBytes (ftEfmt x.fmt) (cbN b)) (cbAtag b) then
      .next ((s.modCore c fun k => { k with laccs := k.laccs.filter (·.id != x.id) }).dieFault c causeTag 0x03 2 x.pc)
    else
      let r := k.laccRow x q
      let f := x.flags ||| r.2
      if q + 1 = cbM b then
        .next (s.setCore c ({ r.1 with laccs := r.1.laccs.filter (·.id != x.id) }.orFlags f))
      else
        .next ((s.setCore c { r.1 with laccs := r.1.laccs.map fun y =>
          if y.id = x.id then { y with flags := f } else y }).first (s.zc + 1) .laccStart ⟨c, x.id, [q + 1], []⟩)

/-! ## Events of a shape queue -/

/-- A command in the queue of a handle. -/
def Core.queued (k : Core) (h : Fin 8) (id : Nat) : Option MCmd := k.shape[h].queue.find? (·.id == id)

/-- Change a queued command. -/
def Core.modQueued (k : Core) (h : Fin 8) (id : Nat) (f : MCmd → MCmd) : Core :=
  k.modShape h fun g => { g with queue := g.queue.map fun m => if m.id = id then f m else m }

/-- The handle of a shape event. -/
def State.evShape (s : State) : Fin 8 := Fin.ofNat 8 (s.arg 0)

/-- COMMAND_ARRIVAL: the command `ev.id` of core `ev.core` reaches the queue of the handle `ev.args[0]` (R237). -/
def execCommandArrival (s : State) : Out :=
  .next (s.modCore s.ev.core (·.modQueued s.evShape s.ev.id fun m => { m with arrived := true }))

/-- A read beat of a DX B operand needs two rows of one bank (R244). -/
def bankConflict (b : Vector Dword 8) (efmt : Nat) : Bool :=
  isDx efmt && !cbBkeep b &&
    !decide (((List.range (min 16 (cbN b))).map fun j => (cbBpitch b / 64 * j) % 16).Nodup)

/-- The first check at σ that fails: cause and code (R238). -/
def Core.startFault (k : Core) (h : Fin 8) (m : MCmd) : Option (Nat × Nat) :=
  let e := ftEfmt m.fmt
  let b := m.cb
  let br := bRows e b
  let first := match k.shape[h].queue.head? with
    | some x => x.id == m.id
    | none => false
  if !first then some (causeMiss, 0x07)
  else if m.targets.any (k.tileBusy (· == h) · m.sigma) then some (causeMiss, 0x08)
  else if !rowsTagged k.tag 0 (cbAoff b) (cbApitch b) (cbM b) (rowBytes e (cbK b)) (cbAtag b) then some (causeTag, 0x01)
  else if !cbBkeep b && !rowsTagged k.tag 1 (cbBoff b) (cbBpitch b) br.1 (rowBytes e br.2) (cbBtag b) then
    some (causeTag, 0x02)
  else if bankConflict b e then some (causeBank, 0x02)
  else none

/-- Portion p of a started command's B loads in this cycle; with the last one the first row of A has its entry, or a
command that streams none its finish (R256). -/
def State.loadB (s : State) (c : Fin 64) (h : Fin 8) (m : MCmd) (p : Nat) : State :=
  let s := if p < m.portions then s.modCore c (·.loadPortion h m p) else s
  if p + 1 < m.portions then
    s.first (m.sigma + (p + 1) * m.portionTime) .matrixCommandStart ⟨c, m.id, [h.val, p + 1], []⟩
  else if m.rowList.isEmpty then s.at_ m.finish .matrixCommandFinish ⟨c, m.id, [h.val], []⟩
  else s.first (m.entersAt 0) .outputRowLands ⟨c, m.id, [h.val, 0, 1], []⟩

/-- MATRIX_COMMAND_START: at σ the command `ev.id` in the queue of handle `ev.args[0]` of core `ev.core` starts or
faults; a held one does neither (R194, R195, R238, R256). A number p in `ev.args[1]` is a later cycle of its B load, in
which portion p is read (R256). -/
def execMatrixCommandStart (s : State) : Out :=
  let c := s.ev.core
  let h := s.evShape
  let k := s.core c
  match k.queued h s.ev.id with
  | none => .next s
  | some m =>
    if m.started then .next (s.loadB c h m (s.arg 1))
    else if k.shape[h].held ∨ !m.arrived then .next s
    else
      match k.startFault h m with
      | some (cause, code) => .next (s.dieFault c cause code (4 + h.val) m.pc)
      | none =>
        let m := { m with started := true, finish := m.finishAt k.shape[h].d }
        .next ((s.setCore c ((k.modQueued h m.id fun _ => m).haloZero m)).loadB c h m 0)

/-- The MAC slots of row q in the cells of its shape: cell (i, j) multiplies elements 128·i to 128·i + 127 of the row, 128
cycles after the cell above it, by its 128 columns, each MAC for 8/ν cycles of its PE; a masked sub-tile takes none (R255,
R257, R262; log 76). -/
def State.rowWork (s : State) (c : Fin 64) (h : Fin 8) (m : MCmd) (q : Nat) : State :=
  let g := (s.core c).shape[h]
  let part (n i : Nat) : Nat := min 128 (n - 128 * i)
  let live (j : Nat) : Bool := m.kept (min (q / 128 * 128 + 127) (cbM m.cb - 1)) (128 * j)
  (List.range g.d).foldl
    (fun s i => (List.range g.w).foldl
      (fun (s : State) j =>
        let n := if live j then part (cbK m.cb) i * part (cbN m.cb) j * (32 / rowRate (ftEfmt m.fmt)) else 0
        if n = 0 then s else s.works (cumulusOf c) (8 * (g.top + i) + g.left + j) (s.zc + 128 * i) 1 n) s) s

/-- The i-th streamed row of A enters: it is read now, and its output row lands P cycles later (R196, R256). -/
def State.rowEnters (s : State) (c : Fin 64) (h : Fin 8) (m : MCmd) (i : Nat) : State :=
  let q := m.rowList.getD i 0
  let k := s.core c
  let s := (s.setCore c (k.modQueued h m.id fun x => { x with rows := x.rows ++ [(q, k.aCodes m q)] })).rowWork c h m q
  let s := s.at_ (m.entersAt i + m.pipeTime k.shape[h].d) .outputRowLands ⟨c, m.id, [h.val, i], []⟩
  if i + 1 < m.rowList.length then s.first (m.entersAt (i + 1)) .outputRowLands ⟨c, m.id, [h.val, i + 1, 1], []⟩ else s

/-- OUTPUT_ROW_LANDS: the `ev.args[1]`-th streamed row of the command `ev.id` on handle `ev.args[0]` of core `ev.core`
lands; with the last one its flags join FFLAGS (R47, R196, R206, R256). With `ev.args[2]` 1 the row enters the shape. An
MX.MMAC keeps its rows for its column sums (R258). -/
def execOutputRowLands (s : State) : Out :=
  let c := s.ev.core
  let h := s.evShape
  let i := s.arg 1
  let k := s.core c
  match k.queued h s.ev.id with
  | none => .next s
  | some m =>
    if s.arg 2 = 1 then .next (s.rowEnters c h m i)
    else
      let q := m.rowList.getD i 0
      let r := k.landRow h m q
      let f := m.flags ||| r.2
      let k := r.1.modQueued h m.id fun x =>
        { x with flags := f, rows := if m.check then x.rows else x.rows.filter (·.1 != q) }
      if i + 1 < m.rowList.length then .next (s.setCore c k)
      else .next ((s.setCore c (k.orFlags f)).at_ m.finish .matrixCommandFinish ⟨c, m.id, [h.val], []⟩)

/-- The reshapes of a core that wait for a handle's drain point. -/
def Core.drainers (k : Core) (h : Fin 8) : List Cmd := k.cmds.filter fun m => m.chain == 0 && (reshaped m.op).contains h

/-- MATRIX_COMMAND_FINISH: at F the command `ev.id` on handle `ev.args[0]` of core `ev.core` leaves the queue; skipped
blocks and the side area have landed, and a waiting reshape may have its drain point (R182, R254, R257, R258). -/
def execMatrixCommandFinish (s : State) : Out :=
  let c := s.ev.core
  let h := s.evShape
  let k := s.core c
  match k.queued h s.ev.id with
  | none => .next s
  | some m =>
    let k := k.landSkipped m
    let k := if m.check then k.sideArea h m else k
    let k := k.modShape h fun g => { g with queue := g.queue.filter (·.id != m.id) }
    .next ((k.drainers h).foldl (fun s x => s.at_ s.zc .drainPoint (.of c x.id)) (s.setCore c k))

/-- FAULT_REPORT_ARRIVAL: numbers cause, code, queue and word index of a fault on the Cumulus die or in an engine; it
is raised on core `ev.core`, and the cut is taken in this cycle (R246, R318). -/
def execFaultReportArrival (s : State) : Out :=
  .next (s.modCore s.ev.core (·.raise
    ⟨s.arg 0, BitVec.ofNat 8 (s.arg 1), .x, s.arg 2, BitVec.ofNat 16 (s.arg 3), 0⟩))

/-! ## Charge balancing (R262, R263, R354) -/

/-- The filler of the lesser of two counts: enough to raise it to 90 per cent of the greater (R262). -/
def fillerOf (a b : Nat) : Nat :=
  let lo := min a b
  let hi := max a b
  if 10 * lo < 9 * hi then ceilDiv (9 * hi) 10 - lo else 0

/-- The pair of a die whose last window has not been balanced: one with work or filler in a window that has ended
(R262). -/
def State.unbalanced (s : State) : Option (Nat × Nat) :=
  ((s.work ++ s.filler).find? fun w => w.win < s.windowOf (Fin.ofNat 8 w.die) s.zc).map fun w => (w.die, w.member / 2)

/-- CHARGE_BALANCE_WINDOW: numbers die and pair. A window of the pair has ended: when the lesser member's work is below 90 per
cent of the greater's, the lesser member takes filler in the next window, in the slots or cycles it does not use. Filler is
seen in energy only, which the next reading of the meters takes in (R262, R263, R354, R362). -/
def execChargeBalanceWindow (s : State) : Out :=
  let die := s.arg 0
  let pair := s.arg 1
  let d : Fin 8 := Fin.ofNat 8 die
  let now := s.windowOf d s.zc
  let a := workOf s.work die (2 * pair) (now - 1)
  let b := workOf s.work die (2 * pair + 1) (now - 1)
  let lesser := if b < a then 2 * pair + 1 else 2 * pair
  let n := min (fillerOf a b) (windowRoom d - workOf s.work die lesser now)
  let old (w : Work) : Bool := w.die == die && w.member / 2 == pair && w.win < now
  let sum (l : List Work) (from_ : Nat) : Nat := ((l.filter fun w => old w && s.windowOf d from_ ≤ w.win).map (·.n)).sum
  .next { s with
    gov := { s.gov with
      slots := s.gov.slots.set d (s.gov.slots[d] + sum (s.work ++ s.filler) s.gov.windowZc)
      fed := s.gov.fed.set d (s.gov.fed[d] + sum s.filler s.gov.metered) }
    work := s.work.filter (!old ·)
    filler := s.filler.filter (!old ·) ++ if n = 0 then [] else [⟨die, lesser, now, n⟩] }

end Sys2Proof.Machine
end

