-- ==== Sys2Proof/Machine/Power.lean ====
section
/-!
DEFINITION. The power governor, its clock steps and subscriptions (R351-R360), telemetry samples (R361-R363) and the IEEE
1588 clock (R364). What the meters read is open (Config.reading); times are of the Stratus clock.
-/

namespace Sys2Proof.Machine

/-! ## Windows (R352, R353, R355) -/

/-- PSLEW, EN, CLKMIN, CLKMAX, PLIM and PHTO (R351). -/
def HostRegs.pslew (g : HostRegs) : Nat := bits g.pwctl 15 0
def HostRegs.pwEn (g : HostRegs) : Bool := g.pwctl.getLsbD 16
def HostRegs.clkMin (g : HostRegs) : Nat := bits g.pwctl 21 17
def HostRegs.clkMax (g : HostRegs) : Nat := bits g.pwctl 26 22
def HostRegs.phto (g : HostRegs) : Nat := bits g.pwctl 63 48

/-- The product's TDP in W (R1). -/
def tdp : Nat := if Config.isZvfM1 then 1800 else 1450

/-- The power limit in W: PLIM, or the TDP when it is 0 (R351). -/
def HostRegs.plim (g : HostRegs) : Nat := if bits g.pwctl 47 32 = 0 then tdp else bits g.pwctl 47 32

/-- The change of a window is above L = PSLEW / 10 A; with PSLEW 0 there is no limit (R351, R352). -/
def overSlew (pslew change : Nat) : Bool := pslew != 0 && pslew < 10 * change

/-- Ramp headroom in A/ms (R358). -/
def headroom (pslew now before : Nat) : Nat := pslew - 10 * ((now - before) + (before - now))

/-! ## Subscriptions (R358-R360) -/

/-- What the governor measures in a window: IPKG, package power, die temperatures. -/
structure Measure where
  ipkg  : Nat
  power : Nat
  temps : List Nat
  room  : Nat
  deriving DecidableEq, Repr

/-- The value a subscription tests (R358). -/
def Sub.value (u : Sub) (m : Measure) : Nat :=
  if u.qty = 1 then m.power else if u.qty = 2 then m.ipkg else if u.qty = 3 then m.temps.getD u.die 0 else m.room

/-- Entry `i` of a table of 256 bytes; none when it is unused or breaks its layout (R358). -/
def subOf (c : Fin 64) (i x : Nat) : Option Sub :=
  let e := x / 2 ^ (256 * i) % 2 ^ 256
  let d0 := e % 2 ^ 64
  let d1 := e / 2 ^ 64 % 2 ^ 64
  let d2 := e / 2 ^ 128 % 2 ^ 64
  let d3 := e / 2 ^ 192
  let qty := d0 % 8
  if d0 / 2 ^ 7 ≠ 0 ∨ d1 / 2 ^ 48 ≠ 0 ∨ d2 / 2 ^ 48 ≠ 0 ∨ d3 ≠ 0 ∨ qty = 0 ∨ 5 ≤ qty ∨ d2 % 8 ≠ 0 then none
  else some ⟨c, i, qty, d0 / 8 % 8, d0 / 64 % 2 == 1, d1 % 2 ^ 32, d1 / 2 ^ 32 % 2 ^ 16, d2, false, false, 0⟩

/-- An entry is armed at the read when its value lies short of its threshold (R359). -/
def Sub.arm (u : Sub) (m : Measure) : Sub :=
  { u with armed := if u.fall then u.thr < u.value m else u.value m < u.thr }

/-- The governor reads the table at an address of a core's context from home (R358, R359). -/
def State.readSubs (s : State) (m : Measure) (c : Fin 64) (base : Dword) : State :=
  let rest := s.gov.subs.filter (·.core != c)
  let put (s : State) (l : List Sub) : State := { s with gov := { s.gov with subs := rest ++ l } }
  if base = 0 then put s []
  else
    match s.engineRead (s.core c).vis.csr.cid base.toNat 256 with
    | (s, .inr _) => put s []
    | (s, .inl x) => put s ((List.range 8).filterMap fun i => (subOf c i x).map (·.arm m))

/-- The entry fires at a value (R360). -/
def Sub.fires (u : Sub) (v : Nat) : Bool := u.armed && !u.off && (if u.fall then v ≤ u.thr else u.thr ≤ v)

/-- The entry re-arms at a value (R360). -/
def Sub.rearms (u : Sub) (v : Nat) : Bool :=
  !u.armed && !u.off && (if u.fall then u.thr + u.hyst < v else v < u.thr - u.hyst)

/-- The notify word of a firing (R360). -/
def Sub.notify (u : Sub) (v : Nat) : Nat := v % 2 ^ 32 + fld ((u.seq + 1) % 2 ^ 16) 32 + fld u.idx 48

/-- One entry is tested at the end of a window (R360). -/
def State.testSub (s : State) (m : Measure) (u : Sub) : State × Sub :=
  let v := u.value m
  if u.fires v then
    let k := s.core u.core
    match s.engineWrite k.vis.csr.cid u.naddr 8 (u.notify v) (stampOf k.vis.csr.cid u.core k.seqs[(3 : Fin 15)]) with
    | (_, .inr _) => (s, { u with armed := false, off := true })
    | (s, .inl _) => (s, { u with armed := false, seq := u.seq + 1 })
  else (s, if u.rearms v then { u with armed := true } else u)

/-- Every entry is tested, the former tables before those are read whose writes have reached the governor (R359, R360). -/
def State.testSubs (s : State) (m : Measure) : State :=
  let r := s.gov.subs.foldl
    (fun (acc : State × List Sub) (u : Sub) =>
      let x := acc.1.testSub m u
      (x.1, acc.2 ++ [x.2])) (s, [])
  let due := s.gov.reads.filter (·.2.2 ≤ s.zc)
  let s : State := { r.1 with gov := { r.1.gov with subs := r.2, reads := s.gov.reads.filter (s.zc < ·.2.2) } }
  due.foldl (fun (s : State) x => s.readSubs m x.1 x.2.1) s

/-! ## Energy and filler (R353, R362, R363) -/

/-- The energy counters take filler, by die, in mJ modulo 2³² (R362, R363). -/
def State.addFiller (s : State) (x : Fin 8 → Nat) : State :=
  { s with
    energy := Vector.ofFn fun d => (s.energy[d] + x d) % 2 ^ 32
    fill := (s.fill + ((List.finRange 8).map x).sum) % 2 ^ 32 }

/-- Charge-balance filler has run on a die since the last reading of the meters (R263). -/
def State.fedSince (s : State) (d : Fin 8) : Bool :=
  s.gov.fed[d] != 0
    || s.filler.any fun w => w.die == d.val && w.n != 0 && s.windowOf d s.gov.metered ≤ w.win && w.win ≤ s.windowOf d s.zc

/-- A started entry holds ordered chunks or waits for link credit (R353). -/
def State.collStall (s : State) : Bool :=
  (s.qps.any fun q => q.2.ents.any fun e => e.st == .started) && (!s.helds.isEmpty || Config.creditStall s.zc)

/-- The PE slots of the cells of a die, or the vector-unit beats of its cores, that no work and no charge-balance filler took in
the window so far (R262, R353, R354). -/
def State.idleSlots (s : State) (d : Fin 8) : Nat :=
  let first := s.windowOf d s.gov.windowZc
  let now := s.windowOf d s.zc
  let used := ((s.work ++ s.filler).filter fun w => w.die == d.val && first ≤ w.win && w.win ≤ now).map (·.n)
  (if d.val < 2 then 32 else 64) * windowRoom d * (now + 1 - first) - (s.gov.slots[d] + used.sum)

/-- The energy that ramp filler can still take in the window, by die, in the order in which the places are filled: what the idle
PE slots and vector-unit beats hold, and in a collective stall the reduction units and links of Stratus (R353; log 39). -/
def State.rampRoom (s : State) (n : Nat) : List (Fin 8 × Nat) :=
  let most (d : Fin 8) : Nat :=
    if d = 7 then if s.gov.stalled || s.collStall then Config.idleEnergy 7 0 n else 0
    else if s.idleSlots d = 0 then 0 else Config.idleEnergy d.val (s.idleSlots d) n
  [2, 3, 4, 5, 0, 1, 7].map fun d => (d, most d - s.gov.ramp[d])

/-- What a die takes of an energy of filler that fills places in order. -/
def shareOf : Nat → List (Fin 8 × Nat) → Fin 8 → Nat
  | _, [], _ => 0
  | e, (x, most) :: rest, d => if x = d then min e most else shareOf (e - most) rest d

/-- The energies of the dies in the window so far, with more filler (R352, R363). -/
def State.used (s : State) (x : Fin 8 → Nat) : List Nat :=
  (List.finRange 8).map fun d => (s.energy[d] + x d + 2 ^ 32 - s.gov.base[d]) % 2 ^ 32

/-- The ramp filler that is added at a reading of the meters, by die: the least energy with which the window's current meets its
target, or all that the idle places hold; none when work meets the target, or unless EN is 1 and PSLEW is not 0 (R353). -/
def State.rampOf (s : State) (n : Nat) : Fin 8 → Nat :=
  let room := s.rampRoom n
  let total := (room.map (·.2)).sum
  let meets (e : Nat) : Bool := s.gov.target ≤ Config.packageAmps n (s.used (shareOf e room))
  if s.regs.pwEn && s.regs.pslew != 0 then shareOf (((List.range total).find? meets).getD total) room else fun _ => 0

/-- The meters are read: the energy counters take what work and filler used since the last reading (R362, R363). -/
def State.meter (s : State) : State :=
  let n := s.freeCtr
  let work : State := { s with energy := Vector.ofFn fun d : Fin 8 => (s.energy[d] + Config.reading d.val n) % 2 ^ 32 }
  let t := work.addFiller fun d => if s.fedSince d then Config.reading (16 + d.val) n else 0
  let r := t.rampOf n
  let t := t.addFiller r
  ({ t with gov := { t.gov with
      ramp := Vector.ofFn fun d => s.gov.ramp[d] + r d
      fed := Vector.replicate 8 0
      metered := s.zc } }).useFree 1

/-- WINDOW_END: a window of 100 µs has ended. IPKG is formed from the energy counters and the rail voltages; then the power,
the temperatures, the excursions and the next target, and subscriptions are tested (R352, R353, R355, R358-R360). -/
def execWindowEnd (s : State) : Out :=
  if s.time < s.gov.windowAt then .next s
  else
    let n := s.freeCtr
    let s := s.meter
    let g := s.regs
    let ipkg := Config.packageAmps n (s.used fun _ => 0)
    let m : Measure := ⟨ipkg, Config.reading 24 n, (List.range 8).map fun d => Config.reading (8 + d) n, headroom g.pslew ipkg g.ipkg⟩
    let rise := overSlew g.pslew (ipkg - g.ipkg)
    let fall := g.pwEn && overSlew g.pslew (g.ipkg - ipkg)
    let s := s.modRegs fun g => { g with
      ipkg := ipkg
      excr := if rise then g.excr + 1 else g.excr
      excf := if fall then g.excf + 1 else g.excf }
    let s : State := { s with gov := { s.gov with
      excSince := s.gov.excSince + rise.toNat
      hot := m.temps.any (100 < ·)
      power := m.power
      target := if g.pwEn && g.pslew != 0 then ipkg - g.pslew / 10 else 0
      base := s.energy
      ramp := Vector.replicate 8 0
      stalled := false
      windowZc := s.zc
      slots := Vector.replicate 8 0
      windowAt := s.gov.windowAt + windowSpan } }
    .next (s.testSubs m)

/-! ## Clock steps (R356, R357) -/

/-- The clock of a code in MHz (R351). -/
def mhz (c : Nat) : Nat := 400 + 25 * c

/-- The code the governor picks at a boundary (R356). -/
def nextCode (g : HostRegs) (x : Nat) (hot : Bool) : Nat :=
  let y := hot.toNat
  let c :=
    if !g.pwEn then g.clkMax - y
    else if x + y ≠ 0 then g.clk - (x + y)
    else if g.pslew = 0 ∨ 250 * g.ipkg ≤ g.pslew * mhz g.clk then g.clk + 1
    else g.clk
  max g.clkMin (min g.clkMax c)

/-- The level-2 boundaries a gang has passed: those every core of its domain has issued, a member that has ended its kernel
with what it had issued then (R117, R296, R357). -/
def State.passed (s : State) (r : Run) : Nat :=
  match (gangCores r.gang).find? fun c => (s.core c).onRun r with
  | none => r.bounds
  | some c => ((s.gangOf c).map fun d => (s.countsOf c d).1[(2 : Fin 4)]).min?.getD 0

/-- A gang counts as having passed a boundary since the last package boundary: its own, or its timeout (R357). -/
def State.counts (s : State) (r : Run) : Bool :=
  r.bounds < s.passed r
    || (s.regs.phto != 0 && max s.gov.lastB r.since + s.regs.phto * 65536 ≤ s.zc)

/-- The gangs with a running core: one that is suspended by PROBE or stopped at a cut runs none (R314, R357). -/
def State.gangsOn (s : State) : List Run :=
  s.runs.filter fun r =>
    r.st == .running && r.since ≤ s.zc && (gangCores r.gang).any fun c => (s.core c).onRun r && (s.core c).st == .running

/-- The gangs that hold the next package boundary (R357). -/
def State.holding (s : State) : List Nat := (s.gangsOn.filter (!s.counts ·)).map (·.id)

/-- The count at which a core's report of its `n`-th PHASE 2 is known on Stratus; 0 when that has long been (R117, R357). -/
def State.phaseKnownAt (s : State) (c : Fin 64) (n : Nat) : Nat :=
  ((s.core c).reports.find? (·.1 == n)).elim 0 (·.2 + s.lat (zenithOf c) 7)

/-- The count at which it is known on Stratus that a gang counts: the last of its members' reports of the boundary, or its
timeout, whichever is first (R357; log 32). -/
def State.knownAt (s : State) (r : Run) : Nat :=
  let told := (((gangCores r.gang).filter fun c => (s.core c).run == r.id).map fun c => s.phaseKnownAt c (r.bounds + 1)).foldl max 0
  let late := max s.gov.lastB r.since + s.regs.phto * 65536
  if s.regs.phto = 0 ∨ s.zc < late then told
  else if r.bounds < s.passed r then min told (late + s.lat 0 7)
  else late + s.lat 0 7

/-- The latest count at which it is known on Stratus that a gang which held the boundary has ended: of those known before, and
those that end in this cycle (R357; log 32). -/
def State.endsKnown (s : State) : Nat :=
  let on := s.gangsOn.map (·.id)
  let ended (c : Fin 64) : Bool :=
    let k := s.core c
    k.st == .idle && s.zc < k.idleAt && s.gov.waits.contains k.run && !on.contains k.run
  ((coreList.filter ended).map fun c => s.zc + s.lat (zenithOf c) 7).foldl max s.gov.endsAt

/-- The count at which what completes a boundary reached in this cycle is known to the governor: the last report, timeout or
end; where none is still to come, that of this Zenith 0 count (R357; log 32). -/
def State.boundaryAt (s : State) : Nat :=
  let b := (s.gangsOn.map s.knownAt).foldl max s.endsKnown
  if b < s.zc ∨ s.gangsOn = [] then s.zc + s.lat 0 7 else b

/-- At the end of a cycle the governor keeps whether there was a collective stall (R353), and which gangs still hold the next
boundary (R357). -/
def State.watch (s : State) : State :=
  { s with gov := { s.gov with
      stalled := s.gov.stalled || s.collStall
      waits := s.holding
      endsAt := s.endsKnown } }

/-- A package phase boundary is reached in this cycle (R357). -/
def State.boundary (s : State) : Bool :=
  match s.gangsOn with
  | [] => s.zc % 65536 == 0 && s.gov.lastB != s.boundaryAt
  | l => l.all s.counts

/-- PACKAGE_PHASE_BOUNDARY: with no number, a boundary is reached in this cycle, and its report goes to the governor;
with one, it has reached the governor at B and the governor picks the clock (R356, R357). -/
def execPackagePhaseBoundary (s : State) : Out :=
  if s.ev.args.isEmpty then
    if !s.boundary then .next s
    else
      let b := s.boundaryAt
      let on := s.gangsOn.map (·.id)
      let s : State := { s with
        gov := { s.gov with lastB := b, waits := [], endsAt := 0 }
        runs := s.runs.map fun (r : Run) => if on.contains r.id then { r with bounds := s.passed r } else r }
      .next (s.at_ b .packagePhaseBoundary (.nums [1]))
  else
    let c := nextCode s.regs s.gov.excSince (s.gov.hot || s.regs.plim < s.gov.power)
    let s : State := { s with gov := { s.gov with excSince := 0 } }
    if s.gov.step.isSome ∨ c = s.regs.clk then .next s
    else
      let s : State := { s with gov := { s.gov with step := some (s.zc + 64, c) } }
      .next (s.at_ (s.zc + 64) .clockStep (.nums [c]))

/-- CLOCK_STEP: number the code that takes effect (R356). -/
def execClockStep (s : State) : Out :=
  let s := s.modRegs fun g => { g with clk := s.arg 0 }
  .next { s with gov := { s.gov with step := none } }

/-! ## Telemetry (R361-R363) -/

/-- The time the Stratus clock shows, in ns (R364). -/
def State.clockNs (s : State) : Nat := (s.ptp + s.time / unitsPerNs).toNat

/-- The 64 bytes of a sample (R363): seconds, nanoseconds, the energies of the dies and of filler. -/
def sampleNumber (g : HostRegs) (zc ns : Nat) (energy : Vector Nat 8) (fill : Nat) : Nat :=
  let es := ((List.finRange 8).map fun d => fld energy[d] (192 + 32 * d.val)).foldl (· + ·) 0
  ns / 10 ^ 9 % 2 ^ 48 + fld (ns % 10 ^ 9 + fld g.clk 30 + fld g.lock.toNat 35) 64 + fld (zc % 2 ^ 64) 128 + es
    + fld (fill + fld g.tlhead.toNat 32) 448

/-- A sample is due (R361). -/
def State.sampleDue (s : State) : Bool := s.regs.tlctl.getLsbD 5 && s.gov.sampleAt ≤ s.time

/-- TELEMETRY_SAMPLE: while EN is 1 a sample is taken every PERIOD µs: the energy counters are read for this count and the
record is written (R361-R363). -/
def execTelemetrySample (s : State) : Out :=
  if !s.sampleDue then .next s
  else
    let s := s.meter
    let g := s.regs
    let logn := bits g.tlctl 4 0
    let x := sampleNumber g s.zc s.clockNs s.energy s.fill
    let s : State := { s with
      mem := s.mem.write (g.tlbase.toNat + 64 * (g.tlhead.toNat % 2 ^ logn)) x 64
      gov := { s.gov with sampleAt := s.gov.sampleAt + bits g.tlctl 27 8 * 1000 * unitsPerNs } }
    .next (s.modRegs fun g => { g with tlhead := g.tlhead + 1 })

/-! ## The IEEE 1588 clock (R364) -/

/-- PTP_SYNC: a sync message measures an offset from the master: numbers sign (1 negative) and size in ns. LOCK is set by the
eighth consecutive offset within ±1000 ns and cleared by one outside; an offset above 1 s is taken off as a step (R364). -/
def execPtpSync (s : State) : Out :=
  let n : BitVec 32 := BitVec.ofNat 32 (s.arg 1)
  let inside := s.arg 1 ≤ 1000
  let good := if inside then s.gov.good + 1 else 0
  let off : Int := if s.arg 0 = 1 then -(s.arg 1) else s.arg 1
  let s : State := { s with
    gov := { s.gov with good := good, syncAt := s.time }
    ptp := if 10 ^ 9 < s.arg 1 then s.ptp - off else s.ptp }
  .next (s.modRegs fun g => { g with
    offs := if s.arg 0 = 1 then -n else n
    lock := inside && (g.lock || 8 ≤ good) })

/-- No sync message has arrived for 4 s (R364). -/
def State.syncLost (s : State) : Bool := s.gov.syncAt + 4 * 10 ^ 9 * unitsPerNs ≤ s.time

/-- PTP_SYNC_TIMEOUT: LOCK is cleared when no sync message has arrived for 4 s (R364). -/
def execPtpSyncTimeout (s : State) : Out :=
  if !s.syncLost then .next s
  else
    let s : State := { s with gov := { s.gov with good := 0 } }
    .next (s.modRegs fun g => { g with lock := false })

end Sys2Proof.Machine
end

