-- ==== Sys2Proof/Machine/Start.lean ====
section
/-!
DEFINITION. The start of a consumer whose tokens have all been seen DONE (R224, R386).
-/

namespace Sys2Proof.Machine

/-- A consumer of core `c` starts (R386): a JOIN completes, and a command goes to its engine. -/
def State.startOne (s : State) (c : Fin 64) (m : Cmd) : State :=
  match m.op with
  | .tkJoin _ _ _ => s.finishDone c m
  | .nbqr _ _ _ | .nbrot _ _ _ | .nbcarry _ _ _ _ | .nbswitch _ _ _ => s.nimbusStart c m
  | .cqPost _ _ | .cqArm _ _ | .cntAdd _ _ | .cntWait _ _ | .rlInv _ _ => s.collStart c m
  | _ =>
    match amorOf m.op with
    | some (op, dw) => s.amorStart c m op dw
    | none => s.copyStart c m

/-- COMMAND_START: the first consumer of core `ev.core` whose tokens have all been seen DONE starts (R386). -/
def execCommandStart (s : State) : Out :=
  let c := s.ev.core
  match (s.core c).starting s.zc with
  | none => .next s
  | some m => .next (s.startOne c m)

end Sys2Proof.Machine
end

