-- ==== Sys2Proof/Machine/Dispatch.lean ====
section
/-!
DEFINITION. One arm per instruction and event of the opcode table: its meaning.
-/

namespace Sys2Proof.Machine

/-- The effect of one instruction word or event on the package. -/
def exec (i : Instr) (s : State) : Host.Outcome State Fault Refusal :=
  match i with
  | .nop => Sys2Proof.Machine.execNop s
  | .loop lv pf gc len => Sys2Proof.Machine.execLoop lv pf gc len s
  | .lbreak lv gc => Sys2Proof.Machine.execLbreak lv gc s
  | .lbreakA lv => Sys2Proof.Machine.execLbreakA lv s
  | .waitk k => Sys2Proof.Machine.execWaitk k s
  | .nopX => Sys2Proof.Machine.execNopX s
  | .loopX lv pf gc ns len => Sys2Proof.Machine.execLoopX lv pf gc ns len s
  | .lbreakX lv gc => Sys2Proof.Machine.execLbreakX lv gc s
  | .lbreakAX lv => Sys2Proof.Machine.execLbreakAX lv s
  | .waitkX k => Sys2Proof.Machine.execWaitkX k s
  | .add d a b => Sys2Proof.Machine.execAdd d a b s
  | .sub d a b => Sys2Proof.Machine.execSub d a b s
  | .and d a b => Sys2Proof.Machine.execAnd d a b s
  | .or d a b => Sys2Proof.Machine.execOr d a b s
  | .xor d a b => Sys2Proof.Machine.execXor d a b s
  | .andn d a b => Sys2Proof.Machine.execAndn d a b s
  | .shl d a b => Sys2Proof.Machine.execShl d a b s
  | .shr d a b => Sys2Proof.Machine.execShr d a b s
  | .sha d a b => Sys2Proof.Machine.execSha d a b s
  | .rol d a b => Sys2Proof.Machine.execRol d a b s
  | .min d a b => Sys2Proof.Machine.execMin d a b s
  | .max d a b => Sys2Proof.Machine.execMax d a b s
  | .minn d a b => Sys2Proof.Machine.execMinn d a b s
  | .maxn d a b => Sys2Proof.Machine.execMaxn d a b s
  | .mul d a b => Sys2Proof.Machine.execMul d a b s
  | .mulh d a b => Sys2Proof.Machine.execMulh d a b s
  | .mulhn d a b => Sys2Proof.Machine.execMulhn d a b s
  | .div d a b => Sys2Proof.Machine.execDiv d a b s
  | .divn d a b => Sys2Proof.Machine.execDivn d a b s
  | .rem d a b => Sys2Proof.Machine.execRem d a b s
  | .remn d a b => Sys2Proof.Machine.execRemn d a b s
  | .clz d a => Sys2Proof.Machine.execClz d a s
  | .ctz d a => Sys2Proof.Machine.execCtz d a s
  | .popc d a => Sys2Proof.Machine.execPopc d a s
  | .sext d a b => Sys2Proof.Machine.execSext d a b s
  | .zext d a b => Sys2Proof.Machine.execZext d a b s
  | .addsh d a b => Sys2Proof.Machine.execAddsh d a b s
  | .sel d a b => Sys2Proof.Machine.execSel d a b s
  | .addi d a imm => Sys2Proof.Machine.execAddi d a imm s
  | .andi d a imm => Sys2Proof.Machine.execAndi d a imm s
  | .ori d a imm => Sys2Proof.Machine.execOri d a imm s
  | .xori d a imm => Sys2Proof.Machine.execXori d a imm s
  | .shli d a imm => Sys2Proof.Machine.execShli d a imm s
  | .shri d a imm => Sys2Proof.Machine.execShri d a imm s
  | .shai d a imm => Sys2Proof.Machine.execShai d a imm s
  | .li d imm => Sys2Proof.Machine.execLi d imm s
  | .lih d imm => Sys2Proof.Machine.execLih d imm s
  | .cmpEq d a b => Sys2Proof.Machine.execCmpEq d a b s
  | .cmpNe d a b => Sys2Proof.Machine.execCmpNe d a b s
  | .cmpLt d a b => Sys2Proof.Machine.execCmpLt d a b s
  | .cmpLe d a b => Sys2Proof.Machine.execCmpLe d a b s
  | .cmpLtn d a b => Sys2Proof.Machine.execCmpLtn d a b s
  | .cmpLen d a b => Sys2Proof.Machine.execCmpLen d a b s
  | .cmpiEq d a imm => Sys2Proof.Machine.execCmpiEq d a imm s
  | .cmpiNe d a imm => Sys2Proof.Machine.execCmpiNe d a imm s
  | .cmpiLt d a imm => Sys2Proof.Machine.execCmpiLt d a imm s
  | .cmpiLe d a imm => Sys2Proof.Machine.execCmpiLe d a imm s
  | .cmpiLtn d a imm => Sys2Proof.Machine.execCmpiLtn d a imm s
  | .cmpiLen d a imm => Sys2Proof.Machine.execCmpiLen d a imm s
  | .pbr b off => Sys2Proof.Machine.execPbr b off s
  | .pbrg b a => Sys2Proof.Machine.execPbrg b a s
  | .brT b a => Sys2Proof.Machine.execBrT b a s
  | .brZ b a => Sys2Proof.Machine.execBrZ b a s
  | .brA b => Sys2Proof.Machine.execBrA b s
  | .call b => Sys2Proof.Machine.execCall b s
  | .ret => Sys2Proof.Machine.execRet s
  | .trap n => Sys2Proof.Machine.execTrap n s
  | .rett => Sys2Proof.Machine.execRett s
  | .csrr g csr => Sys2Proof.Machine.execCsrr g csr s
  | .csrw g csr => Sys2Proof.Machine.execCsrw g csr s
  | .csrs g csr => Sys2Proof.Machine.execCsrs g csr s
  | .csrc g csr => Sys2Proof.Machine.execCsrc g csr s
  | .yield n => Sys2Proof.Machine.execYield n s
  | .probeR d a pin => Sys2Proof.Machine.execProbeR d a pin s
  | .probeW d a pin => Sys2Proof.Machine.execProbeW d a pin s
  | .probeRw d a pin => Sys2Proof.Machine.execProbeRw d a pin s
  | .unpin d a => Sys2Proof.Machine.execUnpin d a s
  | .realign a => Sys2Proof.Machine.execRealign a s
  | .phase v => Sys2Proof.Machine.execPhase v s
  | .domsync v => Sys2Proof.Machine.execDomsync v s
  | .stepadv => Sys2Proof.Machine.execStepadv s
  | .klaunch a k => Sys2Proof.Machine.execKlaunch a k s
  | .kend => Sys2Proof.Machine.execKend s
  | .tkZero d => Sys2Proof.Machine.execTkZero d s
  | .tkJoin d a b => Sys2Proof.Machine.execTkJoin d a b s
  | .tkTest d a => Sys2Proof.Machine.execTkTest d a s
  | .shapeAlloc k a h => Sys2Proof.Machine.execShapeAlloc k a h s
  | .shapeFree k h => Sys2Proof.Machine.execShapeFree k h s
  | .shapeCut k a j h => Sys2Proof.Machine.execShapeCut k a j h s
  | .shapeChain k j h => Sys2Proof.Machine.execShapeChain k j h s
  | .shapeQry d h => Sys2Proof.Machine.execShapeQry d h s
  | .cbset cb a d => Sys2Proof.Machine.execCbset cb a d s
  | .cbclr cb => Sys2Proof.Machine.execCbclr cb s
  | .hbload h a k => Sys2Proof.Machine.execHbload h a k s
  | .hbstore h a k => Sys2Proof.Machine.execHbstore h a k s
  | .hseed h a => Sys2Proof.Machine.execHseed h a s
  | .nbqr k a h => Sys2Proof.Machine.execNbqr k a h s
  | .nbrot k a h => Sys2Proof.Machine.execNbrot k a h s
  | .nbcarry k a reset h => Sys2Proof.Machine.execNbcarry k a reset h s
  | .nbswitch k a h => Sys2Proof.Machine.execNbswitch k a h s
  | .ld v a imm => Sys2Proof.Machine.execLd v a imm s
  | .lds a g sz e => Sys2Proof.Machine.execLds a g sz e s
  | .ldgStride v a x => Sys2Proof.Machine.execLdgStride v a x s
  | .ldgGather v a x j => Sys2Proof.Machine.execLdgGather v a x j s
  | .lda v a x n => Sys2Proof.Machine.execLda v a x n s
  | .chka v a x n => Sys2Proof.Machine.execChka v a x n s
  | .ldb a k n => Sys2Proof.Machine.execLdb a k n s
  | .lsg a g sz x => Sys2Proof.Machine.execLsg a g sz x s
  | .ldacq a g sc range q => Sys2Proof.Machine.execLdacq a g sc range q s
  | .ltv v a x b => Sys2Proof.Machine.execLtv v a x b s
  | .markL => Sys2Proof.Machine.execMarkL s
  | .laSet a g => Sys2Proof.Machine.execLaSet a g s
  | .laAdd a imm => Sys2Proof.Machine.execLaAdd a imm s
  | .laAddg a g => Sys2Proof.Machine.execLaAddg a g s
  | .verchk a g => Sys2Proof.Machine.execVerchk a g s
  | .cpCopy k q => Sys2Proof.Machine.execCpCopy k q s
  | .cpSumFold k q last => Sys2Proof.Machine.execCpSumFold k q last s
  | .cpSumCrc k q last => Sys2Proof.Machine.execCpSumCrc k q last s
  | .cpFill k q width => Sys2Proof.Machine.execCpFill k q width s
  | .cpLink k q => Sys2Proof.Machine.execCpLink k q s
  | .cpLinkFold k q last => Sys2Proof.Machine.execCpLinkFold k q last s
  | .cpLinkCrc k q last => Sys2Proof.Machine.execCpLinkCrc k q last s
  | .cpTileTo k q b => Sys2Proof.Machine.execCpTileTo k q b s
  | .cpTileFrom k q b => Sys2Proof.Machine.execCpTileFrom k q b s
  | .st v a imm => Sys2Proof.Machine.execSt v a imm s
  | .sts a g sz e => Sys2Proof.Machine.execSts a g sz e s
  | .stxStride v a x => Sys2Proof.Machine.execStxStride v a x s
  | .stxScatter v a x j => Sys2Proof.Machine.execStxScatter v a x j s
  | .stt v a x b => Sys2Proof.Machine.execStt v a x b s
  | .ssg a g sz x => Sys2Proof.Machine.execSsg a g sz x s
  | .strel a g sc range q => Sys2Proof.Machine.execStrel a g sc range q s
  | .markW => Sys2Proof.Machine.execMarkW s
  | .fence sc => Sys2Proof.Machine.execFence sc s
  | .cmoClean a g lvl k => Sys2Proof.Machine.execCmoClean a g lvl k s
  | .cmoInv a g lvl k => Sys2Proof.Machine.execCmoInv a g lvl k s
  | .cmoClinv a g lvl k => Sys2Proof.Machine.execCmoClinv a g lvl k s
  | .amoAdd a x dw k => Sys2Proof.Machine.execAmoAdd a x dw k s
  | .amoMin a x dw k => Sys2Proof.Machine.execAmoMin a x dw k s
  | .amoMax a x dw k => Sys2Proof.Machine.execAmoMax a x dw k s
  | .amoOr a x dw k => Sys2Proof.Machine.execAmoOr a x dw k s
  | .amoAnd a x dw k => Sys2Proof.Machine.execAmoAnd a x dw k s
  | .amoXchg a x dw k => Sys2Proof.Machine.execAmoXchg a x dw k s
  | .amoCas a x dw k => Sys2Proof.Machine.execAmoCas a x dw k s
  | .amorAdd k q dw => Sys2Proof.Machine.execAmorAdd k q dw s
  | .amorMin k q dw => Sys2Proof.Machine.execAmorMin k q dw s
  | .amorMax k q dw => Sys2Proof.Machine.execAmorMax k q dw s
  | .amorOr k q dw => Sys2Proof.Machine.execAmorOr k q dw s
  | .amorAnd k q dw => Sys2Proof.Machine.execAmorAnd k q dw s
  | .amorXchg k q dw => Sys2Proof.Machine.execAmorXchg k q dw s
  | .amorCas k q dw => Sys2Proof.Machine.execAmorCas k q dw s
  | .waSet a g => Sys2Proof.Machine.execWaSet a g s
  | .waAdd a imm => Sys2Proof.Machine.execWaAdd a imm s
  | .waAddg a g => Sys2Proof.Machine.execWaAddg a g s
  | .cqPost k q => Sys2Proof.Machine.execCqPost k q s
  | .cqArm k q => Sys2Proof.Machine.execCqArm k q s
  | .cntAdd k q => Sys2Proof.Machine.execCntAdd k q s
  | .cntWait k q => Sys2Proof.Machine.execCntWait k q s
  | .rlInv k q => Sys2Proof.Machine.execRlInv k q s
  | .vadd d a b mk fs => Sys2Proof.Machine.execVadd d a b mk fs s
  | .vsub d a b mk fs => Sys2Proof.Machine.execVsub d a b mk fs s
  | .vmul d a b mk fs => Sys2Proof.Machine.execVmul d a b mk fs s
  | .vfma d a b mk fs => Sys2Proof.Machine.execVfma d a b mk fs s
  | .vfms d a b mk fs => Sys2Proof.Machine.execVfms d a b mk fs s
  | .vfnma d a b mk fs => Sys2Proof.Machine.execVfnma d a b mk fs s
  | .vmin d a b mk fs => Sys2Proof.Machine.execVmin d a b mk fs s
  | .vmax d a b mk fs => Sys2Proof.Machine.execVmax d a b mk fs s
  | .vunNeg d a mk fs => Sys2Proof.Machine.execVunNeg d a mk fs s
  | .vunAbs d a mk fs => Sys2Proof.Machine.execVunAbs d a mk fs s
  | .vunRcp d a mk fs => Sys2Proof.Machine.execVunRcp d a mk fs s
  | .vunRsq d a mk fs => Sys2Proof.Machine.execVunRsq d a mk fs s
  | .vunSqrt d a mk fs => Sys2Proof.Machine.execVunSqrt d a mk fs s
  | .vunExp2 d a mk fs => Sys2Proof.Machine.execVunExp2 d a mk fs s
  | .vunLog2 d a mk fs => Sys2Proof.Machine.execVunLog2 d a mk fs s
  | .vunTanh d a mk fs => Sys2Proof.Machine.execVunTanh d a mk fs s
  | .vunSigm d a mk fs => Sys2Proof.Machine.execVunSigm d a mk fs s
  | .vunNot d a mk fs => Sys2Proof.Machine.execVunNot d a mk fs s
  | .vcmpEq d a b fs z => Sys2Proof.Machine.execVcmpEq d a b fs z s
  | .vcmpNe d a b fs z => Sys2Proof.Machine.execVcmpNe d a b fs z s
  | .vcmpLt d a b fs z => Sys2Proof.Machine.execVcmpLt d a b fs z s
  | .vcmpLe d a b fs z => Sys2Proof.Machine.execVcmpLe d a b fs z s
  | .vcmpGt d a b fs z => Sys2Proof.Machine.execVcmpGt d a b fs z s
  | .vcmpGe d a b fs z => Sys2Proof.Machine.execVcmpGe d a b fs z s
  | .vcmpUo d a b fs z => Sys2Proof.Machine.execVcmpUo d a b fs z s
  | .vsel d a b mk fs => Sys2Proof.Machine.execVsel d a b mk fs s
  | .vand d a b mk fs => Sys2Proof.Machine.execVand d a b mk fs s
  | .vor d a b mk fs => Sys2Proof.Machine.execVor d a b mk fs s
  | .vxor d a b mk fs => Sys2Proof.Machine.execVxor d a b mk fs s
  | .vshl d a b mk fs => Sys2Proof.Machine.execVshl d a b mk fs s
  | .vshr d a b mk fs => Sys2Proof.Machine.execVshr d a b mk fs s
  | .vsha d a b mk fs => Sys2Proof.Machine.execVsha d a b mk fs s
  | .vcvt d a c mk fs => Sys2Proof.Machine.execVcvt d a c mk fs s
  | .vcvts d a b c => Sys2Proof.Machine.execVcvts d a b c s
  | .vcadd d a b mk => Sys2Proof.Machine.execVcadd d a b mk s
  | .vcsplit d a mk => Sys2Proof.Machine.execVcsplit d a mk s
  | .vqdx d a b fs => Sys2Proof.Machine.execVqdx d a b fs s
  | .vdqdx d a b fs => Sys2Proof.Machine.execVdqdx d a b fs s
  | .vredSum d a mk fs => Sys2Proof.Machine.execVredSum d a mk fs s
  | .vredMax d a mk fs => Sys2Proof.Machine.execVredMax d a mk fs s
  | .vredMin d a mk fs => Sys2Proof.Machine.execVredMin d a mk fs s
  | .vperm d a b mk fs => Sys2Proof.Machine.execVperm d a b mk fs s
  | .vrote d a g mk fs => Sys2Proof.Machine.execVrote d a g mk fs s
  | .vbcast d g mk fs => Sys2Proof.Machine.execVbcast d g mk fs s
  | .viota d mk fs => Sys2Proof.Machine.execViota d mk fs s
  | .vmom1 d a g mk fs => Sys2Proof.Machine.execVmom1 d a g mk fs s
  | .vmom2 d a g mk fs => Sys2Proof.Machine.execVmom2 d a g mk fs s
  | .vadstep d a g mk fs => Sys2Proof.Machine.execVadstep d a g mk fs s
  | .vrng d a mk => Sys2Proof.Machine.execVrng d a mk s
  | .vscalex d a b mk fs => Sys2Proof.Machine.execVscalex d a b mk fs s
  | .mlogAnd d a b => Sys2Proof.Machine.execMlogAnd d a b s
  | .mlogOr d a b => Sys2Proof.Machine.execMlogOr d a b s
  | .mlogXor d a b => Sys2Proof.Machine.execMlogXor d a b s
  | .mlogNot d a => Sys2Proof.Machine.execMlogNot d a s
  | .mlogPopc d b => Sys2Proof.Machine.execMlogPopc d b s
  | .dqpush a b mk n => Sys2Proof.Machine.execDqpush a b mk n s
  | .dqdrain d a b => Sys2Proof.Machine.execDqdrain d a b s
  | .vaccrd d t g mk fs => Sys2Proof.Machine.execVaccrd d t g mk fs s
  | .vaccwr t a g mk => Sys2Proof.Machine.execVaccwr t a g mk s
  | .mxMma c h chk k => Sys2Proof.Machine.execMxMma c h chk k s
  | .mxMmat c h chk k => Sys2Proof.Machine.execMxMmat c h chk k s
  | .mxMmac c h chk k => Sys2Proof.Machine.execMxMmac c h chk k s
  | .mxZero t => Sys2Proof.Machine.execMxZero t s
  | .mxDrain h => Sys2Proof.Machine.execMxDrain h s
  | .mxLacc c => Sys2Proof.Machine.execMxLacc c s
  | .cResultLands => Sys2Proof.Machine.execCResultLands s
  | .xResultLands => Sys2Proof.Machine.execXResultLands s
  | .loadLands => Sys2Proof.Machine.execLoadLands s
  | .plbRefill => Sys2Proof.Machine.execPlbRefill s
  | .ldbFillDone => Sys2Proof.Machine.execLdbFillDone s
  | .sttComplete => Sys2Proof.Machine.execSttComplete s
  | .blockCacheEviction => Sys2Proof.Machine.execBlockCacheEviction s
  | .rdcEviction => Sys2Proof.Machine.execRdcEviction s
  | .homeEviction => Sys2Proof.Machine.execHomeEviction s
  | .ldacqComplete => Sys2Proof.Machine.execLdacqComplete s
  | .strelComplete => Sys2Proof.Machine.execStrelComplete s
  | .verchkComplete => Sys2Proof.Machine.execVerchkComplete s
  | .cmoComplete => Sys2Proof.Machine.execCmoComplete s
  | .amoPerformed => Sys2Proof.Machine.execAmoPerformed s
  | .amorArrival => Sys2Proof.Machine.execAmorArrival s
  | .amorAck => Sys2Proof.Machine.execAmorAck s
  | .ackTimeout => Sys2Proof.Machine.execAckTimeout s
  | .commandStart => Sys2Proof.Machine.execCommandStart s
  | .consumedTokenFailed => Sys2Proof.Machine.execConsumedTokenFailed s
  | .copyComplete => Sys2Proof.Machine.execCopyComplete s
  | .linkWriteArrival => Sys2Proof.Machine.execLinkWriteArrival s
  | .linkAck => Sys2Proof.Machine.execLinkAck s
  | .nimbusComplete => Sys2Proof.Machine.execNimbusComplete s
  | .nbqrBasisWrite => Sys2Proof.Machine.execNbqrBasisWrite s
  | .slotTransferComplete => Sys2Proof.Machine.execSlotTransferComplete s
  | .cqPostAppended => Sys2Proof.Machine.execCqPostAppended s
  | .cntWaitReached => Sys2Proof.Machine.execCntWaitReached s
  | .klaunchComplete => Sys2Proof.Machine.execKlaunchComplete s
  | .kendComplete => Sys2Proof.Machine.execKendComplete s
  | .probeComplete => Sys2Proof.Machine.execProbeComplete s
  | .stepSwitch => Sys2Proof.Machine.execStepSwitch s
  | .realignRelease => Sys2Proof.Machine.execRealignRelease s
  | .domsyncComplete => Sys2Proof.Machine.execDomsyncComplete s
  | .domsyncArrival => Sys2Proof.Machine.execDomsyncArrival s
  | .allocatorServe => Sys2Proof.Machine.execAllocatorServe s
  | .cellsLive => Sys2Proof.Machine.execCellsLive s
  | .shapeReport => Sys2Proof.Machine.execShapeReport s
  | .drainPoint => Sys2Proof.Machine.execDrainPoint s
  | .drainReport => Sys2Proof.Machine.execDrainReport s
  | .commandArrival => Sys2Proof.Machine.execCommandArrival s
  | .matrixCommandStart => Sys2Proof.Machine.execMatrixCommandStart s
  | .laccStart => Sys2Proof.Machine.execLaccStart s
  | .outputRowLands => Sys2Proof.Machine.execOutputRowLands s
  | .matrixCommandFinish => Sys2Proof.Machine.execMatrixCommandFinish s
  | .faultReportArrival => Sys2Proof.Machine.execFaultReportArrival s
  | .rettResume => Sys2Proof.Machine.execRettResume s
  | .replayRestart => Sys2Proof.Machine.execReplayRestart s
  | .preqReq => Sys2Proof.Machine.execPreqReq s
  | .preqRes => Sys2Proof.Machine.execPreqRes s
  | .preqEnd => Sys2Proof.Machine.execPreqEnd s
  | .preemptionPoint => Sys2Proof.Machine.execPreemptionPoint s
  | .preemptDeadline => Sys2Proof.Machine.execPreemptDeadline s
  | .saveComplete => Sys2Proof.Machine.execSaveComplete s
  | .restoreComplete => Sys2Proof.Machine.execRestoreComplete s
  | .contextEnd => Sys2Proof.Machine.execContextEnd s
  | .mailboxPost => Sys2Proof.Machine.execMailboxPost s
  | .mailboxCancel => Sys2Proof.Machine.execMailboxCancel s
  | .mailboxResume => Sys2Proof.Machine.execMailboxResume s
  | .launchSelect => Sys2Proof.Machine.execLaunchSelect s
  | .launchStart => Sys2Proof.Machine.execLaunchStart s
  | .freeCellReport => Sys2Proof.Machine.execFreeCellReport s
  | .entryFire => Sys2Proof.Machine.execEntryFire s
  | .entryStart => Sys2Proof.Machine.execEntryStart s
  | .chunkArrival => Sys2Proof.Machine.execChunkArrival s
  | .signalArrival => Sys2Proof.Machine.execSignalArrival s
  | .entryComplete => Sys2Proof.Machine.execEntryComplete s
  | .flitReceive => Sys2Proof.Machine.execFlitReceive s
  | .portTrained => Sys2Proof.Machine.execPortTrained s
  | .chargeBalanceWindow => Sys2Proof.Machine.execChargeBalanceWindow s
  | .windowEnd => Sys2Proof.Machine.execWindowEnd s
  | .packagePhaseBoundary => Sys2Proof.Machine.execPackagePhaseBoundary s
  | .clockStep => Sys2Proof.Machine.execClockStep s
  | .telemetrySample => Sys2Proof.Machine.execTelemetrySample s
  | .ptpSync => Sys2Proof.Machine.execPtpSync s
  | .ptpSyncTimeout => Sys2Proof.Machine.execPtpSyncTimeout s
  | .correctableError => Sys2Proof.Machine.execCorrectableError s
  | .uncorrectableError => Sys2Proof.Machine.execUncorrectableError s
  | .deviceReset => Sys2Proof.Machine.execDeviceReset s
  | .dieResetGo => Sys2Proof.Machine.execDieResetGo s
  | .dieResetFenced => Sys2Proof.Machine.execDieResetFenced s
  | .dieResetDeadline => Sys2Proof.Machine.execDieResetDeadline s
  | .dieResetCleared => Sys2Proof.Machine.execDieResetCleared s
  | .functionReady => Sys2Proof.Machine.execFunctionReady s
  | .tinv => Sys2Proof.Machine.execTinv s
  | .tinvComplete => Sys2Proof.Machine.execTinvComplete s
  | .dbfc => Sys2Proof.Machine.execDbfc s
  | .qpctlOpen => Sys2Proof.Machine.execQpctlOpen s
  | .resync => Sys2Proof.Machine.execResync s
  | .loadimg => Sys2Proof.Machine.execLoadimg s
  | .unloadimg => Sys2Proof.Machine.execUnloadimg s
  | .ackend => Sys2Proof.Machine.execAckend s
  | .clrarr => Sys2Proof.Machine.execClrarr s
  | .fwstage => Sys2Proof.Machine.execFwstage s
  | .attest => Sys2Proof.Machine.execAttest s
  | .mgmtCommandComplete => Sys2Proof.Machine.execMgmtCommandComplete s
  | .bar2Read => Sys2Proof.Machine.execBar2Read s
  | .bar2Write => Sys2Proof.Machine.execBar2Write s
  | .registerWrite => Sys2Proof.Machine.execRegisterWrite s
  | .illegalEncoding => Sys2Proof.Machine.execIllegalEncoding s
  | .replayPoint => Sys2Proof.Machine.execReplayPoint s
  | .uncachedStorePerformed => Sys2Proof.Machine.execUncachedStorePerformed s
  | .hostPortLinkDown => Sys2Proof.Machine.execHostPortLinkDown s

end Sys2Proof.Machine
end

