-- ==== Sys2Proof/Machine/Issue.lean ====
section
/-!
DEFINITION. Which words issue in a cycle (R12, R78, R79, R87, R104, R232, R234), which waiting steps' conditions are met, and
the end of a cycle (R16, R228, R318).
-/

namespace Sys2Proof.Machine

/-! ## Readiness (R78, R79, R232) -/

/-- After a REALIGN, YIELD or KEND bundle no cluster of the core issues (R113, R116, R122). -/
def Core.gated (k : Core) : Bool :=
  match k.holdOf .c with
  | .realign _ _ | .yield _ | .kend _ => true
  | _ => false

/-- A cluster considers its head in cycle `t`. -/
def Core.considers (k : Core) (cl : Cl) (t : Nat) : Bool :=
  k.live && !k.gated && k.holdOf cl == .run && k.clus[clIx cl].nextAt ≤ t

/-- WAITK finds its token PENDING (R107). -/
def Vis.tokenWait (v : Vis) (i : Instr) : Bool :=
  match i with
  | .waitk k => v.tok[k].st == .pending
  | _ => false

/-- The permissions of every page the word touches are known, or it stops without them (R158, R159, R371). -/
def State.pagesKnown (s : State) (i : Instr) : Bool :=
  let xs := s.spans i
  !xs.all (·.fits) || (spanPages xs).any (fun p => s.dieBusy (homeDie (p * 2 ^ 21)).val)
    || (s.me.unknown s.turn.cl (spanPages xs)).isEmpty

/-- The head of C, L or W has its waits and operands (R78, R93, R107). -/
def Core.headWaits (k : Core) (cl : Cl) (h : Header) (i : Instr) : Bool :=
  linkWaits h.link cl k.old && k.operandsReady cl i && !k.old.tokenWait i

/-- The head of C, L or W is ready: its waits, operands, permissions, and the stalls its instruction names (R232). -/
def State.headReady (s : State) (c : Fin 64) (cl : Cl) (h : Header) (i : Instr) : Bool :=
  (s.core c).headWaits cl h i &&
    (let t := s.turnTo c cl
     t.pagesKnown i && ((t.refusal (t.spans i)).isSome || !t.headStall i))

/-- The idle count of the X head (R79); an illegal encoding has one too (R87). -/
def Core.xIdleCount (k : Core) : Nat := (header .x (k.word k.clus[clIx .x].pc).toNat).ic.val

/-- The unit of the X head: of its instruction, or of its major when it is an illegal encoding (R79, R87). -/
def Core.xUnit (k : Core) : Option XUnit :=
  match k.head .x with
  | some (_, i) => unitOf i
  | none => majorUnit ((k.word k.clus[clIx .x].pc).toNat / 2 ^ 18 % 64)

/-- The count at which the unit of the X head becomes free (R79, R104). -/
def Core.xUnitFree (k : Core) : Nat :=
  match k.xUnit with
  | some u => k.units[u.ix]
  | none => 0

/-- The X head has reached its issue cycle (R79). -/
def Core.xDue (k : Core) (t : Nat) : Bool :=
  let u := k.clus[clIx .x]
  k.live && !k.gated && u.hold == .run && u.nextAt + k.xIdleCount ≤ t && k.xUnitFree ≤ t

/-- The word at `pc` of a level's body lies in a stage section that is not active (R104). -/
def Loop.nullifies (l : Loop) (pc : BitVec 16) : Bool :=
  l.active && l.start ≤ pc && pc.toNat ≤ l.stop &&
    (let len := l.stop - l.start.toNat + 1
     !l.preds.getLsbD ((pc.toNat - l.start.toNat) / (len / l.stages)))

/-- The X head is nullified (R104). -/
def Core.nullified (k : Core) : Bool :=
  let u := k.clus[clIx .x]
  u.loops.toList.any fun l => l.nullifies u.pc

/-- X's token checks: WAITK in X (R107); an MX word with CHK (R191). -/
def Vis.xTokenWait (v : Vis) (i : Instr) : Bool :=
  match i with
  | .waitkX k => v.tok[k].st == .pending
  | .mxMma _ _ chk k | .mxMmat _ _ chk k | .mxMmac _ _ chk k => chk && v.tok[k].st == .pending
  | _ => false

/-- The X head passes its ring waits, register and token checks; a nullified word makes none (R104, R232). -/
def Core.xPasses (k : Core) (h : Header) (i : Instr) : Bool :=
  k.nullified || (linkWaits h.link .x k.old && !k.xConflict i && !k.old.xTokenWait i)

/-- The S = 1 head of a cluster is ready (R232). -/
def State.syncReady (s : State) (c : Fin 64) (cl : Cl) : Bool :=
  let k := s.core c
  match k.head cl with
  | none => false
  | some (h, i) =>
    h.sync && match cl with
      | .x => k.xDue s.zc && k.xPasses h i
      | cl => k.considers cl s.zc && s.headReady c cl h i

/-- The bundle of a core forms in this cycle (R232). -/
def State.bundle (s : State) (c : Fin 64) : Bool := [Cl.c, .l, .x, .w].all (s.syncReady c)

/-- The head of C, L or W issues in this cycle: an illegal encoding at once (R87), an S = 1 word in its bundle, any
other when it is ready. -/
def State.issues (s : State) (c : Fin 64) (cl : Cl) (b : Bool) : Bool :=
  (s.core c).considers cl s.zc && match (s.core c).head cl with
    | none => true
    | some (h, i) => if h.sync then b else s.headReady c cl h i

/-- The words of a core that issue in this cycle. -/
def State.coreIssues (s : State) (c : Fin 64) : List (Fin 64 × Cl × Bool) :=
  if (s.core c).live then
    let b := s.bundle c
    [Cl.c, .l, .x, .w].filterMap fun cl =>
      if (match cl with
        | .x => (s.core c).xDue s.zc
        | cl => s.issues c cl b) then some (c, cl, b) else none
  else []

/-! ## Permission refills (R159, R307) -/

/-- A refill of a page is under way for a cluster. -/
def State.refilling (s : State) (c : Fin 64) (cl : Cl) (p : Nat) : Bool :=
  s.agenda.any fun e => e.op == .plbRefill && e.ev.core == c && e.ev.args.getD 0 9 == cl.code && e.ev.args.getD 1 0 == p

/-- The address at which a word's ranges first touch a page (R313). -/
def firstTouch (xs : List Span) (page : Nat) : Nat :=
  ((xs.find? fun x => (pagesOf x.a x.n).contains page).map fun x => max x.a (page * 2 ^ 21)).getD (page * 2 ^ 21)

/-- The refills a cluster's head asks for; a head that has them all enters its pages (R307). -/
def State.refills (s : State) (c : Fin 64) (cl : Cl) : State :=
  let k := s.core c
  match k.head cl with
  | none => s
  | some (h, i) =>
    let t := s.turnTo c cl
    let pages := spanPages (t.spans i)
    if !(k.considers cl s.zc && k.headWaits cl h i) then s
    else if t.pagesKnown i then s.enterPages c cl pages
    else
      ((t.awaits i).filter fun p => !s.refilling c cl p).foldl
        (fun (s : State) (p : Nat) =>
          s.later 1 (s.choices.headD 0) .plbRefill ⟨c, 0, cl.code :: p :: firstTouch (t.spans i) p :: pages, []⟩) s

/-! ## Waiting steps whose condition is met -/

/-- C of a core holds in a barrier that is complete, or that this device can form (R118, R297, R338). -/
def State.domsyncDue (s : State) (c : Fin 64) : Bool :=
  match (s.core c).holdOf .c with
  | .domsync l n =>
    s.barrierDone c l n || (l == 3 && s.formsL3 c n
      && match s.replicas ((s.core c).vis.csr.dom 3) with
        | some list => (s.readRanks 0 list).2.1.isSome
        | none => false)
  | _ => false

/-- The RETT of a core can resume: what it waits for has come, and a head of L or W that a ring wait holds has been tested in
this cycle (R322, R385). -/
def Core.rettDue (k : Core) (zc : Nat) : Bool :=
  k.rettReady && (k.ownShapes.all fun h => k.shape[h].queue.isEmpty)
    && [Cl.l, .w].all fun cl => k.holdOf cl == .stopped || k.clus[clIx cl].nextAt ≤ zc

/-- The next waiting step of a core whose condition is met. -/
def State.coreDue (s : State) (c : Fin 64) : Option Instr :=
  let k := s.core c
  if (s.cntReady c).isSome then some .cntWaitReached
  else if k.basisReady.isSome then some .nbqrBasisWrite
  else if (k.failing s.zc).isSome then some .consumedTokenFailed
  else if (k.starting s.zc).isSome then some .commandStart
  else if !k.live then none
  else if k.stepReady then some .stepSwitch
  else if s.domsyncDue c then some .domsyncComplete
  else if s.realignReady c then some .realignRelease
  else if k.rettDue s.zc then some .rettResume
  else if k.preemptAt.isSome then some .preemptionPoint
  else if k.saveReady then some .saveComplete
  else if k.restoreReady.isSome then some .restoreComplete
  else if k.replayReady then some .replayPoint
  else if s.kendReady c then some .kendComplete
  else none

/-- A command or an entry whose acknowledgements have not come within 100 ms (R387). -/
def State.ackDue (s : State) : Option Ev :=
  ((coreList.findSome? fun c => (s.lateCmd c).map fun m => Ev.mk c m.id [0] []).orElse fun _ =>
    s.lateEnt.map fun x => Ev.nums [1, x.1, x.2.id])

/-- What the Stratus clock brings next: the end of a window, a telemetry sample, the loss of lock, a series pair's window (R262,
R352, R354, R361, R364). -/
def State.clockDue (s : State) : Option (Instr × Ev) :=
  if s.gov.windowAt ≤ s.time then some (.windowEnd, .nums [])
  else if s.sampleDue then some (.telemetrySample, .nums [])
  else if s.regs.lock && s.syncLost then some (.ptpSyncTimeout, .nums [])
  else s.unbalanced.map fun x => (.chargeBalanceWindow, .nums [x.1, x.2])

/-- The next waiting step of the device whose condition is met: a core's, an acknowledgement's timeout (R387), the clock's, a
launch (R292), an entry (R329), or a package phase boundary (R357). -/
def State.due (s : State) : Option (Instr × Ev) :=
  match (coreList.findSome? fun c => (s.coreDue c).map fun i => (i, Ev.of c 0)).orElse fun _ =>
    (s.ackDue.map fun e => (.ackTimeout, e)).orElse fun _ => s.clockDue with
  | some x => some x
  | none =>
    if s.selectable.isSome then some (.launchSelect, .nums [])
    else if s.firing.isSome then some (.entryFire, .nums [])
    else if s.entryNext.isSome then some (.entryStart, .nums [])
    else if s.boundary then some (.packagePhaseBoundary, .nums [])
    else none

/-! ## The end of a cycle (R16, R228, R318) -/

/-- A core at the end of a cycle: consumers have read their tokens, marked pairs pass, a trap is taken (R174, R318,
R386). -/
def State.closeCore (s : State) (c : Fin 64) : State :=
  (s.modCore c fun k => (k.seeTokens s.zc).passMarks (s.zc + 1)).takeTrap c

/-- Every die reports its free cells every 64 cycles (R291). -/
def State.periodic (s : State) : State :=
  if s.zc % 64 = 0 then (List.finRange 4).foldl (fun (s : State) (i : Fin 4) => s.reportCells i) s else s

/-- Aurora reports its free Nimbus entries every 64 cycles and when they change (R291). -/
def State.reportNimbus (s : State) : State :=
  let n := s.nimbusDepth
  if n = s.nbDepth ∧ s.zc % 64 ≠ 0 then s
  else ({ s with nbDepth := n }).at_ (s.zc + s.lat 6 0) .freeCellReport (.nums [4, n])

/-- The Stratus time of a cycle at the clock code in effect: a cycle of (400 + 25·n) MHz (R351). -/
def cycleTime (code : Nat) : Nat := 40 * unitsPerNs / (16 + code)

/-- What a core shows to the words of the next cycle, whose first identifier is `next` (R16, R232). -/
def Core.nextCycle (next : Nat) (k : Core) : Core :=
  { k with old := k.vis, was := ⟨k.loads, k.cpend, k.syncs, next⟩ }

/-- The cycle ends: traps are taken, writes become visible, the count and the clock advance, heads that await permissions ask
for them, and the words that issue in the next cycle are found. -/
def State.endCycle (s : State) : State :=
  let s := (coreList.foldl (fun (s : State) (c : Fin 64) => s.closeCore c) s).reportNimbus.watch
  let s : State := { s with zc := s.zc + 1, time := s.time + cycleTime s.regs.clk, cores := vmap (Core.nextCycle s.nextId) s.cores }
  let s := s.periodic
  let s := coreList.foldl
    (fun (s : State) (c : Fin 64) =>
      if (s.core c).live then [Cl.c, .l, .w].foldl (fun (s : State) (cl : Cl) => s.refills c cl) s else s) s
  { s.unbound with todo := (coreList.map s.coreIssues).flatten }

end Sys2Proof.Machine
end

