-- ==== Sys2Proof/Machine/Slot.lean ====
section
/-!
DEFINITION. What one step carries out: the issue of one word, one step of the device or of the outside world, or the end of
a cycle; and the state whose next step issues a given word.
-/

namespace Sys2Proof.Machine

/-- A nullified word issues with no effect but the advance of its stream (R104). -/
def State.nullify (s : State) : State := State.issued { s with turn := { s.turn with hdr := Header.plain } } id

/-- The word whose turn it is issues: its encoding (R87), a nullified section (R104), the ring tests (R78), X's own tests
(R234) and the bundle (R232), then its meaning. -/
def State.issueWord (s : State) (formed : Bool) : Host.Outcome State Fault Refusal :=
  match s.me.head s.turn.cl with
  | none => exec .illegalEncoding s
  | some (h, i) =>
    let x : Bool := s.turn.cl == .x
    if x && s.me.nullified then
      .next (if h.sync && !formed then s.raise causeMiss 0x03 else s.nullify)
    else if !linkWaits h.link s.turn.cl s.me.old then .next (if x then s.raise causeMiss 0x01 else s)
    else if linkOverflows h.link s.turn.cl s.me.old then .next (s.raise causeRing 0)
    else if x && s.me.xConflict i then .next (s.raise causeMiss 0x02)
    else if x && h.sync && !formed then .next (s.raise causeMiss 0x03)
    else exec i s

/-- A waiting step whose condition is met, or the end of the cycle. -/
def State.waiting (s : State) : Host.Outcome State Fault Refusal :=
  match s.due with
  | some (i, e) => exec i { s with ev := e }
  | none => .next s.endCycle

/-- What the outside world does now, else what waits. -/
def State.otherwise (s : State) : Host.Outcome State Fault Refusal :=
  match s.inbox with
  | e :: rest => if e.at_ ≤ s.zc then exec e.op { s with inbox := rest, ev := e.ev } else s.waiting
  | [] => s.waiting

/-- A word whose turn it is, else a step of the device that is due, else what follows. -/
def State.advance (s : State) : Host.Outcome State Fault Refusal :=
  match s.todo with
  | (c, cl, b) :: rest => (State.turnTo { s with todo := rest } c cl).issueWord b
  | [] =>
    match s.agenda with
    | e :: rest =>
      if e.at_ ≤ s.zc then exec e.op { s with agenda := rest, ev := e.ev } else s.otherwise
    | [] => s.otherwise

/-! ## Placing a word -/

/-- A core whose head in a cluster is a word: it runs, and stands at the word with nothing to wait for. -/
def Core.place (k : Core) (cl : Cl) (w : Word) : Core :=
  let u := k.clus[clIx cl]
  { k with
    st := .running
    imem := sset 0 u.pc.toNat w k.imem
    clus := k.clus.set (clIx cl) { u with hold := .run, nextAt := 0 } }

/-- Core 0 issues a word next: it stands at the program counter of its cluster, core 0 runs, and the word's issue is the
next thing this cycle does. -/
def State.place (s : State) (w : Word) : State :=
  let cl := tableCluster w
  { (s.modCore 0 fun k => k.place cl w) with todo := [(0, cl, (header cl w.toNat).sync)] }

end Sys2Proof.Machine
end

