-- ==== Sys2Proof/Machine/Step.lean ====
section
/-!
DEFINITION. One step of the package, and the state whose next step issues a given word.
-/

namespace Sys2Proof.Machine

/-- One step: a word issues, a step of the device or of the outside world happens, or the cycle ends. -/
def step (s : State) : Host.Outcome State Fault Refusal := s.advance

/-- The word with bits `w` is what core 0 issues in the next step (log 40); every instruction is one word of 32 bits. -/
def State.withFetchWord (s : State) (_nbits w : Nat) : State := s.place (BitVec.ofNat 32 w)

end Sys2Proof.Machine
end

