-- ==== Sys2Proof/Safety.lean ====
section
/-!
DEFINITION. The terms in which claims are stated: a step that goes on, where a cluster stands after a word, what a word of a
core may leave changed, and the invariants of the machine.
-/

namespace Sys2Proof

/-- The opcode map of a cluster holds an instruction (R12, R82-R86); an event stands in none. -/
def Cl.reads (cl : Cl) : Instr → Bool
  | .nop | .loop _ _ _ _ | .lbreak _ _ | .lbreakA _ | .waitk _ => cl != .x
  | .add _ _ _ | .sub _ _ _ | .and _ _ _ | .or _ _ _ | .xor _ _ _ | .andn _ _ _ | .shl _ _ _ | .shr _ _ _
  | .sha _ _ _ | .rol _ _ _ | .min _ _ _ | .max _ _ _ | .minn _ _ _ | .maxn _ _ _ | .mul _ _ _ | .mulh _ _ _
  | .mulhn _ _ _ | .div _ _ _ | .divn _ _ _ | .rem _ _ _ | .remn _ _ _ | .clz _ _ | .ctz _ _ | .popc _ _
  | .sext _ _ _ | .zext _ _ _ | .addsh _ _ _ | .sel _ _ _ | .addi _ _ _ | .andi _ _ _ | .ori _ _ _ | .xori _ _ _
  | .shli _ _ _ | .shri _ _ _ | .shai _ _ _ | .li _ _ | .lih _ _ | .cmpEq _ _ _ | .cmpNe _ _ _ | .cmpLt _ _ _
  | .cmpLe _ _ _ | .cmpLtn _ _ _ | .cmpLen _ _ _ | .cmpiEq _ _ _ | .cmpiNe _ _ _ | .cmpiLt _ _ _ | .cmpiLe _ _ _
  | .cmpiLtn _ _ _ | .cmpiLen _ _ _ | .pbr _ _ | .pbrg _ _ | .brT _ _ | .brZ _ _ | .brA _ | .call _ | .ret
  | .trap _ | .rett | .csrr _ _ | .csrw _ _ | .csrs _ _ | .csrc _ _ | .yield _ | .probeR _ _ _ | .probeW _ _ _
  | .probeRw _ _ _ | .unpin _ _ | .realign _ | .phase _ | .domsync _ | .stepadv | .klaunch _ _ | .kend | .tkZero _
  | .tkJoin _ _ _ | .tkTest _ _ | .shapeAlloc _ _ _ | .shapeFree _ _ | .shapeCut _ _ _ _ | .shapeChain _ _ _
  | .shapeQry _ _ | .cbset _ _ _ | .cbclr _ | .hbload _ _ _ | .hbstore _ _ _ | .hseed _ _ | .nbqr _ _ _
  | .nbrot _ _ _ | .nbcarry _ _ _ _ | .nbswitch _ _ _ => cl == .c
  | .ld _ _ _ | .lds _ _ _ _ | .ldgStride _ _ _ | .ldgGather _ _ _ _ | .lda _ _ _ _ | .chka _ _ _ _ | .ldb _ _ _
  | .lsg _ _ _ _ | .ldacq _ _ _ _ _ | .ltv _ _ _ _ | .markL | .laSet _ _ | .laAdd _ _ | .laAddg _ _ | .verchk _ _
  | .cpCopy _ _ | .cpSumFold _ _ _ | .cpSumCrc _ _ _ | .cpFill _ _ _ | .cpLink _ _ | .cpLinkFold _ _ _
  | .cpLinkCrc _ _ _ | .cpTileTo _ _ _ | .cpTileFrom _ _ _ => cl == .l
  | .st _ _ _ | .sts _ _ _ _ | .stxStride _ _ _ | .stxScatter _ _ _ _ | .stt _ _ _ _ | .ssg _ _ _ _
  | .strel _ _ _ _ _ | .markW | .fence _ | .cmoClean _ _ _ _ | .cmoInv _ _ _ _ | .cmoClinv _ _ _ _
  | .amoAdd _ _ _ _ | .amoMin _ _ _ _ | .amoMax _ _ _ _ | .amoOr _ _ _ _ | .amoAnd _ _ _ _ | .amoXchg _ _ _ _
  | .amoCas _ _ _ _ | .amorAdd _ _ _ | .amorMin _ _ _ | .amorMax _ _ _ | .amorOr _ _ _ | .amorAnd _ _ _
  | .amorXchg _ _ _ | .amorCas _ _ _ | .waSet _ _ | .waAdd _ _ | .waAddg _ _ | .cqPost _ _ | .cqArm _ _
  | .cntAdd _ _ | .cntWait _ _ | .rlInv _ _ => cl == .w
  | .nopX | .loopX _ _ _ _ _ | .lbreakX _ _ | .lbreakAX _ | .waitkX _ | .vadd _ _ _ _ _ | .vsub _ _ _ _ _
  | .vmul _ _ _ _ _ | .vfma _ _ _ _ _ | .vfms _ _ _ _ _ | .vfnma _ _ _ _ _ | .vmin _ _ _ _ _ | .vmax _ _ _ _ _
  | .vunNeg _ _ _ _ | .vunAbs _ _ _ _ | .vunRcp _ _ _ _ | .vunRsq _ _ _ _ | .vunSqrt _ _ _ _ | .vunExp2 _ _ _ _
  | .vunLog2 _ _ _ _ | .vunTanh _ _ _ _ | .vunSigm _ _ _ _ | .vunNot _ _ _ _ | .vcmpEq _ _ _ _ _
  | .vcmpNe _ _ _ _ _ | .vcmpLt _ _ _ _ _ | .vcmpLe _ _ _ _ _ | .vcmpGt _ _ _ _ _ | .vcmpGe _ _ _ _ _
  | .vcmpUo _ _ _ _ _ | .vsel _ _ _ _ _ | .vand _ _ _ _ _ | .vor _ _ _ _ _ | .vxor _ _ _ _ _ | .vshl _ _ _ _ _
  | .vshr _ _ _ _ _ | .vsha _ _ _ _ _ | .vcvt _ _ _ _ _ | .vcvts _ _ _ _ | .vcadd _ _ _ _ | .vcsplit _ _ _
  | .vqdx _ _ _ _ | .vdqdx _ _ _ _ | .vredSum _ _ _ _ | .vredMax _ _ _ _ | .vredMin _ _ _ _ | .vperm _ _ _ _ _
  | .vrote _ _ _ _ _ | .vbcast _ _ _ _ | .viota _ _ _ | .vmom1 _ _ _ _ _ | .vmom2 _ _ _ _ _ | .vadstep _ _ _ _ _
  | .vrng _ _ _ | .vscalex _ _ _ _ _ | .mlogAnd _ _ _ | .mlogOr _ _ _ | .mlogXor _ _ _ | .mlogNot _ _
  | .mlogPopc _ _ | .dqpush _ _ _ _ | .dqdrain _ _ _ | .vaccrd _ _ _ _ _ | .vaccwr _ _ _ _ | .mxMma _ _ _ _
  | .mxMmat _ _ _ _ | .mxMmac _ _ _ _ | .mxZero _ | .mxDrain _ | .mxLacc _ => cl == .x
  | .cResultLands | .xResultLands | .loadLands | .plbRefill | .ldbFillDone | .sttComplete | .blockCacheEviction
  | .rdcEviction | .homeEviction | .ldacqComplete | .strelComplete | .verchkComplete | .cmoComplete
  | .amoPerformed | .amorArrival | .amorAck | .ackTimeout | .commandStart | .consumedTokenFailed | .copyComplete
  | .linkWriteArrival | .linkAck | .nimbusComplete | .nbqrBasisWrite | .slotTransferComplete | .cqPostAppended
  | .cntWaitReached | .klaunchComplete | .kendComplete | .probeComplete | .stepSwitch | .realignRelease
  | .domsyncComplete | .domsyncArrival | .allocatorServe | .cellsLive | .shapeReport | .drainPoint | .drainReport
  | .commandArrival | .matrixCommandStart | .laccStart | .outputRowLands | .matrixCommandFinish
  | .faultReportArrival | .rettResume | .replayRestart | .preqReq | .preqRes | .preqEnd | .preemptionPoint
  | .preemptDeadline | .saveComplete | .restoreComplete | .contextEnd | .mailboxPost | .mailboxCancel
  | .mailboxResume | .launchSelect | .launchStart | .freeCellReport | .entryFire | .entryStart | .chunkArrival
  | .signalArrival | .entryComplete | .flitReceive | .portTrained | .chargeBalanceWindow | .windowEnd
  | .packagePhaseBoundary | .clockStep | .telemetrySample | .ptpSync | .ptpSyncTimeout | .correctableError
  | .uncorrectableError | .deviceReset | .dieResetGo | .dieResetFenced | .dieResetDeadline | .dieResetCleared
  | .functionReady | .tinv | .tinvComplete | .dbfc | .qpctlOpen | .resync | .loadimg | .unloadimg | .ackend
  | .clrarr | .fwstage | .attest | .mgmtCommandComplete | .bar2Read | .bar2Write | .registerWrite
  | .illegalEncoding | .replayPoint | .uncachedStorePerformed | .hostPortLinkDown => false

end Sys2Proof

namespace Sys2Proof.Machine

/-- A step of the machine answers a next state. -/
def State.goesOn (s : State) : Prop := ∃ t, step s = .next t

/-- After its word the issuing cluster stands at `u` (R12, R102): there is a word for it to go on with. -/
def State.goesTo (s : State) (u : Cluster) : Prop := s.clu.next s.csr.req = some u

/-- The issuing cluster's program counter ends the body of no active level (R102). -/
def Cluster.inside (u : Cluster) : Prop := ∀ lv : Fin 2, ¬(u.loops[lv].active = true ∧ u.loops[lv].stop = u.pc.toNat)

/-- An access word finds its ranges below 2⁴⁸ and its pages known, permitted and on no die under reset (R158, R159, R371). -/
def State.admits (s : State) (i : Instr) : Prop :=
  ∀ x ∈ s.spans i, x.fits = true ∧ ∀ p ∈ pagesOf x.a x.n, s.dieBusy (homeDie (p * 2 ^ 21)).val = false ∧
    ∃ a, s.me.pageAns s.turn.cl p = some a ∧ a.meets x.need = true

/-- The keys of a sparse table rise: the form in which every table of the state is kept. -/
def Rising {α : Type} (m : Sparse α) : Prop := m.Pairwise fun x y => x.1 < y.1

/-- Element `e` of width `w` of a register (R123). -/
def elemAt (w : Nat) (v : Runs Word) (e : Nat) : Nat :=
  ((rlist v).getD (e / (32 / w)) 0).toNat / 2 ^ (w * (e % (32 / w))) % 2 ^ w

/-- Element `e` of width `w` is active under a mask (R123). -/
def activeAt (w : Nat) (m : Runs Bool) (e : Nat) : Bool := (rlist m).getD (e / (32 / w)) false

/-- A state after an X word that takes a unit and lands writes and flags at its latency. -/
def xIssued (s : State) (u : Cluster) (t : Timing) (ws : List XWrite) (f : Flags) : State :=
  ((((s.modMe fun k => { k with
      units := k.units.set t.unit.ix (s.zc + t.occ)
      xpend := k.xpend ++ [⟨s.nextId, s.zc + t.lat, s.clu.pc, ws, f⟩] }).bump).beats t).at_ (s.zc + t.lat) .xResultLands
    (.of s.turn.core s.nextId)).settle u 0

/-- A register sequence covers all 6144 lanes and holds no empty run. -/
def Full {α : Type} (v : Runs α) : Prop := (rlist v).length = 6144 ∧ ∀ x ∈ v, 0 < x.1

/-- Entries of level `k` of a pairwise tree over `n` leaves. -/
def levelCount (n : Nat) : Nat → Nat
  | 0 => n
  | k + 1 => (levelCount n k + 1) / 2

/-- Entry `e` of level `k` of a pairwise tree over `n` leaves `x`: entries 2e and 2e + 1 below combine, an odd last one passes. -/
def treeAt (node : Nat → Nat → Nat) (n : Nat) (x : Nat → Nat) : Nat → Nat → Nat
  | 0, e => x e
  | k + 1, e =>
    if 2 * e + 1 < levelCount n k then node (treeAt node n x k (2 * e)) (treeAt node n x k (2 * e + 1))
    else treeAt node n x k (2 * e)

/-- An X word that takes a unit and lands `ws` with flags `f`: named registers with a pending write are a schedule miss, a
format it does not accept an illegal-state trap. -/
def xWordDoes (s : State) (u : Cluster) (i : Instr) (t : Timing) (ok : Bool) (lands : List XWrite → Flags → Prop) : Prop :=
  (s.me.xConflict i = true → exec i s = .next (s.raise causeMiss 0x02))
  ∧ (s.me.xConflict i = false → ok = false → exec i s = .next (s.raise causeState 0))
  ∧ (s.me.xConflict i = false → ok = true → s.goesTo u → (∀ r : Fin 16, Full s.me.v[r]) → (∀ r : Fin 8, Full s.me.m[r]) →
      ∃ (ws : List XWrite) (f : Flags), exec i s = .next (xIssued s u t ws f) ∧ lands ws f)

/-- The step of an instruction answers a next state with a property. -/
def State.leads (s : State) (i : Instr) (P : State → Prop) : Prop := ∃ t, exec i s = .next t ∧ P t

/-- The item of the current event was outstanding at the GO of the reset of a Cumulus die that is draining (R370). -/
def State.drains (s : State) : Prop := s.regs.drstState = 1 ∧ 2 ≤ s.regs.drstCur ∧ s.ev.id < s.regs.drstMark

/-- The value of a finite exact number. -/
def finValue (m : Nat) (e : Int) : ℚ := m * (2 : ℚ) ^ e

/-- Every vector and mask register of a core, and every value on its way to one, covers its 6144 lanes (R14). -/
def Core.lanesFull (k : Core) : Prop :=
  (∀ r : Fin 16, Full k.v[r]) ∧ (∀ r : Fin 8, Full k.m[r])
  ∧ (∀ l ∈ k.loads, ∀ r x, l.val = .v r x → Full x)
  ∧ ∀ p ∈ k.xpend, (∀ r x, .v r x ∈ p.writes → Full x) ∧ (∀ r x y, .vm r x y ∈ p.writes → Full x ∧ Full y)
    ∧ ∀ r x, .m r x ∈ p.writes → Full x

/-- Every table of a core rises. -/
def Core.tablesRise (k : Core) : Prop :=
  Rising k.imem ∧ Rising k.acc ∧ Rising k.tile ∧ Rising k.tag ∧ Rising k.basis

/-- Every table of the package that is kept by key rises. -/
def State.tablesRise (s : State) : Prop :=
  Rising s.qps ∧ Rising s.cnts ∧ Rising s.images ∧ (∀ d : Fin 4, Rising s.mtu[d].dirty) ∧ ∀ c : Fin 64, (s.core c).tablesRise

end Sys2Proof.Machine
end

