-- ==== Sys2Proof/Certificates/Slice0/Obligations.lean ====
section
/-!
DEFINITION. The statements for the provers, from the numbered rules of the spec. Each says of which rules in its docstring.
-/

open Sys2Proof Sys2Proof.Machine

/-- In the turn of a word that decodes, whose waits are met and whose gives have room, a step is that word's meaning at the
state in which the core and cluster have the turn; for X, when it is not nullified, finds no pending register and, with S = 1,
is in a bundle (R12, R78, R79, R87, R104, R232). -/
def Obligations.StepRunsTheWord : Prop :=
  ∀ (s : State) (c : Fin 64) (cl : Cl) (formed : Bool) (rest : List (Fin 64 × Cl × Bool)) (h : Header) (i : Instr),
    s.todo = (c, cl, formed) :: rest →
    decode cl ((s.core c).word (s.core c).clus[clIx cl].pc) = some (h, i) →
    linkWaits h.link cl (s.core c).old = true →
    linkOverflows h.link cl (s.core c).old = false →
    (cl = .x → (s.core c).nullified = false ∧ (s.core c).xConflict i = false ∧ (h.sync = true → formed = true)) →
    step s = exec i { s with todo := rest, turn := ⟨c, cl, h⟩ }

/-- What issuing a word changes (R12, R78, R16): the ring counters its link bits name, its cluster, and its queue's count; every
other part of the core, every other core and the rest of the package stay. The link bits of a word (R77, R78): at the end of the
issue cycle each counter becomes old − wait + give, and a word waits on and gives into the four counters of its own cluster
alone. Where a cluster goes after a word (R12, R102): the next word when no level ends there; the first word of a body whose
level has slots left, the inner level first; the next word when the one level that ends has none left; and past word 0xFFFF an
illegal-state trap, of NOP as of any word. NOP has no effect but its issue, in every cluster (R108). -/
def Obligations.IssuingAWord : Prop :=
  (
    ∀ (s : State) (u : Cluster) (n : Nat),
      let t := s.settle u n
      (∀ c : Fin 64, c ≠ s.turn.core → t.core c = s.core c)
      ∧ ({ t with cores := s.cores } : State) = s
      ∧ t.clu = { u with nextAt := s.zc + 1 + n }
      ∧ (∀ cl : Cl, cl ≠ s.turn.cl → t.me.clus[clIx cl] = s.me.clus[clIx cl])
      ∧ (∀ q : Fin 15, t.me.seqs[q] = s.me.seqs[q] + if q.val = (clIx s.turn.cl).val then 1 else 0)
      ∧ ({ t.me.vis with ring := s.me.vis.ring } : Vis) = s.me.vis
      ∧ ({ t.me with vis := s.me.vis, clus := s.me.clus, seqs := s.me.seqs } : Core) = s.me)
  ∧ (
    ∀ (s : State) (u : Cluster) (n : Nat) (i : Fin 8),
      let l := s.turn.hdr.link
      let (wp, wn, gp, gn) := ringIx s.turn.cl
      (s.settle u n).me.vis.ring[i]
        = s.me.vis.ring[i] - (if (l.wp ∧ i = wp) ∨ (l.wn ∧ i = wn) then 1 else 0)
          + (if (l.gp ∧ i = gp) ∨ (l.gn ∧ i = gn) then 1 else 0))
  ∧ (
    ∀ (s : State),
      (s.clu.inside → s.clu.pc ≠ 0xFFFF → s.goesTo { s.clu with pc := s.clu.pc + 1 })
      ∧ (s.clu.inside → s.clu.pc = 0xFFFF →
          exec .nop s = .next (s.raise causeState 0) ∧ exec .nopX s = .next (s.raise causeState 0))
      ∧ (∀ lv : Fin 2, (lv = 0 → ¬((s.clu.loops[(1 : Fin 2)]).active = true ∧ (s.clu.loops[(1 : Fin 2)]).stop = s.clu.pc.toNat)) →
          (s.clu.loops[lv]).active = true → (s.clu.loops[lv]).stop = s.clu.pc.toNat →
          ((s.clu.loops[lv]).pf && s.csr.req) = false →
          (s.clu.loops[lv]).t + 1 < (s.clu.loops[lv]).last + ((s.clu.loops[lv]).stages - 1) →
          s.goesTo { s.clu with
            pc := (s.clu.loops[lv]).start
            loops := s.clu.loops.set lv (Loop.refresh { s.clu.loops[lv] with t := (s.clu.loops[lv]).t + 1 }) })
      ∧ (∀ lv : Fin 2, (∀ v : Fin 2, v ≠ lv → ¬((s.clu.loops[v]).active = true ∧ (s.clu.loops[v]).stop = s.clu.pc.toNat)) →
          (s.clu.loops[lv]).active = true → (s.clu.loops[lv]).stop = s.clu.pc.toNat →
          ((s.clu.loops[lv]).pf && s.csr.req) = false →
          (s.clu.loops[lv]).last + ((s.clu.loops[lv]).stages - 1) ≤ (s.clu.loops[lv]).t + 1 → s.clu.pc ≠ 0xFFFF →
          ∃ u, s.goesTo u ∧ u.pc = s.clu.pc + 1 ∧ (u.loops[lv]).active = false
            ∧ ∀ v : Fin 2, v ≠ lv → u.loops[v] = s.clu.loops[v]))
  ∧ (
    ∀ (s : State) (u : Cluster), s.goesTo u →
      exec .nop s = .next (s.settle u 0) ∧ exec .nopX s = .next (s.settle u 0))

/-- A write of a g register (R14, R16): g0 takes none, another register takes the value at the end of the cycle, and nothing
else of the package changes. The single-cycle integer words of R91 write their result to gd and issue; nothing else changes.
CLZ, CTZ, POPC, SEXT and ZEXT write the number, or the bits, R91 describes, and issue. LA.SET, LA.ADD and LA.ADDG, and their W
forms, write an address register of their own cluster, modulo 2⁶⁴, and issue (R14, R162). -/
def Obligations.RegisterWords : Prop :=
  (
    ∀ (s : State) (d : Fin 64) (x : Dword),
      s.wg 0 x = s
      ∧ (∀ r : Fin 64, (s.wg d x).me.vis.rg r = if r = d ∧ d ≠ 0 then x else s.me.vis.rg r)
      ∧ (∀ r : Fin 64, (s.wg d x).rg r = s.rg r)
      ∧ (∀ c : Fin 64, c ≠ s.turn.core → (s.wg d x).core c = s.core c)
      ∧ ({ s.wg d x with cores := s.cores } : State) = s
      ∧ ({ (s.wg d x).me with vis := s.me.vis } : Core) = s.me
      ∧ ({ (s.wg d x).me.vis with g := s.me.vis.g } : Vis) = s.me.vis)
  ∧ (
    ∀ (s : State) (u : Cluster) (d a b : Fin 64), s.goesTo u →
      let x := s.rg a
      let y := s.rg b
      exec (.add d a b) s = .next ((s.wg d (x + y)).settle u 0)
      ∧ exec (.sub d a b) s = .next ((s.wg d (x - y)).settle u 0)
      ∧ exec (.and d a b) s = .next ((s.wg d (x &&& y)).settle u 0)
      ∧ exec (.or d a b) s = .next ((s.wg d (x ||| y)).settle u 0)
      ∧ exec (.xor d a b) s = .next ((s.wg d (x ^^^ y)).settle u 0)
      ∧ exec (.andn d a b) s = .next ((s.wg d (x &&& ~~~y)).settle u 0)
      ∧ exec (.shl d a b) s = .next ((s.wg d (x <<< y.extractLsb' 0 6)).settle u 0)
      ∧ exec (.shr d a b) s = .next ((s.wg d (x >>> y.extractLsb' 0 6)).settle u 0)
      ∧ exec (.sha d a b) s = .next ((s.wg d (x.sshiftRight (y.extractLsb' 0 6).toNat)).settle u 0)
      ∧ exec (.rol d a b) s = .next ((s.wg d (x.rotateLeft (y.extractLsb' 0 6).toNat)).settle u 0)
      ∧ exec (.min d a b) s = .next ((s.wg d (if x.toInt < y.toInt then x else y)).settle u 0)
      ∧ exec (.max d a b) s = .next ((s.wg d (if x.toInt < y.toInt then y else x)).settle u 0)
      ∧ exec (.minn d a b) s = .next ((s.wg d (if x.toNat < y.toNat then x else y)).settle u 0)
      ∧ exec (.maxn d a b) s = .next ((s.wg d (if x.toNat < y.toNat then y else x)).settle u 0)
      ∧ exec (.addsh d a b) s = .next ((s.wg d (BitVec.ofNat 64 (x.toNat + 128 * y.toNat))).settle u 0)
      ∧ exec (.sel d a b) s = .next ((s.wg d (if s.rg d = 0 then y else x)).settle u 0))
  ∧ (
    ∀ (s : State) (u : Cluster) (d a b : Fin 64), s.goesTo u →
      let x := s.rg a
      let n := (s.rg b).toNat % 64
      (∃ z : Nat, exec (.clz d a) s = .next ((s.wg d (BitVec.ofNat 64 z)).settle u 0) ∧ z ≤ 64
        ∧ (∀ k, 64 - z ≤ k → x.getLsbD k = false) ∧ (z < 64 → x.getLsbD (63 - z) = true))
      ∧ (∃ z : Nat, exec (.ctz d a) s = .next ((s.wg d (BitVec.ofNat 64 z)).settle u 0) ∧ z ≤ 64
        ∧ (∀ k, k < z → x.getLsbD k = false) ∧ (z < 64 → x.getLsbD z = true))
      ∧ exec (.popc d a) s
          = .next ((s.wg d (BitVec.ofNat 64 ((List.range 64).countP fun k => x.getLsbD k))).settle u 0)
      ∧ (∃ v : Dword, exec (.sext d a b) s = .next ((s.wg d v).settle u 0)
        ∧ ∀ k < 64, v.getLsbD k = x.getLsbD (min k n))
      ∧ (∃ v : Dword, exec (.zext d a b) s = .next ((s.wg d v).settle u 0)
        ∧ ∀ k < 64, v.getLsbD k = (decide (k ≤ n) && x.getLsbD k)))
  ∧ (
    ∀ (s : State) (u : Cluster) (a : Fin 16) (g : Fin 64) (e : BitVec 13), s.goesTo u →
      let la (x : Dword) : State := s.modMe fun k => { k with la := k.la.set a x }
      let wa (x : Dword) : State := s.modMe fun k => { k with wa := k.wa.set a x }
      let i : Dword := BitVec.ofInt 64 e.toInt
      exec (.laSet a g) s = .next ((la (s.rg g)).settle u 0)
      ∧ exec (.laAdd a e) s = .next ((la (s.me.la[a] + i)).settle u 0)
      ∧ exec (.laAddg a g) s = .next ((la (s.me.la[a] + s.rg g)).settle u 0)
      ∧ exec (.waSet a g) s = .next ((wa (s.rg g)).settle u 0)
      ∧ exec (.waAdd a e) s = .next ((wa (s.me.wa[a] + i)).settle u 0)
      ∧ exec (.waAddg a g) s = .next ((wa (s.me.wa[a] + s.rg g)).settle u 0))

/-- The immediate words of R94 write their result to gd and issue. The compares of R95 write 1 when the condition holds and 0
otherwise, and issue. -/
def Obligations.ImmediateAndCompareWords : Prop :=
  (
    ∀ (s : State) (u : Cluster) (d a : Fin 64) (i : BitVec 9) (n : BitVec 6) (w : BitVec 15), s.goesTo u →
      let x := s.rg a
      exec (.addi d a i) s = .next ((s.wg d (BitVec.ofInt 64 (x.toInt + i.toInt))).settle u 0)
      ∧ exec (.andi d a i) s = .next ((s.wg d (x &&& BitVec.ofInt 64 i.toInt)).settle u 0)
      ∧ exec (.ori d a i) s = .next ((s.wg d (x ||| BitVec.ofInt 64 i.toInt)).settle u 0)
      ∧ exec (.xori d a i) s = .next ((s.wg d (x ^^^ BitVec.ofInt 64 i.toInt)).settle u 0)
      ∧ exec (.shli d a n) s = .next ((s.wg d (x <<< n.toNat)).settle u 0)
      ∧ exec (.shri d a n) s = .next ((s.wg d (x >>> n.toNat)).settle u 0)
      ∧ exec (.shai d a n) s = .next ((s.wg d (x.sshiftRight n.toNat)).settle u 0)
      ∧ exec (.li d w) s = .next ((s.wg d (BitVec.ofNat 64 w.toNat)).settle u 0)
      ∧ exec (.lih d w) s = .next ((s.wg d (BitVec.ofNat 64 ((s.rg d).toNat * 2 ^ 15 + w.toNat))).settle u 0))
  ∧ (
    ∀ (s : State) (u : Cluster) (d a b : Fin 64) (i : BitVec 6), s.goesTo u →
      let x := s.rg a
      let y := s.rg b
      let z : Dword := BitVec.ofInt 64 i.toInt
      exec (.cmpEq d a b) s = .next ((s.wg d (if x = y then 1 else 0)).settle u 0)
      ∧ exec (.cmpNe d a b) s = .next ((s.wg d (if x ≠ y then 1 else 0)).settle u 0)
      ∧ exec (.cmpLt d a b) s = .next ((s.wg d (if x.toInt < y.toInt then 1 else 0)).settle u 0)
      ∧ exec (.cmpLe d a b) s = .next ((s.wg d (if x.toInt ≤ y.toInt then 1 else 0)).settle u 0)
      ∧ exec (.cmpLtn d a b) s = .next ((s.wg d (if x.toNat < y.toNat then 1 else 0)).settle u 0)
      ∧ exec (.cmpLen d a b) s = .next ((s.wg d (if x.toNat ≤ y.toNat then 1 else 0)).settle u 0)
      ∧ exec (.cmpiEq d a i) s = .next ((s.wg d (if x = z then 1 else 0)).settle u 0)
      ∧ exec (.cmpiNe d a i) s = .next ((s.wg d (if x ≠ z then 1 else 0)).settle u 0)
      ∧ exec (.cmpiLt d a i) s = .next ((s.wg d (if x.toInt < z.toInt then 1 else 0)).settle u 0)
      ∧ exec (.cmpiLe d a i) s = .next ((s.wg d (if x.toInt ≤ z.toInt then 1 else 0)).settle u 0)
      ∧ exec (.cmpiLtn d a i) s = .next ((s.wg d (if x.toNat < z.toNat then 1 else 0)).settle u 0)
      ∧ exec (.cmpiLen d a i) s = .next ((s.wg d (if x.toNat ≤ z.toNat then 1 else 0)).settle u 0))

/-- Multiplies and divides issue with their result pending for gd, and C_RESULT_LANDS writes it 2, or 17, counts later, the last
of the word's 3, or 18, cycles (R91, R92, R93). C_RESULT_LANDS writes the pending result of its register, which is no longer
pending (R93). -/
def Obligations.LongWords : Prop :=
  (
    ∀ (s : State) (u : Cluster) (d a b : Fin 64), s.goesTo u →
      let x := s.rg a
      let y := s.rg b
      let later (v : Dword) (n : Nat) : State :=
        ((s.modMe fun k => { k with cpend := k.cpend ++ [⟨d, v⟩] }).first (s.zc + n) .cResultLands
          ⟨s.turn.core, d.val, [], []⟩).settle u 0
      let wide (z : BitVec 128) : Dword := z.extractLsb' 64 64
      exec (.mul d a b) s = .next (later (x * y) 2)
      ∧ exec (.mulh d a b) s = .next (later (wide (x.signExtend 128 * y.signExtend 128)) 2)
      ∧ exec (.mulhn d a b) s = .next (later (wide (x.zeroExtend 128 * y.zeroExtend 128)) 2)
      ∧ exec (.div d a b) s = .next (later (if y = 0 then BitVec.allOnes 64 else x.sdiv y) 17)
      ∧ exec (.divn d a b) s = .next (later (if y = 0 then BitVec.allOnes 64 else x.udiv y) 17)
      ∧ exec (.rem d a b) s = .next (later (if y = 0 then x else x.srem y) 17)
      ∧ exec (.remn d a b) s = .next (later (if y = 0 then x else x.umod y) 17))
  ∧ (
    ∀ (s : State) (d : Fin 64) (p : CPend), s.ev.id = d.val → (s.core s.ev.core).cpend.find? (·.d == d) = some p →
      exec .cResultLands s = .next (s.modCore s.ev.core fun k =>
        { k with cpend := k.cpend.filter (·.d != d), vis := k.vis.wg d p.val }))

/-- Division never traps (R92): by a zero divisor DIV and DIVN give all ones and REM and REMN the dividend, and −2⁶³ divided by
−1 gives −2⁶³ and, as a remainder, 0; DIVN and REMN take those operands as unsigned. -/
def Obligations.DivisionNeverTraps : Prop :=
  ∀ (s : State) (u : Cluster) (d a b : Fin 64), s.goesTo u →
    let pending (v : Dword) (o : Host.Outcome State Fault Refusal) : Prop :=
      ∃ t, o = .next t ∧ t.me.cpend = s.me.cpend ++ [⟨d, v⟩] ∧ t.me.trap = s.me.trap
    (∃ q r qn rn, pending q (exec (.div d a b) s) ∧ pending r (exec (.rem d a b) s) ∧ pending qn (exec (.divn d a b) s)
      ∧ pending rn (exec (.remn d a b) s))
    ∧ (s.rg b = 0 →
        pending (BitVec.allOnes 64) (exec (.div d a b) s) ∧ pending (BitVec.ofNat 64 (2 ^ 64 - 1)) (exec (.divn d a b) s)
        ∧ pending (s.rg a) (exec (.rem d a b) s) ∧ pending (s.rg a) (exec (.remn d a b) s))
    ∧ ((s.rg a).toInt = -2 ^ 63 → (s.rg b).toInt = -1 →
        pending (BitVec.ofInt 64 (-2 ^ 63)) (exec (.div d a b) s) ∧ pending 0 (exec (.rem d a b) s)
        ∧ pending (BitVec.ofNat 64 (2 ^ 63 / (2 ^ 64 - 1))) (exec (.divn d a b) s)
        ∧ pending (BitVec.ofNat 64 (2 ^ 63 % (2 ^ 64 - 1))) (exec (.remn d a b) s))

/-- LOOP in C, L and W (one stage) and in X (ns + 1 stages): a legal LOOP of n ≥ 1 iterations sets its level up at iteration 0,
with the body p + 1 to p + len, and goes on at p + 1; n = 0 goes on at p + len + 1; the cases of R103 trap (R102, R103). That one of
n = 0 takes the nesting trap too is the model's choice (log 95), and that it goes on there also where its body ends with level 0's
and level 0 is left active (log 107). -/
def Obligations.LoopWords : Prop :=
  ∀ (s : State) (lv : Fin 2) (pf : Bool) (ns : Fin 8) (len : BitVec 12) (lenX : BitVec 9) (gc : Fin 64) (gx' : Fin 16),
    let spec (o : Host.Outcome State Fault Refusal) (x : Dword) (len stages : Nat) : Prop :=
      let p := s.clu.pc.toNat
      let n := x.toNat % 2 ^ 32
      let other := s.clu.loops[(1 - lv : Fin 2)]
      let nests := other.active = true →
        if lv = 1 then other.start.toNat ≤ p + 1 ∧ p + len ≤ other.stop
        else p + 1 ≤ other.start.toNat ∧ other.stop ≤ p + len
      let legal := n ≤ 0xFFFFFFF8 ∧ (s.clu.loops[lv]).active = false ∧ nests
        ∧ (pf = true → (s.yieldRec s.turn.core (x.extractLsb' 32 8)).isSome = true)
      (legal → 0 < n → p < 0xFFFF → ∃ l : Loop,
        o = .next (s.settle { s.clu with pc := s.clu.pc + 1, loops := s.clu.loops.set lv l } 0)
        ∧ l.active = true ∧ l.t = 0 ∧ l.first = 0 ∧ l.last = n ∧ l.n = n ∧ l.stages = stages ∧ l.pf = pf
        ∧ l.start = s.clu.pc + 1 ∧ l.stop = p + len
        ∧ l.index = 0 ∧ l.remaining.toNat = n - 1 ∧ (∀ k < stages, l.preds.getLsbD k = decide (k = 0)))
      ∧ (legal → n = 0 → p + len < 0xFFFF →
          o = .next (s.settle { s.clu with pc := BitVec.ofNat 16 (p + len + 1) } 0))
      ∧ (¬legal → o = .next (s.raise causeState 0))
    spec (exec (.loop lv pf gc len) s) (s.rg gc) len.toNat 1
    ∧ spec (exec (.loopX lv pf gx' ns lenX) s) (s.rg (gx gx')) lenX.toNat (ns.val + 1)

/-- LBREAK of an active level lets no new iteration start, at once for .A and when gc is not 0 otherwise; the word then goes on
from its loops so changed. On an inactive level it traps (R106). -/
def Obligations.BreakWords : Prop :=
  ∀ (s : State) (lv : Fin 2) (gc : Fin 64) (gc' : Fin 16),
    let l := s.clu.loops[lv]
    let v : Cluster := { s.clu with loops := s.clu.loops.set lv { l with last := min (l.t + 1) l.last } }
    let broken : State := s.modMe fun k => { k with clus := k.clus.set (clIx s.turn.cl) v }
    let spec (o : Host.Outcome State Fault Refusal) (go : Prop) : Prop :=
      (l.active = true → go → ∀ u, broken.goesTo u → o = .next (broken.settle u 0))
      ∧ (l.active = true → ¬go → ∀ u, s.goesTo u → o = .next (s.settle u 0))
      ∧ (l.active = false → o = .next (s.raise causeState 0))
    spec (exec (.lbreakA lv) s) True ∧ spec (exec (.lbreakAX lv) s) True
    ∧ spec (exec (.lbreak lv gc) s) (s.rg gc ≠ 0) ∧ spec (exec (.lbreakX lv gc') s) (s.rg (gx gc') ≠ 0)

/-- WAITK passes on a DONE token; on a PENDING one C, L and W have not issued it and X misses its schedule; on a FAILED one it
traps with the token's code, on an EMPTY one with code 0 (R107). -/
def Obligations.WaitWords : Prop :=
  ∀ (s : State) (u : Cluster) (k : Fin 64), s.goesTo u →
    ((s.tok k).st = .done → exec (.waitk k) s = .next (s.settle u 0) ∧ exec (.waitkX k) s = .next (s.settle u 0))
    ∧ ((s.tok k).st = .pending → exec (.waitk k) s = .next s ∧ exec (.waitkX k) s = .next (s.raise causeMiss 0x04))
    ∧ ((s.tok k).st = .failed → exec (.waitk k) s = .next (s.raise causeState (s.tok k).code)
        ∧ exec (.waitkX k) s = .next (s.raise causeState (s.tok k).code))
    ∧ ((s.tok k).st = .empty → exec (.waitk k) s = .next (s.raise causeState 0)
        ∧ exec (.waitkX k) s = .next (s.raise causeState 0))

/-- PBR writes the word index plus its offset, and PBRG ga[15:0], into a branch-target register, when the target lies inside
instruction memory; otherwise they trap (R96). BR.T, BR.Z and BR.A: a taken branch goes to its target after 4 bubbles less the
words since its PBR, and ends the active levels whose bodies do not hold the target, the inner with the outer; one not taken has
no effect; through an invalid register each traps (R97, R98, R101). CALL pushes the index of the word after it and goes to its
target, and RET pops the top entry and goes to it; a full stack first spills its eight oldest entries to SPILLBASE + 16·SC, and
an empty one first fills eight; the loop engines stay as they are (R25, R99, R100); the writer stamp of a spill is the model's choice
(log 41). -/
def Obligations.BranchesAndCalls : Prop :=
  (
    ∀ (s : State) (u : Cluster) (b : Fin 8) (off : BitVec 18) (a : Fin 64), s.goesTo u →
      let seq := s.me.seqs[(0 : Fin 15)] + 1
      let set (t : BitVec 16) : State := s.modMe fun k => { k with b := k.b.set b ⟨t, true, seq⟩ }
      (∀ t : BitVec 16, (t.toNat : Int) = s.clu.pc.toNat + off.toInt → exec (.pbr b off) s = .next ((set t).settle u 0))
      ∧ ((s.clu.pc.toNat : Int) + off.toInt < 0 ∨ 0xFFFF < (s.clu.pc.toNat : Int) + off.toInt →
          exec (.pbr b off) s = .next (s.raise causeState 0))
      ∧ (∀ t : BitVec 16, (s.rg a).toNat = t.toNat → exec (.pbrg b a) s = .next ((set t).settle u 0))
      ∧ (0xFFFF < (s.rg a).toNat → exec (.pbrg b a) s = .next (s.raise causeState 0)))
  ∧ (
    ∀ (s : State) (u : Cluster) (b : Fin 8) (a : Fin 64), s.goesTo u →
      let r := s.me.b[b]
      let l (lv : Fin 2) := s.clu.loops[lv]
      let holds (lv : Fin 2) : Prop := (l lv).start ≤ r.target ∧ r.target.toNat ≤ (l lv).stop
      let spec (o : Host.Outcome State Fault Refusal) (taken : Prop) : Prop :=
        (r.valid = true → taken → ∃ v : Cluster, o = .next (s.settle v (4 - (s.me.seqs[(0 : Fin 15)] + 1 - r.seq)))
          ∧ v.pc = r.target
          ∧ ((v.loops[(0 : Fin 2)]).active = true ↔ (l 0).active = true ∧ holds 0)
          ∧ ((v.loops[(1 : Fin 2)]).active = true ↔ (l 1).active = true ∧ holds 1 ∧ ((l 0).active = true → holds 0))
          ∧ ∀ lv : Fin 2, (v.loops[lv]).active = true → v.loops[lv] = l lv)
        ∧ (r.valid = true → ¬taken → o = .next (s.settle u 0))
        ∧ (r.valid = false → o = .next (s.raise causeState 0))
      spec (exec (.brA b) s) True ∧ spec (exec (.brT b a) s) (s.rg a ≠ 0) ∧ spec (exec (.brZ b a) s) (s.rg a = 0))
  ∧ (
    ∀ (s : State) (b : Fin 8),
      let k := s.me
      let r := k.b[b]
      let bubbles := 4 - (k.seqs[(0 : Fin 15)] + 1 - r.seq)
      let at_ (sc : Nat) := s.csr.spillbase.toNat + 16 * sc
      (r.valid = true → k.rs.length < 16 →
        exec (.call b) s = .next ((s.modMe fun k => { k with rs := k.rs ++ [s.clu.pc + 1] }).settle
          { s.clu with pc := r.target } bubbles))
      ∧ (r.valid = true → k.rs.length = 16 → k.sc < 4096 → ∀ (t : State) (x : Nat),
          s.engineWrite s.csr.cid (at_ k.sc) 16 (packRs (k.rs.take 8)) s.stamp = (t, .inl x) →
          ∃ n, exec (.call b) s = .next (((t.modMe fun k => { k with rs := k.rs.drop 8, sc := k.sc + 1 }).modMe fun k =>
            { k with rs := k.rs ++ [s.clu.pc + 1] }).chosen.settle { s.clu with pc := r.target } (bubbles + n)))
      ∧ (r.valid = true → 16 ≤ k.rs.length → k.sc = 4096 → exec (.call b) s = .next (s.raise causeState 0))
      ∧ (r.valid = false → exec (.call b) s = .next (s.raise causeState 0))
      ∧ (∀ (top : BitVec 16) (below : List (BitVec 16)), k.rs = below ++ [top] →
          exec .ret s = .next ((s.modMe fun k => { k with rs := below }).settle { s.clu with pc := top } 1))
      ∧ (k.rs = [] → 0 < k.sc → ∀ (t : State) (es : List (BitVec 16)) (top : BitVec 16), es.length = 7 →
          s.engineRead s.csr.cid (at_ (k.sc - 1)) 16 = (t, .inl (packRs (es ++ [top]))) →
          ∃ n, exec .ret s = .next ((t.modMe fun q => { q with rs := es, sc := q.sc - 1 }).chosen.settle
            { s.clu with pc := top } (1 + n)))
      ∧ (k.rs = [] → k.sc = 0 → exec .ret s = .next (s.raise causeState 0)))

/-- TRAP issues and raises cause 0x12 with its code, or 0x13 when bit 8 of its operand is set (R109). TAKING A TRAP with a
handler installed (R29, R318, R319, R320, R321): cause and place are recorded with the cut, the cluster state is shadowed,
rings, loops and the return stack are cleared, each cluster starts at its TRAPVEC word in the next cycle or stays stopped at
0 (TRAPVEC as it stands at the end of the trap's cycle, the model's choice, log 98), a VERCHK that has made no comparison issues again at the return (log 71), one whose mismatch is the trap does not, and the cut names the word after it, shapes and the tiles of ACCMASK are frozen,
unstarted commands are held; that the handler's first cycle is the next one is the model's reading (log 27: R320 gives no
count); the other registers, the tokens and memory stay. RETT holds C under a handler entered for a cause that resumes, ends
the context under any other, and traps with no handler; when its waits are met and the handler owns no shape, RETT_RESUME
restores the shadow and ACCMASK, thaws what was frozen, and every cluster resumes in the next cycle (R110, R317, R322). -/
def Obligations.TrapsAndReturn : Prop :=
  (
    ∀ (s : State) (u : Cluster) (n : BitVec 9), s.goesTo u → s.me.trap = none →
      let r : TrapReq := ⟨if n.getLsbD 8 then 0x13 else 0x12, n.extractLsb' 0 8, .c, 0, s.clu.pc, 0⟩
      exec (.trap n) s = .next ((s.modMe fun k => { k with trap := some r }).settle u 0))
  ∧ (
    ∀ (s : State) (c : Fin 64) (r : TrapReq),
      let k := s.core c
      k.trap = some r → k.live = true → k.saving = false → k.shadow = none →
      handled r.cause = true → k.vis.csr.trapvec.extractLsb' 0 16 ≠ 0 →
      let t := (s.takeTrap c).core c
      let l := k.clus[(1 : Fin 4)]
      let past : Core := if r.cause = 0x0F then { k with clus := k.clus.set (1 : Fin 4) ((l.next k.old.csr.req).getD l) } else k
      let at_ := past.dropVerchk
      t.trap = none
      ∧ t.vis.csr = { k.vis.csr with trapcause := r.causeWord, trappc := r.pcWord, cut := past.cuts }
      ∧ (∀ cl : Cl,
          let w : BitVec 16 := k.vis.csr.trapvec.extractLsb' (16 * cl.code) 16
          let v := t.clus[clIx cl]
          v.pc = w ∧ v.nextAt = s.zc + 1 ∧ v.hold = (if w = 0 then .stopped else .run)
          ∧ ∀ lv : Fin 2, (v.loops[lv]).active = false)
      ∧ (∀ i : Fin 8, t.vis.ring[i] = 0) ∧ t.rs = [] ∧ t.sc = 0
      ∧ t.shadow.map (fun h => (h.clus, h.ring, h.rs, h.sc, h.accmask, h.sh, h.cause))
          = some (at_.clus, k.vis.ring, k.rs, k.sc, k.vis.csr.accmask, k.vis.sh, r.cause)
      ∧ t.frozen = k.vis.csr.accmask
      ∧ (∀ h : Fin 8, t.vis.sh[h] = if k.vis.sh[h] = .free then .free else .frozen)
      ∧ (∀ h : Fin 8, t.shape[h] = { k.shape[h] with held := true })
      ∧ t.vis.g = k.vis.g ∧ t.vis.tok = k.vis.tok ∧ t.vis.cb = k.vis.cb ∧ t.vis.slot = k.vis.slot
      ∧ t.v = k.v ∧ t.m = k.m ∧ t.la = k.la ∧ t.wa = k.wa ∧ t.b = k.b ∧ t.acc = k.acc
      ∧ (s.takeTrap c).mem = s.mem ∧ ∀ d : Fin 64, d ≠ c → (s.takeTrap c).core d = s.core d)
  ∧ (
    ∀ (s : State) (u : Cluster),
      (s.me.shadow = none → exec .rett s = .next (s.raise causeState 0))
      ∧ (∀ h, s.me.shadow = some h → resumable h.cause = true → (s.holds .rett).goesTo u →
          exec .rett s = .next ((s.holds .rett).settle u 0))
      ∧ (∀ h, s.me.shadow = some h → resumable h.cause = false →
          exec .rett s = .next ((s.modMe Core.halt).endCtx s.csr.cid h.cause (zenithOf s.turn.core)))
      ∧ (let k := s.core s.ev.core
         ∀ h, k.shadow = some h → k.rettReady = true → k.ownShapes = [] →
          (∀ g : Fin 8, ∀ m ∈ k.shape[g].queue, m.started = true ∨ s.zc < m.sigma) →
          ∃ t, exec .rettResume s = .next t
            ∧ (let q := t.core s.ev.core
               q.shadow = none ∧ q.frozen = 0 ∧ q.rs = h.rs ∧ q.sc = h.sc ∧ q.vis.ring = h.ring
               ∧ q.vis.csr = { k.vis.csr with accmask := h.accmask }
               ∧ (∀ cl : Cl, q.clus[clIx cl] = { h.clus[clIx cl] with nextAt := max (h.clus[clIx cl]).nextAt (s.zc + 1) })
               ∧ (∀ g : Fin 8, q.shape[g] = { k.shape[g] with held := false })
               ∧ (∀ g : Fin 8, q.vis.sh[g] = if k.vis.sh[g] = .frozen then h.sh[g] else k.vis.sh[g])
               ∧ q.vis.g = k.vis.g ∧ q.vis.tok = k.vis.tok)
            ∧ t.mem = s.mem ∧ ∀ d : Fin 64, d ≠ s.ev.core → t.core d = s.core d))

/-- CSRR writes the CSR's value to the register; CSRW, CSRS and CSRC write the register's value, its OR with the CSR's, or the
CSR's AND its complement; the CSRs are those of R26, each under its number; FTROW takes no 3, STEP no write while a switch is
recorded, and a write of PSUB also reaches the governor after the latency from its die (R26, R28, R111, R112, R359). Which CSR stands under which number,
which of them a write changes and which bits of it (R8, R9, R26): the others, and the reserved bits, take no write; ERRINJ takes ARM
only with a TARGET that R284 and R369 let arm; DQSTAT reads the occupancy and the drain count, and LATTd the row of its die (R32). -/
def Obligations.CsrWordsAndMap : Prop :=
  (
    ∀ (s : State) (u : Cluster) (g : Fin 64) (n : BitVec 12), s.goesTo u → csrListed n = true →
      let v := s.csrRead n.toNat
      let x := s.rg g
      let wr (y : Dword) : State :=
        let t := s.modMe fun k => k.modVis fun w => { w with csr := w.csr.write n.toNat y }
        if n = 0x033 then { t with gov := { t.gov with reads := t.gov.reads
          ++ [(s.turn.core, y &&& ~~~0x3F, s.zc + s.lat (zenithOf s.turn.core) 7)] } } else t
      let bad (y : Dword) : Prop :=
        (n = 0x009 ∧ y.toNat % 4 = 3) ∨ (n = 0x002 ∧ ∃ h : Fin 16, (s.me.old.slot[h]).pvalid = true)
      exec (.csrr g n) s = .next ((s.wg g v).settle u 0)
      ∧ (¬bad x → exec (.csrw g n) s = .next ((wr x).settle u 0))
      ∧ (¬bad (v ||| x) → exec (.csrs g n) s = .next ((wr (v ||| x)).settle u 0))
      ∧ (¬bad (v &&& ~~~x) → exec (.csrc g n) s = .next ((wr (v &&& ~~~x)).settle u 0))
      ∧ (bad x → exec (.csrw g n) s = .next (s.raise causeState 0))
      ∧ (bad (v ||| x) → exec (.csrs g n) s = .next (s.raise causeState 0))
      ∧ (bad (v &&& ~~~x) → exec (.csrc g n) s = .next (s.raise causeState 0)))
  ∧ (
    ∀ (s : State) (i : Fin 16) (j : Fin 8) (x : Dword),
      let c := s.csr
      let kept (n : Nat) : Prop := c.write n x = c
      (s.csrRead 0x000 = BitVec.ofNat 64 s.zc - BitVec.ofNat 64 (s.lat 0 (zenithOf s.turn.core)) ∧ kept 0x000)
      ∧ (s.csrRead 0x001 = c.zbase ∧ (c.write 0x001 x) = { c with zbase := x })
      ∧ (s.csrRead 0x002 = c.step ∧ (c.write 0x002 x) = { c with step := x })
      ∧ ((s.csrRead 0x003).toNat = c.cid.toNat ∧ kept 0x003)
      ∧ (s.csrRead 0x004 = c.dmr ∧ kept 0x004)
      ∧ ((s.csrRead 0x008).toNat = c.fflags.toNat ∧ (c.write 0x008 x) = { c with fflags := BitVec.ofNat 5 x.toNat })
      ∧ ((s.csrRead 0x009).toNat = c.ftrow.toNat ∧ (c.write 0x009 x) = { c with ftrow := BitVec.ofNat 2 x.toNat })
      ∧ (s.csrRead 0x010 = c.trapvec ∧ (c.write 0x010 x) = { c with trapvec := x })
      ∧ (s.csrRead 0x011 = c.trapcause ∧ kept 0x011)
      ∧ (s.csrRead 0x012 = c.trappc ∧ kept 0x012)
      ∧ (s.csrRead (0x020 + i.val) = c.cut[i] ∧ kept (0x020 + i.val))
      ∧ ((s.csrRead 0x030).toNat = c.retrylim.toNat ∧ (c.write 0x030 x) = { c with retrylim := BitVec.ofNat 4 x.toNat })
      ∧ s.csrRead 0x031 = c.errinj
      ∧ (let y := x &&& 0x1F7F7FFF
         let target := x.toNat / 2 % 8
         let tile := x.toNat / 2 ^ 4 % 16
         let arms : Prop := target = 1 ∨ target = 2 ∨ (target = 3 ∧ tile < 12)
           ∨ (target = 4 ∧ tile = 0 ∧ x.toNat / 2 ^ 16 % 128 = 0)
         (arms → c.write 0x031 x = { c with errinj := y }) ∧ (¬arms → c.write 0x031 x = { c with errinj := y &&& ~~~1 }))
      ∧ (s.csrRead 0x032 = c.preempt ∧ kept 0x032)
      ∧ (s.csrRead 0x033 = c.psub ∧ (c.write 0x033 x) = { c with psub := x &&& ~~~0x3F })
      ∧ ((s.csrRead 0x034).toNat = c.haloctl.toNat ∧ (c.write 0x034 x) = { c with haloctl := BitVec.ofNat 2 x.toNat })
      ∧ ((s.csrRead 0x035).toNat = c.accmask.toNat ∧ (c.write 0x035 x) = { c with accmask := BitVec.ofNat 12 x.toNat })
      ∧ ((s.csrRead 0x036).toNat % 2 ^ 16 = s.me.dq.length % 2 ^ 16 ∧ kept 0x036)
      ∧ (s.me.dq.length ≤ 24576 → s.me.dn ≤ 6144 → (s.csrRead 0x036).toNat / 2 ^ 16 = s.me.dn)
      ∧ (∀ e : Fin 8, (∀ d : Fin 8, s.lat j d < 256) → (s.csrRead (0x050 + j.val)).toNat / 2 ^ (8 * e.val) % 2 ^ 8 = s.lat j e)
      ∧ (s.csrRead 0x037 = c.spillbase ∧ kept 0x037)
      ∧ (s.csrRead (0x040 + j.val) = c.scratch[j] ∧ (c.write (0x040 + j.val) x) = { c with scratch := c.scratch.set j x })
      ∧ kept (0x050 + j.val))

/-- YIELD, REALIGN and KEND are S = 1 words that hold C after they issue: YIELD names a yield record, REALIGN finds every
shape queue empty; otherwise they trap. PHASE counts a boundary of a domain, DOMSYNC counts and holds C in its barrier, both
trap on an absent domain; STEPADV holds C at its word (R113, R116, R117, R118, R119, R122, R298). REALIGN_RELEASE: when every
core of a gang holds at its REALIGN, all of the same T at least 64 counts ahead, each goes on with its link bits taken, and no
cluster of it issues before its die's local count is T; otherwise each takes the schedule miss at its REALIGN, its ring
counters as they were (R78, R116, R231; that a REALIGN's link bits wait for the gang is log 71, and that the 64 counts are
compared within one turn of the 64-bit count log 81). -/
def Obligations.HoldingWords : Prop :=
  (
    ∀ (s : State) (u : Cluster) (y : BitVec 8) (a : Fin 64) (v : Fin 4),
      let t0 := (s.rg a).toNat
      let dom : BitVec 16 := s.csr.dmr.extractLsb' (16 * v.val) 16
      let n := s.me.doms[v] + 1
      let counted : State := (s.modMe fun k => { k with doms := k.doms.set v n }).holds (.domsync v n)
      (s.turn.hdr.sync = true → (s.yieldRec s.turn.core y).isSome = true → (s.holds (.yield y)).goesTo u →
        exec (.yield y) s = .next ((s.holds (.yield y)).settle u 0))
      ∧ (s.turn.hdr.sync = false ∨ s.yieldRec s.turn.core y = none → exec (.yield y) s = .next (s.raise causeState 0))
      ∧ (s.turn.hdr.sync = true → (∀ h : Fin 8, (s.me.shape[h]).queue = []) →
        exec (.realign a) s = .next (s.holds (.realign t0 s.clu.pc)))
      ∧ (s.turn.hdr.sync = false ∨ (∃ h : Fin 8, (s.me.shape[h]).queue ≠ []) →
        exec (.realign a) s = .next (s.raise causeState 0))
      ∧ (s.turn.hdr.sync = true → (s.holds (.kend s.clu.pc)).goesTo u →
        exec .kend s = .next ((s.holds (.kend s.clu.pc)).settle u 0))
      ∧ (s.turn.hdr.sync = false → exec .kend s = .next (s.raise causeState 0))
      ∧ (dom ≠ 0xFFFF → s.goesTo u →
        exec (.phase v) s = .next ((s.modMe fun k => { k with phases := k.phases.set v (k.phases[v] + 1) }).settle u 0))
      ∧ (dom ≠ 0xFFFF → counted.goesTo u → exec (.domsync v) s = .next (counted.settle u 0))
      ∧ (dom = 0xFFFF → exec (.phase v) s = .next (s.raise causeState 0)
          ∧ exec (.domsync v) s = .next (s.raise causeState 0))
      ∧ exec .stepadv s = .next (s.holds .stepadv))
  ∧ (
    ∀ (s : State) (T : Nat) (d : Fin 64),
      let g := s.gangOf s.ev.core
      let at_ (e : Fin 64) : State := (s.modCore e fun k => k.setHold .c .run).turnTo e .c
      let start := (s.zc + 64) / 2 ^ 64 * 2 ^ 64 + T + s.lat 0 (zenithOf d)
      s.realignReady s.ev.core = true → d ∈ g → ((s.core s.ev.core).realignT).map (·.1) = some T →
      ∃ t, exec .realignRelease s = .next t ∧ t.mem = s.mem ∧ (∀ e : Fin 64, e ∉ g → t.core e = s.core e)
        ∧ (∀ u, (∀ e ∈ g, ((s.core e).realignT).map (·.1) = some T) → (s.zc + 64) % 2 ^ 64 ≤ T → (at_ d).goesTo u →
            (t.core d).clus[(0 : Fin 4)] = { u with nextAt := max (s.zc + 1) start } ∧ (t.core d).trap = (s.core d).trap
            ∧ (t.core d).vis = ((at_ d).settle u 0).me.vis ∧ ∀ cl : Cl, start ≤ ((t.core d).clus[clIx cl]).nextAt)
        ∧ ((∃ e ∈ g, ((s.core e).realignT).map (·.1) ≠ some T) ∨ T < (s.zc + 64) % 2 ^ 64 → (s.core d).trap = none →
            (t.core d).trap = some ⟨causeMiss, 0x0A, .c, 0, ((s.core d).clus[(0 : Fin 4)]).pc, 0⟩
            ∧ (t.core d).vis = (s.core d).vis))

/-- PROBE of a range of length not 0, with the queues of L, W and the engines empty, holds C until the MTUs answer; a length
of 0 has no effect; a busy queue or a range past 2⁴⁸ traps, with a length of 0 too (the model's choice, log 106). UNPIN takes one from every pin of its own core and context that
meets the range (R114, R115). PROBE_COMPLETE: the PROBE at which C of a running core holds completes when every page of its
range meets its mode, its pages gaining a pin when it pins and no count would pass 255, else it traps. For the lowest page
that fails there is one record, with the probe's mode, its PIN and the base of that page: of KIND 1 with cause 0x09 when the
page is missing or not permitted, of KIND 4 when its install is refused. The first suspends the context on the core, which
stops where it stands, also in a trap handler (the model's choice, log 82); in a save sequence it ends the context with SAVE
FAILED, as a refused install does there, with the probe's own cause in TRAPCAUSE; a refused install ends it with 0x0B, or in a
handler with 0x11 (R110, R114, R115, R310, R313, R314, R317, R325). That the link bits of a PROBE act when it completes is the
model's reading (log 71). -/
def Obligations.Probes : Prop :=
  (
    ∀ (s : State) (u : Cluster) (d a : Fin 64) (pin : Bool), s.goesTo u →
      let base := (s.rg a).toNat
      let len := (s.rg d).toNat
      let busy := s.me.lEmpty = false ∨ s.me.wEmpty = false ∨ ∃ m ∈ s.me.cmds, m.control = false
      let spec (o : Host.Outcome State Fault Refusal) (mode : Nat) : Prop :=
        (¬busy → base + len ≤ 2 ^ 48 → 0 < len → ∃ w,
          o = .next ((s.holds (.probe base len mode pin)).later 1 w .probeComplete ⟨s.turn.core, 0, [], []⟩))
        ∧ (¬busy → base ≤ 2 ^ 48 → len = 0 → o = .next (s.settle u 0))
        ∧ (busy ∨ 2 ^ 48 < base + len → o = .next (s.raise causeState 0))
      spec (exec (.probeR d a pin) s) 1 ∧ spec (exec (.probeW d a pin) s) 2 ∧ spec (exec (.probeRw d a pin) s) 3
      ∧ (base + len ≤ 2 ^ 48 → ∃ ps, exec (.unpin d a) s = .next (({ s with pins := ps } : State).settle u 0)
          ∧ ∀ (c : Fin 64) (p : Nat × Bool), s.pins.Pairwise (fun x y => (x.cid, x.core, x.page, x.big) ≠ (y.cid, y.core, y.page, y.big)) →
            let hit := c = s.turn.core ∧ len ≠ 0 ∧ base < (p.1 + if p.2 then 512 else 1) * 2 ^ 21 ∧ p.1 * 2 ^ 21 < base + len
            ({ s with pins := ps } : State).pinCount s.csr.cid c p = s.pinCount s.csr.cid c p - if hit then 1 else 0)
      ∧ (2 ^ 48 < base + len → exec (.unpin d a) s = .next (s.raise causeState 0)))
  ∧ (
    ∀ (s : State) (base len mode : Nat) (pin : Bool) (t : State) (ps : List (Nat × Bool)),
      let c := s.ev.core
      let k := s.core c
      let cid := k.vis.csr.cid
      k.holdOf .c = .probe base len mode pin → k.live = true →
      let r (e : Option (Nat × Nat)) := s.probePages cid (probeNeed mode) (pagesOf base len) = (t, ps, e)
      let w := (t.modCore c fun k => k.setHold .c .run).turnTo c .c
      (r none → (pin && w.pinFull cid c ps) = false → ∀ u, (if pin then w.pinAll cid c ps else w).goesTo u →
        exec .probeComplete s = .next ((if pin then w.pinAll cid c ps else w).settle u 0))
      ∧ (r none → (pin && w.pinFull cid c ps) = true → exec .probeComplete s = .next (w.raise causeState 0))
      ∧ (∀ page cause, r (some (page, cause)) →
          let va := page * 2 ^ 21
          let die : Fin 8 := homeDie va
          let pc := ((t.core c).clus[(0 : Fin 4)]).pc
          let kind := if cause = 0x09 then 1 else faultKind cause
          let told := t.record ⟨kind, cause, cid, c.val, 0, die.val, mode, pin, va, 0, pc.toNat, 0, false, t.faultPa cid va⟩
          let stops : Prop := cause = 0x09 ∧ k.saving = false
          let code := if k.saving = true then 0x24 else if k.shadow.isSome = true then 0x11 else cause
          let shown := if k.saving = false ∧ k.shadow.isSome = true then 0x11 else cause
          let T := t.zc + t.lat die 0
          ∃ q, exec .probeComplete s = .next q ∧ q.mem = told.mem ∧ q.regs = told.regs ∧ q.msix = told.msix
            ∧ (∀ d : Fin 64, d ≠ c → q.core d = t.core d)
            ∧ (∀ i : Fin 4, ((q.core c).clus[i]).pc = ((t.core c).clus[i]).pc)
            ∧ (stops → (q.core c).st = .suspended ∧ q.agenda = told.agenda
              ∧ (q.core c).clus[(0 : Fin 4)] = (t.core c).clus[(0 : Fin 4)]
              ∧ (q.core c).vis.csr.trapcause = (⟨0x09, 0, .c, 0, pc, 0⟩ : TrapReq).causeWord)
            ∧ (¬stops → (q.core c).st = .halted
              ∧ (q.core c).vis.csr.trapcause = (⟨shown, 0, .c, 0, pc, va⟩ : TrapReq).causeWord
              ∧ ((told.ending cid || told.over cid) = false → q.agenda =
                  insertAt ⟨T + t.lat 0 1, .contextEnd, .nums [1, cid.toNat, code]⟩
                    (insertAt ⟨T + t.lat 0 0, .contextEnd, .nums [0, cid.toNat, code]⟩ told.agenda)))))

/-- DOMSYNC_COMPLETE lets C of a core go on in the next cycle once every member of the level has issued the barrier of that
number, or, for level 3, D3N arrivals are held, the device's own among them, or it has completed before (the model's choice for a
gang that a replay takes back, log 94): those are used up and every core of the gang that holds in the barrier goes on;
DOMSYNC_ARRIVAL holds an arrival of another device. A level-3 barrier is formed once by its launch, with one arrival of the
device, which goes to the other devices (R118, R297, R298). STEP_SWITCH: at a STEPADV
whose due slots are all PREADY with no PFAIL, STEP rises by one and every due slot changes GEN, PVALID and PREADY alone, so
PGEN and SWSTEP keep what NBSWITCH gave them; the other slots stay (R119, R350). Where the first due slot that is not so has
failed, STEPADV takes the illegal-state trap with its PCODE, that slot loses PVALID, PFAIL and PCODE, and STEP and the rest stay;
while it has neither, C holds (R119). -/
def Obligations.Barriers : Prop :=
  (
    ∀ (s : State) (l : Fin 4) (n : Nat),
      let c := s.ev.core
      (l ≠ 3 → (s.core c).holdOf .c = .domsync l n → (∀ d ∈ s.members c l, n ≤ (s.countsOf c d).2[l]) →
        exec .domsyncComplete s = .next (s.modCore c fun k => k.release .c (· == .domsync l n) (s.zc + 1)))
      ∧ ((s.core c).holdOf .c = .domsync 3 n → s.formsL3 c n = false →
        s.l3Of c n = some true ∨ (((s.core c).vis.csr.dom 3, n, s.dev) ∈ s.arrivals
          ∧ (s.core c).launch.d3n.toNat ≤ s.arrived ((s.core c).vis.csr.dom 3) n) → ∃ t, exec .domsyncComplete s = .next t
          ∧ (∀ a, a ∈ t.arrivals ↔ a ∈ s.arrivals ∧ ¬(a.1 = (s.core c).vis.csr.dom 3 ∧ a.2.1 = n)) ∧ t.mem = s.mem
          ∧ ∀ d : Fin 64, t.core d = if d ∈ s.members c 2 ∧ (s.core d).run = (s.core c).run then
              (s.core d).release .c (· == .domsync 3 n) (s.zc + 1) else s.core d)
      ∧ (l ≠ 3 → (s.core c).holdOf .c = .domsync l n → (∃ d ∈ s.members c l, (s.countsOf c d).2[l] < n) →
        exec .domsyncComplete s = .next s)
      ∧ exec .domsyncArrival s
          = .next { s with arrivals := s.arrivals ++ [(BitVec.ofNat 16 (s.arg 0), s.arg 1, s.arg 2)] })
  ∧ (
    ∀ (s : State) (c : Fin 64) (n : Nat) (devs : List Nat), (∃ r ∈ s.runs, r.id = (s.core c).run) →
      let t := s.formL3 c n devs
      let own := ((s.core c).vis.csr.dom 3, n, s.dev)
      t.formsL3 c n = false ∧ t.cores = s.cores ∧ t.mem = s.mem
      ∧ (own ∈ s.arrivals → t.arrivals = s.arrivals ∧ t.outbox = s.outbox)
      ∧ (own ∉ s.arrivals → t.arrivals = s.arrivals ++ [own]
          ∧ t.outbox = s.outbox ++ (devs.filter (· != s.dev)).map fun d => Msg.domsync d ((s.core c).vis.csr.dom 3) n))
  ∧ (
    ∀ (s : State) (u : Cluster),
      let c := s.ev.core
      let k := s.core c
      let due (h : Fin 16) : Prop := (k.vis.slot[h]).pvalid = true ∧ (k.vis.slot[h]).swstep ≤ k.vis.csr.step + 1
      k.live = true → k.holdOf .c = .stepadv → (∀ h : Fin 16, due h → (k.vis.slot[h]).pready = true ∧ (k.vis.slot[h]).pfail = false) →
      ((s.modCore c fun k => k.setHold .c .run).turnTo c .c).goesTo u →
      ∃ t, exec .stepSwitch s = .next t
        ∧ (t.core c).vis.csr = { k.vis.csr with step := k.vis.csr.step + 1 }
        ∧ (∀ h : Fin 16, due h →
            (t.core c).vis.slot[h] = { k.vis.slot[h] with gen := (k.vis.slot[h]).pgen, pvalid := false, pready := false })
        ∧ (∀ h : Fin 16, ¬due h → (t.core c).vis.slot[h] = k.vis.slot[h])
        ∧ (t.core c).clus[(0 : Fin 4)] = { u with nextAt := s.zc + 1 })
  ∧ (
    ∀ (s : State) (h : Fin 16),
      let c := s.ev.core
      let k := s.core c
      let due (h : Fin 16) : Prop := (k.vis.slot[h]).pvalid = true ∧ (k.vis.slot[h]).swstep ≤ k.vis.csr.step + 1
      k.live = true → k.holdOf .c = .stepadv → due h →
      (∀ j : Fin 16, j < h → due j → (k.vis.slot[j]).pready = true ∧ (k.vis.slot[j]).pfail = false) →
      ((k.vis.slot[h]).pfail = true → ∃ t, exec .stepSwitch s = .next t
        ∧ (t.core c).vis.csr = k.vis.csr ∧ t.mem = s.mem ∧ (∀ d : Fin 64, d ≠ c → t.core d = s.core d)
        ∧ (k.trap = none → (t.core c).trap = some ⟨causeState, (k.vis.slot[h]).pcode, .c, 0, (k.clus[(0 : Fin 4)]).pc, 0⟩)
        ∧ ∀ j : Fin 16, (t.core c).vis.slot[j]
            = if j = h then { k.vis.slot[h] with pvalid := false, pfail := false, pcode := 0 } else k.vis.slot[j])
      ∧ ((k.vis.slot[h]).pready = false → (k.vis.slot[h]).pfail = false → exec .stepSwitch s = .next s))

/-- TK.ZERO empties a token that is not PENDING; TK.JOIN makes its token PENDING and queues its two consumed tokens; TK.TEST
writes the 16-bit image of a token, state in [1:0], code in [15:8] of a FAILED one, the rest zero (R15, R224). The words of C
that produce a token complete, each with its token PENDING and one command of its own queued: SHAPE.ALLOC, FREE, CUT and CHAIN,
HBLOAD and HBSTORE, NBQR, NBROT, NBCARRY and NBSWITCH; SHAPE.QRY, which produces none, completes with its word pending for its
register (R181 to R185, R208, R210, R214). The commands end with their tokens DONE at SLOT_TRANSFER_COMPLETE, NIMBUS_COMPLETE and
NBQR_BASIS_WRITE (R203, R208, R211, R212). Model's choices: the writer stamp of an engine's writes (log 41), HBSTORE's fields as at
issue and its elements as at completion (log 101). -/
def Obligations.TokenWords : Prop :=
  (
  ∀ (s : State) (u : Cluster) (k a b d : Fin 64), s.goesTo u →
    ((s.tok k).st ≠ .pending → exec (.tkZero k) s = .next ((s.modMe fun c => c.setTok k Token.zero).settle u 0))
    ∧ ((s.tok k).st = .pending → exec (.tkZero k) s = .next (s.raise causeState 0))
    ∧ ((s.tok k).st ≠ .pending → (s.tok a).st ≠ .empty → (s.tok b).st ≠ .empty → k ≠ a → k ≠ b → ∃ m : Cmd,
        exec (.tkJoin k a b) s = .next (((s.modMe fun c => c.pend k).addCmd m).settle u 0)
        ∧ m.op = .tkJoin k a b ∧ m.tok = k ∧ m.waits = [(a, false), (b, false)] ∧ m.started = false)
    ∧ ((s.tok k).st = .pending ∨ (s.tok a).st = .empty ∨ (s.tok b).st = .empty ∨ k = a ∨ k = b →
        exec (.tkJoin k a b) s = .next (s.raise causeState 0))
    ∧ (∃ x : Dword, exec (.tkTest d a) s = .next ((s.wg d x).settle u 0)
        ∧ x.toNat / 4 % 64 = 0 ∧ x.toNat / 2 ^ 16 = 0
        ∧ x.toNat % 4 = (match (s.tok a).st with | .empty => 0 | .pending => 1 | .done => 2 | .failed => 3)
        ∧ x.toNat / 256 % 256 = if (s.tok a).st = .failed then (s.tok a).code.toNat else 0))
  ∧ (
    ∀ (s : State) (u : Cluster) (k a d : Fin 64) (j h : Fin 8) (e : Fin 16) (rs : Bool), (s.tok k).st ≠ .pending →
      let queued (i : Instr) : Prop := ∃ (t : State) (m : Cmd), exec i s = .next t ∧ m.op = i ∧ m.tok = k
        ∧ t.me.cmds = s.me.cmds ++ [m] ∧ t.me.vis.tok[k] = ⟨.pending, 0, none⟩ ∧ t.mem = s.mem
      let st (x : Fin 8) : ShSt := s.me.old.sh[x]
      let b := (s.rg a).toNat
      let g := s.me.shape[h]
      let x := s.quadAt a
      let auxOk : Prop := nbAuxOk x.2.2.2 = true ∧ ∀ t ∈ auxToks x.2.2.2, (s.tok t).st ≠ .empty ∧ t ≠ k
      let words : Prop := x.1.toNat % 4 = 0 ∧ x.2.1.toNat % 4 = 0 ∧ x.2.2.1.toNat % 4 = 0 ∧ nbDim x.2.2.2 ≠ 0
      (s.goesTo u → b < 2 ^ 13 → st h = .free → queued (.shapeAlloc k a h))
      ∧ ((s.holds (.reshape s.nextId)).goesTo u → st h = .live → queued (.shapeFree k h)
          ∧ (st j = .free → h ≠ j → b < 16 → 0 < b / 2 % 8 → b / 2 % 8 < (if b % 2 = 0 then g.d else g.w) →
              queued (.shapeCut k a j h))
          ∧ (st j = .live → h ≠ j → joinRect g s.me.shape[j] ≠ none → queued (.shapeChain k j h)))
      ∧ (s.goesTo u → ∃ t, exec (.shapeQry d h) s = .next t ∧ t.mem = s.mem
          ∧ t.me.cpend = s.me.cpend ++ [⟨d, s.shapeWord s.turn.core h⟩])
      ∧ (s.goesTo u → b % 32 = 0 → s.me.namesSlot e = false →
          (s.admits (.hbload e a k) → queued (.hbload e a k)) ∧ (s.admits (.hbstore e a k) → queued (.hbstore e a k)))
      ∧ (s.goesTo u → auxOk → words →
          (x.2.2.1 = 0 → (s.me.old.slot[e]).rank.toNat ≤ (s.me.old.slot[e]).kw.toNat → s.admits (.nbqr k a e) → queued (.nbqr k a e))
          ∧ (s.admits (.nbrot k a e) → queued (.nbrot k a e))
          ∧ (s.admits (.nbcarry k a rs e) → queued (.nbcarry k a rs e)))
      ∧ (s.goesTo u → auxOk → x.2.1 = 0 → x.2.2.1 = 0 → nbDim x.2.2.2 = 0 → (s.me.old.slot[e]).pvalid = false → s.csr.step < x.1 →
          s.admits (.nbswitch k a e) → queued (.nbswitch k a e)))
  ∧ (
    ∀ (s t w : State) (m : Cmd) (k a : Fin 64) (e : Fin 16) (n addr : Nat) (xs bf : List Nat),
      let c := s.ev.core
      let q := s.core c
      let cid := q.vis.csr.cid
      let stamp := stampOf cid c q.seqs[(3 : Fin 15)]
      let ends (i : Instr) : Prop := ∃ r, exec i s = .next r ∧ (r.core c).vis.tok[m.tok] = ⟨.done, 0, none⟩
      m.gone = false →
      (¬s.drains → q.cmd s.ev.id = some m → m.op = .hbstore e a k → s.engineWrite cid (m.args.getD 0 0) m.slot.imageBytes
        (m.slot.image + 2 ^ 256 * bytesNat (((basisRead q.basis (m.slot.region m.slot.gen.toNat) m.slot.elems) ++
          if m.slot.pready then basisRead q.basis (m.slot.region (m.slot.gen.toNat + 1)) m.slot.elems else []).map
          (natBytes 2)).flatten) stamp = (w, .inl n) → ends .slotTransferComplete)
      ∧ (q.cmd s.ev.id = some m → m.op = .nbrot k a e → s.nimbusRun cid m = (t, .inl (.inl ([(addr, xs)], bf))) →
          t.engineWrite cid addr (4 * xs.length) (bytesNat (xs.map (natBytes 4)).flatten) stamp = (w, .inl n) →
          ends .nimbusComplete)
      ∧ (q.basisReady = some m → ends .nbqrBasisWrite))

/-- A launch from a kernel: KLAUNCH of a legal quad makes its token PENDING and queues the launch (R120). KEND_COMPLETE, when
its waits are met, cleans every dirty line of the core's block cache and of its RDC under its stamp to home and checks them with
those dirty in home under its stamp; one with a line that fails its check halts, and so does one whose context a late store fault
ends. Else, its completion word written (under a writer stamp of the model's choice, log 41), the core is idle, its shapes and pins
are released, their cells at the end of the next cycle, and the word holds what its tokens ask for (R122, R260, R299, R315). -/
def Obligations.LaunchAndEnd : Prop :=
  ∀ (s : State) (u : Cluster) (a k : Fin 64),
    let q := s.quad a
    (s.goesTo u → (s.tok k).st ≠ .pending → q.2.2.1 ≠ 0 → q.2.2.2.toNat < 4 → ∃ (m : Cmd) (w : Nat),
      exec (.klaunch a k) s = .next ((((s.modMe fun x => x.pend k).addCmd m).later 1 w .klaunchComplete
        ⟨s.turn.core, m.id, [], []⟩).settle u 0)
      ∧ m.op = .klaunch a k ∧ m.tok = k ∧ m.quad = q ∧ m.id = s.nextId)
    ∧ ((s.tok k).st = .pending ∨ q.2.2.1 = 0 ∨ 4 ≤ q.2.2.2.toNat → exec (.klaunch a k) s = .next (s.raise causeState 0))
    ∧ (let c := s.ev.core
       let x := s.core c
       let cid := x.vis.csr.cid
       -- the state in which the dirty lines are in home, the lines to check, and the state after the checks
       let y := s.kendLines c
       let r0 := y.1.kendCheck y.2
       let bad : Prop := ∃ z ∈ y.2, y.1.refusesLine z.1 z.2 = true
       let t : State := { r0 with pins := r0.pins.filter fun p => !(p.cid == cid && p.core == c) }
       (s.kendReady c = false → exec .kendComplete s = .next s)
       ∧ (bad ∨ r0.endsLate cid = true → s.kendReady c = true → s.leads .kendComplete fun r => (r.core c).st = .halted)
       ∧ ((∃ e ∈ r0.agenda, e.op = .contextEnd ∧ e.ev.args.getD 1 0 = cid.toNat ∧ e.ev.args.getD 2 0 = causeLate) →
          r0.endsLate cid = true)
       ∧ (∀ (d : BitVec 12) (la : Nat), (lineOr (y.1.core c).bc d la).dirty = 0
          ∧ ((lineOr x.bc d la).dirty ≠ 0 → (d, la) ∈ y.2))
       ∧ ((∀ l ∈ x.bc, l.dirty = 0) → (∀ la ∈ stampedLines (s.rdcOf (zIdx c)) cid c, (cid, la) ∈ y.2)
          ∧ (stampedLines (s.rdcOf (zIdx c)) cid c = [] → y.1 = s ∧ (∀ z, z ∈ y.2 ↔ z.1 = cid ∧ z.2 ∈ stampedLines s.home cid c)
            ∧ (stampedLines s.home cid c = [] → r0 = s)))
       ∧ ∀ (w : State) (n : Nat), s.kendReady c = true → ¬bad → r0.endsLate cid = false →
        t.engineWrite x.vis.csr.cid x.launch.caddr.toNat 8 x.completion
          (stampOf x.vis.csr.cid c x.seqs[(3 : Fin 15)]) = (w, .inl n) →
        ∃ r, exec .kendComplete s = .next r ∧ (r.core c).st = .idle ∧ (r.core c).replay = none
          ∧ (∀ h : Fin 8, (r.core c).vis.sh[h] = .free)
          ∧ ⟨s.zc + 1, .cellsLive, ⟨c, 0, [1], []⟩⟩ ∈ r.agenda ∧ r.mem = w.mem ∧ r.home = w.home
          ∧ (∀ p ∈ r.pins, ¬(p.cid = x.vis.csr.cid ∧ p.core = c)))

/-- SHAPE.ALLOC of a FREE handle completes: the handle is ALLOCATING, the token PENDING, and the request reaches the allocator
of the core's Cumulus die in arrival order, one every 2 cycles. SHAPE.FREE, CUT and CHAIN of LIVE handles complete: the
handles named are DRAINING, the token PENDING, and C holds for the drain report. SHAPE.QRY completes with its word landing 8
cycles after issue. What breaks R181 to R184 traps, and nothing else does. The rectangle SHAPE.ALLOC finds (R181, R250): free
cells inside the grid of 8 by 8; the hinted origin first, then even left columns, then odd ones, each in ascending order of
top row and left column, so that nothing earlier would do. The rectangle SHAPE.CHAIN makes (R184) is the cells of its two shapes,
which have none in common, and where it finds none there is none. -/
def Obligations.Shapes : Prop :=
  (
    ∀ (s : State) (u : Cluster) (k a d : Fin 64) (j h : Fin 8),
      let c := s.turn.core
      let arrival := s.zc + s.lat (zenithOf c) (cumulusOf c) + 4
      let st (x : Fin 8) : ShSt := s.me.old.sh[x]
      let b := (s.rg a).toNat
      let g := s.me.shape[h]
      let ready := (s.tok k).st ≠ .pending
      let held (hs : List (Fin 8)) (m : Cmd) : State :=
        ((s.modMe fun q => hs.foldl (fun q x => q.setRecord x .draining) (q.pend k)).addCmd m).holds (.reshape m.id)
      let reshapes (i : Instr) (ok : Prop) (hs : List (Fin 8)) : Prop :=
        (∀ v, ok → (s.holds (.reshape s.nextId)).goesTo v → ∃ m : Cmd, m.op = i ∧ m.tok = k ∧ m.id = s.nextId ∧ m.at_ = arrival
          ∧ exec i s = .next (((held hs m).at_ arrival .drainPoint ⟨c, m.id, [], []⟩).settle v 0))
        ∧ (¬ok → exec i s = .next (s.raise causeState 0))
      (s.goesTo u → b < 2 ^ 13 → st h = .free → ready → ∃ m : Cmd, m.op = .shapeAlloc k a h ∧ m.tok = k ∧ m.id = s.nextId
        ∧ (let x := max arrival s.allocAt[(cumIdx c)]
           exec (.shapeAlloc k a h) s = .next ((State.first
            { ((s.modMe fun q => (q.pend k).setRecord h .allocating).addCmd m) with
              allocAt := s.allocAt.set (cumIdx c) (x + 2) } x .allocatorServe ⟨c, m.id, [], []⟩).settle u 0)))
      ∧ (2 ^ 13 ≤ b ∨ st h ≠ .free ∨ ¬ready → exec (.shapeAlloc k a h) s = .next (s.raise causeState 0))
      ∧ reshapes (.shapeFree k h) (ready ∧ st h = .live) [h]
      ∧ reshapes (.shapeCut k a j h) (ready ∧ st h = .live ∧ st j = .free ∧ h ≠ j ∧ b < 16 ∧ 0 < b / 2 % 8
          ∧ b / 2 % 8 < if b % 2 = 0 then g.d else g.w) [h, j]
      ∧ reshapes (.shapeChain k j h) (ready ∧ st h = .live ∧ st j = .live ∧ h ≠ j ∧ joinRect g s.me.shape[j] ≠ none) [h, j]
      ∧ (s.goesTo u → exec (.shapeQry d h) s = .next (((s.modMe fun q =>
          { q with cpend := q.cpend ++ [⟨d, s.shapeWord c h⟩] }).first (s.zc + 7) .cResultLands ⟨c, d.val, [], []⟩).settle u 0)))
  ∧ (
    ∀ (cells : Sparse (Fin 64 × Fin 8)) (x : Dword) (top left : Nat),
      let d := x.toNat % 8 + 1
      let w := x.toNat / 8 % 8 + 1
      let free (t l : Nat) : Prop := t + d ≤ 8 ∧ l + w ≤ 8 ∧ ∀ r < d, ∀ y < w, sget (8 * (t + r) + (l + y)) cells = none
      let hint := x.getLsbD 12 = true ∧ top = x.toNat / 2 ^ 6 % 8 ∧ left = x.toNat / 2 ^ 9 % 8
      (findRect cells x = none → ∀ t l, ¬free t l)
      ∧ (findRect cells x = some (top, left) → free top left
          ∧ (hint ∨ ((x.getLsbD 12 = true → ¬free (x.toNat / 2 ^ 6 % 8) (x.toNat / 2 ^ 9 % 8))
              ∧ ∀ t l, free t l → (left % 2 < l % 2 ∨ (left % 2 = l % 2 ∧ (top < t ∨ (top = t ∧ left ≤ l))))))))
  ∧ (
    ∀ (a b : Shape), 0 < a.d → 0 < a.w → 0 < b.d → 0 < b.w →
      let of (g : Shape) (r y : Nat) : Prop := g.top ≤ r ∧ r < g.top + g.d ∧ g.left ≤ y ∧ y < g.left + g.w
      -- the rectangle is made of the two shapes, which have no cell in common
      let whole (t l d w : Nat) : Prop := ∀ r y, ((t ≤ r ∧ r < t + d ∧ l ≤ y ∧ y < l + w) ↔ of a r y ∨ of b r y) ∧ ¬(of a r y ∧ of b r y)
      (∀ t l d w, joinRect a b = some (t, l, d, w) → whole t l d w)
      ∧ (joinRect a b = none → ∀ t l d w, ¬whole t l d w))

/-- The events of shapes. ALLOCATOR_SERVE gives the rectangle found to the handle, its cells LIVE 128 counts later, or reports
0x20. DRAIN_POINT acts once every queue it names is empty, its report leaving at once. CELLS_LIVE reports, freeing a freed
handle's cells, or at the end of a KEND those of the core. SHAPE_REPORT sets the token DONE or failed and the record LIVE or
FREE. DRAIN_REPORT lets C go on. FREE_CELL_REPORT sets the distributor's view of a die's cells, or of Aurora's entries (R181,
R182, R259, R260, R261, R291). The change of a reshape, made at its drain point with every queue it names empty (R182, R183,
R184, R254, R260): a CUT leaves the first `pos` rows or columns to sh and gives the rest to sh2; a CHAIN gives sh the union
(joinRect, whose value O18's statement fixes) and leaves sh2 nothing; either leaves B zero, and its cells are LIVE 128 counts later. -/
def Obligations.ShapeEvents : Prop :=
  (
    ∀ (s : State) (m : Cmd) (k a : Fin 64) (j h : Fin 8),
      let c := s.ev.core
      let i := cumIdx c
      let report := s.zc + s.lat (cumulusOf c) (zenithOf c)
      let x : Dword := BitVec.ofNat 64 (m.args.getD 0 0)
      ((s.core c).cmd s.ev.id = some m →
        (m.op = .shapeAlloc k a h → findRect s.cells[i] x = none →
          exec .allocatorServe s = .next (s.at_ report .shapeReport ⟨c, m.id, [0x20], []⟩))
        ∧ (∀ top left, m.op = .shapeAlloc k a h → findRect s.cells[i] x = some (top, left) → ∃ t : State,
            exec .allocatorServe s = .next (t.at_ (s.zc + 128) .cellsLive ⟨c, m.id, [], []⟩)
            ∧ (let g := (t.core c).shape[h]
               (g.top, g.left, g.d, g.w) = (top, left, x.toNat % 8 + 1, x.toNat / 8 % 8 + 1) ∧ g.queue = [] ∧ g.keptB = [])
            ∧ (∀ n, sget n t.cells[i] = if n ∈ rectCells top left (x.toNat % 8 + 1) (x.toNat / 8 % 8 + 1) then some (c, h)
                else sget n s.cells[i]))
        ∧ (m.op = .shapeFree k h → m.chain = 0 → m.at_ ≤ s.zc → ((s.core c).shape[h]).queue = [] →
            exec .drainPoint s = .next (((s.modCore c fun q => q.modCmd m.id fun y => { y with chain := 1 }).at_ report
              .drainReport ⟨c, m.id, [], []⟩).at_ (s.zc + 1) .cellsLive ⟨c, m.id, [], []⟩))
        ∧ (m.op = .shapeFree k h → ((s.core c).shape[h]).queue ≠ [] → exec .drainPoint s = .next s)
        ∧ (s.arg 0 ≠ 1 → m.op = .shapeAlloc k a h ∨ m.op = .shapeCut k a j h ∨ m.op = .shapeChain k j h →
            exec .cellsLive s = .next (s.at_ report .shapeReport ⟨c, m.id, [0], []⟩))
        ∧ (s.arg 0 ≠ 1 → m.op = .shapeFree k h → Rising s.cells[i] → ∃ t : State,
            exec .cellsLive s = .next (t.at_ report .shapeReport ⟨c, m.id, [0], []⟩) ∧ ((t.core c).shape[h]).cells = []
            ∧ ∀ n, sget n t.cells[i] = if sget n s.cells[i] = some (c, h) then none else sget n s.cells[i])
        ∧ (s.arg 0 = 0 → exec .shapeReport s = .next ((s.finishDone c m).modCore c fun q => match m.op with
            | .shapeAlloc _ _ x => q.setRecord x .live
            | .shapeFree _ x => q.setRecord x .free
            | .shapeCut _ _ y x => (q.setRecord x .live).setRecord y .live
            | .shapeChain _ y x => (q.setRecord x .live).setRecord y .free
            | _ => q))
        ∧ (m.op = .shapeAlloc k a h → s.arg 0 ≠ 0 → exec .shapeReport s
            = .next ((s.finishFail c m (BitVec.ofNat 8 (s.arg 0))).modCore c fun q => q.setRecord h .free)))
      ∧ exec .drainReport s = .next (s.modCore c fun q => q.release .c (· == .reshape s.ev.id) (s.zc + 1))
      ∧ (s.arg 0 = 1 → Rising s.cells[i] → ∃ t, exec .cellsLive s = .next t
          ∧ ∀ n, sget n t.cells[i] = if ((sget n s.cells[i]).map (·.1)) = some c then none else sget n s.cells[i])
      ∧ exec .freeCellReport s = .next (if s.arg 0 = 4 then { s with nbView := s.arg 1 }
          else { s with view := s.view.set (Fin.ofNat 4 (s.arg 0)) (s.arg 1) }))
  ∧ (
    ∀ (s : State) (m : Cmd) (k a : Fin 64) (j h : Fin 8),
      let c := s.ev.core
      let geo (x : State) (i : Fin 8) : Nat × Nat × Nat × Nat :=
        let g := (x.core c).shape[i]
        (g.top, g.left, g.d, g.w)
      let fresh (x : State) (i : Fin 8) : Prop := (x.core c).shape[i].queue = [] ∧ (x.core c).shape[i].keptB = []
      let g := (s.core c).shape[h]
      let e := (s.core c).shape[j]
      let owns (t : State) (cells : List Nat) (i : Fin 8) : Prop :=
        ∀ n, sget n t.cells[(cumIdx c)] = if n ∈ cells then some (c, i) else sget n s.cells[(cumIdx c)]
      let done (t : State) : Prop := exec .drainPoint s
        = .next ((t.at_ (s.zc + s.lat (cumulusOf c) (zenithOf c)) .drainReport ⟨c, m.id, [], []⟩).at_ (s.zc + 128) .cellsLive
          ⟨c, m.id, [], []⟩)
      (s.core c).cmd s.ev.id = some m → m.chain = 0 → m.at_ ≤ s.zc → h ≠ j → g.queue = [] → e.queue = [] →
      (m.op = .shapeCut k a j h → ∀ pos, m.args = [0, pos] → ∃ t : State, done t ∧ fresh t h ∧ fresh t j
        ∧ geo t h = (g.top, g.left, pos, g.w) ∧ geo t j = (g.top + pos, g.left, g.d - pos, g.w)
        ∧ owns t (rectCells (g.top + pos) g.left (g.d - pos) g.w) j)
      ∧ (m.op = .shapeCut k a j h → ∀ pos, m.args = [1, pos] → ∃ t : State, done t ∧ fresh t h ∧ fresh t j
        ∧ geo t h = (g.top, g.left, g.d, pos) ∧ geo t j = (g.top, g.left + pos, g.d, g.w - pos)
        ∧ owns t (rectCells g.top (g.left + pos) g.d (g.w - pos)) j)
      ∧ (m.op = .shapeChain k j h → ∀ r, joinRect g e = some r → ∃ t : State, done t ∧ fresh t h ∧ fresh t j
        ∧ geo t h = r ∧ geo t j = (0, 0, 0, 0) ∧ owns t (rectCells r.1 r.2.1 r.2.2.1 r.2.2.2) h))

/-- CBSET writes one doubleword of a block with g[ga] and CBCLR writes all eight as zero, at the end of their issue cycle, so
that an MX word of the same cycle copies the old block; a value that breaks a rule of R189 traps with the rule's code and
writes nothing (R187, R189). HSEED sets SEED := g[ga][15:0] at the end of its issue cycle, a non-zero g[ga][63:16] traps, and
the slots that queued commands captured keep the seed they hold (R209). The rules of R189 on a doubleword of a command block,
as the CODE of the first it breaks in the table's order (the model's reading, log 47: R189 gives no order): reserved bits
0x01; M, K and N 0x02; the A operand's group, offset and pitch 0x03; B's 0x04; tiles 0x05; K of a DX format 0x06. -/
def Obligations.CommandBlocks : Prop :=
  (
    ∀ (s : State) (u : Cluster) (b : Fin 16) (a : Fin 64) (d : Fin 8), s.goesTo u →
      let wr (f : Vector Dword 8 → Vector Dword 8) : State := s.modMe fun k => k.modVis fun v => { v with cb := v.cb.set b (f v.cb[b]) }
      (cbRule d (s.rg a) s.ftEntry = none → exec (.cbset b a d) s = .next ((wr fun x => x.set d (s.rg a)).settle u 0))
      ∧ (∀ code, cbRule d (s.rg a) s.ftEntry = some code → exec (.cbset b a d) s = .next (s.raise causeState code))
      ∧ exec (.cbclr b) s = .next ((wr fun _ => Vector.replicate 8 0).settle u 0)
      ∧ (∀ f, (wr f).me.old.cb = s.me.old.cb))
  ∧ (
    ∀ (s : State) (u : Cluster) (h : Fin 16) (a : Fin 64), s.goesTo u →
      ((s.rg a).toNat < 2 ^ 16 → ∃ t, exec (.hseed h a) s = .next t
        ∧ t = (s.modMe fun k => k.modVis fun v => { v with slot := v.slot.set h { v.slot[h] with seed := (s.rg a).extractLsb' 0 16 } }).settle u 0
        ∧ (t.me.vis.slot[h]).seed = (s.rg a).extractLsb' 0 16 ∧ t.me.old.slot = s.me.old.slot
        ∧ t.me.shape = s.me.shape ∧ t.me.cmds = s.me.cmds)
      ∧ (2 ^ 16 ≤ (s.rg a).toNat → exec (.hseed h a) s = .next (s.raise causeState 0)))
  ∧ (
    ∀ (x : Dword) (fmt : Fin 8 → Word),
      let f (lo n : Nat) : Nat := x.toNat / 2 ^ lo % 2 ^ n
      let operand (group : Nat) : Prop :=
        f 21 1 = group ∧ f 0 21 % 64 = 0 ∧ f 24 16 % 64 = 0 ∧ 64 ≤ f 24 16 ∧ f 24 16 ≤ 65472
      let dims : Prop := (1 ≤ f 0 21 ∧ f 0 21 ≤ 2 ^ 20) ∧ (1 ≤ f 32 11 ∧ f 32 11 ≤ 1024) ∧ 1 ≤ f 48 11 ∧ f 48 11 ≤ 1024
      let dx : Prop := 11 ≤ (fmt (Fin.ofNat 8 (f 60 3))).toNat % 16 ∧ (fmt (Fin.ofNat 8 (f 60 3))).toNat % 16 ≤ 13
      (f 21 11 ≠ 0 ∨ f 43 5 ≠ 0 ∨ f 63 1 ≠ 0 → cbRule 0 x fmt = some 0x01)
      ∧ (f 21 11 = 0 → f 43 5 = 0 → f 63 1 = 0 →
          (¬dims → cbRule 0 x fmt = some 0x02) ∧ (dims → dx → f 32 11 % 32 ≠ 0 → cbRule 0 x fmt = some 0x06)
          ∧ (dims → (dx → f 32 11 % 32 = 0) → cbRule 0 x fmt = none))
      ∧ (f 22 2 ≠ 0 ∨ f 56 8 ≠ 0 → cbRule 1 x fmt = some 0x01) ∧ (f 23 1 ≠ 0 ∨ f 56 8 ≠ 0 → cbRule 2 x fmt = some 0x01)
      ∧ (f 22 10 ≠ 0 → cbRule 3 x fmt = some 0x01)
      ∧ (f 22 2 = 0 → f 56 8 = 0 → cbRule 1 x fmt = (if operand 0 then none else some 0x03))
      ∧ (f 23 1 = 0 → f 56 8 = 0 → cbRule 2 x fmt = (if operand 1 then none else some 0x04))
      ∧ (f 22 10 = 0 → cbRule 3 x fmt = (if f 0 4 ≤ 11 ∧ f 9 4 ≤ 11 ∧ f 18 4 ≤ 11 then none else some 0x05))
      ∧ cbRule 4 x fmt = none ∧ cbRule 5 x fmt = none ∧ cbRule 6 x fmt = none
      ∧ cbRule 7 x fmt = (if x.toNat < 2 ^ 8 then none else some 0x01))

/-- The 256-bit image of a basis slot (R21): every field has its place, so that a slot read from its own image is the slot.
HBLOAD and HBSTORE complete when the token is not PENDING, the address is a multiple of 32, no queued matrix or Nimbus command
names the slot and the pages admit them: the token becomes PENDING and the transfer ends at an open count; the first three
otherwise trap (R159, R161, R208). SLOT_TRANSFER_COMPLETE. A load whose pages are reached and whose image passes its checks sets
the slot and the basis elements of region(GEN), and of region(GEN + 1) when PREADY, from what was read; one whose image fails
them fails with 0x24 and changes no slot; one whose page is refused fails with 0x10 and ends the context. A store writes the slot
as it stood at issue with its regions. Either then sets its token DONE (R203, R208, R226). Model's choices: a store's fields as at
issue and its elements as at completion (log 101), under the writer stamp of an engine's write (log 41). -/
def Obligations.BasisSlots : Prop :=
  (
    (∀ x : Slot, Slot.ofImage x.image = x)
    ∧ ∀ (n : Nat) (lo w : Nat), let f := n / 2 ^ lo % 2 ^ w
        let x := Slot.ofImage n
        (lo = 0 → w = 19 → x.boff.toNat = f) ∧ (lo = 32 → w = 20 → x.rows.toNat = f) ∧ (lo = 64 → w = 9 → x.rank.toNat = f)
        ∧ (lo = 80 → w = 7 → x.kw.toNat = f) ∧ (lo = 96 → w = 32 → x.rowoff.toNat = f) ∧ (lo = 128 → w = 16 → x.gen.toNat = f)
        ∧ (lo = 144 → w = 16 → x.pgen.toNat = f) ∧ (lo = 160 → w = 1 → x.pvalid.toNat = f)
        ∧ (lo = 161 → w = 1 → x.pready.toNat = f) ∧ (lo = 162 → w = 1 → x.pfail.toNat = f)
        ∧ (lo = 163 → w = 8 → x.pcode.toNat = f) ∧ (lo = 176 → w = 16 → x.seed.toNat = f)
        ∧ (lo = 192 → w = 64 → x.swstep.toNat = f))
  ∧ (
    ∀ (s : State) (u : Cluster) (h : Fin 16) (a k : Fin 64),
      let bad := (s.tok k).st = .pending ∨ (s.rg a).toNat % 32 ≠ 0 ∨ s.me.namesSlot h = true
      let spec (i : Instr) : Prop :=
        (bad → exec i s = .next (s.raise causeState 0))
        ∧ (¬bad → s.admits i → s.goesTo u → ∃ (m : Cmd) (w : Nat), m.op = i ∧ m.tok = k ∧ m.id = s.nextId
          ∧ m.args = [(s.rg a).toNat] ∧ m.slot = s.me.old.slot[h]
          ∧ exec i s = .next ((((s.modMe fun c => c.pend k).addCmd m).later 1 w .slotTransferComplete
              ⟨s.turn.core, m.id, [], []⟩).settle u 0))
      spec (.hbload h a k) ∧ spec (.hbstore h a k))
  ∧ (
    ∀ (s t w : State) (m : Cmd) (h : Fin 16) (a k : Fin 64) (img d : Nat) (e : Nat × Nat),
      let c := s.ev.core
      let q := s.core c
      let cid := q.vis.csr.cid
      let base := m.args.getD 0 0
      let x := Slot.ofImage img
      Rising q.basis → q.cmd s.ev.id = some m → m.gone = false → ¬s.drains →
      let old := basisRead q.basis (m.slot.region m.slot.gen.toNat) m.slot.elems
      let new := basisRead q.basis (m.slot.region (m.slot.gen.toNat + 1)) m.slot.elems
      (m.op = .hbload h a k → s.engineRead cid base 32 = (t, .inl img) →
        t.engineRead cid (base + 32) (x.imageBytes - 32) = (w, .inl d) →
        (x.imageOk = false → exec .slotTransferComplete s = .next (w.finishFail c m 0x24))
        ∧ (x.imageOk = true → ∃ r, exec .slotTransferComplete s = .next r ∧ (r.core c).vis.slot[h] = x
            ∧ (r.core c).vis.tok[m.tok] = ⟨.done, 0, none⟩ ∧ r.mem = w.mem
            ∧ ∀ i < x.elems, (srd 0 (x.region x.gen.toNat + i) (r.core c).basis).toNat = d / 2 ^ (16 * i) % 2 ^ 16
              ∧ (x.pready = true → (srd 0 (x.region (x.gen.toNat + 1) + i) (r.core c).basis).toNat
                = d / 2 ^ (16 * (x.elems + i)) % 2 ^ 16)))
      ∧ (m.op = .hbload h a k → s.engineRead cid base 32 = (t, .inr e) → exec .slotTransferComplete s
          = .next ((t.finishFail c m 0x10).accessEnd c m.cl m.cl.code m.pc e.1 e.2))
      ∧ (m.op = .hbstore h a k → ∀ n,
          s.engineWrite cid base m.slot.imageBytes (m.slot.image + 2 ^ 256 * bytesNat
            ((old ++ if m.slot.pready then new else []).map (natBytes 2)).flatten)
            (stampOf cid c q.seqs[(3 : Fin 15)]) = (t, .inl n) →
          exec .slotTransferComplete s = .next (t.finishDone c m)))

/-- NBQR, NBROT, NBCARRY and NBSWITCH complete when their token is not PENDING, their auxiliary word, consumed tokens and limits
are legal and their pages admit them: the token becomes PENDING and the command is queued with the slot as it stands; NBSWITCH
also records the switch: PGEN = GEN + 1, SWSTEP, PVALID (R210, R211, R214, R349). Started, an NBSWITCH whose switch is still the
recorded one sets PREADY and its token DONE (R214). NIMBUS_COMPLETE writes the matrices of its result, one of NBQR and NBROT and
two of NBCARRY, and sets its token DONE, or, for NBQR, waits to write its basis; a result with a code fails the token with it.
NBQR_BASIS_WRITE writes the BF16 rows to region(GEN + 1) once no earlier command reads that region (R203, R210, R211, R212,
R213). NBROT (R212): from finite inputs whose results are finite, element (i, j) of C is the sum over the rows, in ascending
order and each step rounded once, of the products of column i of P_new and column j of P_old. NBQR (R211): two passes,
each taking a column less its parts along the columns done, in their order, and dividing it by its norm, each step rounded once;
REGION, NOT FINITE and RANK DEFICIENT where R211 says so (REGION first, then an element of Y that is not finite, the model's choice,
log 102). NBCARRY (R213): both moments rotated, the second by the squares of C, or zero with RESET; a NaN or infinity among its
inputs fails it. The writer stamp of what they write is the model's choice (log 41). -/
def Obligations.NimbusCommands : Prop :=
  (
    ∀ (s : State) (u : Cluster) (k a : Fin 64) (h : Fin 16) (rs : Bool),
      let x := s.quadAt a
      let y := s.me.old.slot[h]
      let dim := x.2.2.2.toNat / 2 ^ 32 % 2 ^ 24
      let ts := auxToks x.2.2.2
      let common : Prop := (s.tok k).st ≠ .pending ∧ nbAuxOk x.2.2.2 = true ∧ ∀ t ∈ ts, (s.tok t).st ≠ .empty ∧ t ≠ k
      let words : Prop := x.1.toNat % 4 = 0 ∧ x.2.1.toNat % 4 = 0 ∧ x.2.2.1.toNat % 4 = 0 ∧ dim ≠ 0
      let queued (i : Instr) (f : Nat → Core → Core) : Prop := s.admits i → s.goesTo u → ∃ m : Cmd, m.op = i ∧ m.tok = k
        ∧ m.quad = x ∧ m.waits = ts.map (fun t => (t, false)) ∧ m.slot = y ∧ m.started = false
        ∧ exec i s = .next (((s.modMe fun c => f m.id (c.pend k)).addCmd m).settle u 0)
      let spec (i : Instr) (ok : Prop) (f : Nat → Core → Core) : Prop :=
        (common → ok → queued i f) ∧ (¬(common ∧ ok) → exec i s = .next (s.raise causeState 0))
      spec (.nbqr k a h) (words ∧ x.2.2.1 = 0 ∧ y.rank.toNat ≤ y.kw.toNat) (fun _ c => c)
      ∧ spec (.nbrot k a h) words (fun _ c => c)
      ∧ spec (.nbcarry k a rs h) words (fun _ c => c)
      ∧ spec (.nbswitch k a h) (x.2.1 = 0 ∧ x.2.2.1 = 0 ∧ dim = 0 ∧ y.pvalid = false ∧ s.csr.step < x.1) (fun id c =>
          { c.modVis (fun v => { v with slot := v.slot.set h { v.slot[h] with
              pgen := (v.slot[h]).gen + 1, swstep := x.1, pvalid := true, pfail := false, pcode := 0 } }) with
            switch := c.switch.set h (some id) }))
  ∧ (
    ∀ (s t v w : State) (m : Cmd) (k a : Fin 64) (h : Fin 16) (rs : Bool) (addr b : Nat) (xs ys bf : List Nat) (code n o : Nat),
      let c := s.ev.core
      let q := s.core c
      let cid := q.vis.csr.cid
      let stamp := stampOf cid c q.seqs[(3 : Fin 15)]
      let bytes (zs : List Nat) : Nat := bytesNat (zs.map (natBytes 4)).flatten
      (q.cmd s.ev.id = some m →
        (s.nimbusRun cid m = (t, .inl (.inr code)) →
          exec .nimbusComplete s = .next (t.finishFail c m (BitVec.ofNat 8 code)))
        ∧ (s.nimbusRun cid m = (t, .inl (.inl ([(addr, xs)], bf))) →
            t.engineWrite cid addr (4 * xs.length) (bytes xs) stamp = (w, .inl n) →
            (m.op = .nbrot k a h → exec .nimbusComplete s = .next (w.finishDone c m))
            ∧ (m.op = .nbqr k a h → exec .nimbusComplete s = .next (w.modCore c fun q => q.modCmd m.id fun y =>
                { y with data := rof ((bf.map (natBytes 2)).flatten), chain := 1 })))
        ∧ (m.op = .nbcarry k a rs h → s.nimbusRun cid m = (t, .inl (.inl ([(addr, xs), (b, ys)], bf))) →
            t.engineWrite cid addr (4 * xs.length) (bytes xs) stamp = (v, .inl n) →
            v.engineWrite cid b (4 * ys.length) (bytes ys) stamp = (w, .inl o) →
            exec .nimbusComplete s = .next (w.finishDone c m)))
      ∧ (q.starting s.zc = some m → m.op = .nbswitch k a h → m.gone = false → ∃ r, exec .commandStart s = .next r
          ∧ (r.core c).vis.tok[m.tok] = ⟨.done, 0, none⟩ ∧ r.mem = s.mem
          ∧ ((r.core c).vis.slot[h]) = if q.switch[h] = some m.id then { q.vis.slot[h] with pready := true } else q.vis.slot[h])
      ∧ (Rising q.basis → q.basisReady = some m → m.gone = false → ∃ r, exec .nbqrBasisWrite s = .next r
          ∧ (r.core c).vis.tok[m.tok] = ⟨.done, 0, none⟩ ∧ r.mem = s.mem
          ∧ ∀ i < m.slot.elems, (srd 0 (m.slot.region (m.slot.gen.toNat + 1) + i) (r.core c).basis).toNat
              = bytesNat (rlist m.data) / 2 ^ (16 * i) % 2 ^ 16))
  ∧ (
    ∀ (r m out pn po : Nat) (xs : List Nat) (bf : List Nat),
      let el (x i j : Nat) : Nat := x / 2 ^ (32 * (i * r + j)) % 2 ^ 32
      nbrotRun r m out pn po = .inl ([(out, xs)], bf) →
      xs.length = r * r ∧ bf = []
      ∧ (∀ i < m, ∀ j < r, finite32 (el pn i j) = true ∧ finite32 (el po i j) = true)
      ∧ ∀ i < r, ∀ j < r, xs.getD (i * r + j) 0
          = (List.range m).foldl (fun acc q => fma32 (el pn q i) (el po q j) acc) 0)
  ∧ (
    ∀ (slot : Slot) (m out y : Nat),
      let r := slot.rank.toNat
      let kw := slot.kw.toNat
      let lo := slot.rowoff.toNat
      let rows := slot.rows.toNat
      let el (i j : Nat) : Nat := y / 2 ^ (32 * (i * kw + j)) % 2 ^ 32
      let dot (p q : Nat → Nat) : Nat := (List.range m).foldl (fun d i => fma32 (p i) (q i) d) 0
      -- column x less its part along a column q that is done, and x divided by its norm
      let less (x q : Nat → Nat) (i : Nat) : Nat := fnma32 (dot q x) (q i) (x i)
      let unit (x : Nat → Nat) (i : Nat) : Nat := div32 (x i) (sqrtF fp32 (fp32.decode (dot x x))).1
      let pass (cols : List (Nat → Nat)) : List (Nat → Nat) := cols.foldl (fun done x => done ++ [unit (done.foldl less x)]) []
      let new (i j : Nat) : Nat := (pass (pass ((List.range kw).map fun j i => el i j))).getD j (fun _ => 0) i
      let outside : Prop := m < lo + rows ∨ 524288 < slot.region (slot.gen.toNat + 1) + slot.elems
      (outside → nbqrRun slot m out y = .inr 0x25)
      ∧ (¬outside → (∃ i < m, ∃ j < kw, finite32 (el i j) = false) → nbqrRun slot m out y = .inr 0x27)
      ∧ (¬outside → 0 < kw → (∀ i < m, ∀ j < kw, finite32 (el i j) = true) → (∀ i < m, el i 0 % 2 ^ 31 = 0) →
          nbqrRun slot m out y = .inr 0x26)
      ∧ ∀ (xs bf : List Nat) (o : Nat), r ≤ kw → nbqrRun slot m out y = .inl ([(o, xs)], bf) →
          o = out ∧ xs.length = m * r ∧ bf.length = rows * r
          ∧ (∀ i < m, ∀ j < r, xs.getD (i * r + j) 0 = new i j)
          ∧ ∀ i < rows, ∀ j < r, bf.getD (i * r + j) 0 = (bf16.ofFV (fp32.decode (new (lo + i) j))).1)
  ∧ (
    ∀ (r n am av c mo v : Nat) (reset : Bool),
      let el (x cols i j : Nat) : Nat := x / 2 ^ (32 * (i * cols + j)) % 2 ^ 32
      let bad : Prop := (∃ i < r, ∃ j < r, finite32 (el c r i j) = false)
        ∨ ∃ i < r, ∃ j < n, finite32 (el mo n i j) = false ∨ (reset = false ∧ finite32 (el v n i j) = false)
      (bad → nbcarryRun r n reset am av c mo v = .inr 0x27)
      ∧ ∀ (a b : Nat) (xs ys bf : List Nat), nbcarryRun r n reset am av c mo v = .inl ([(a, xs), (b, ys)], bf) →
          a = am ∧ b = av ∧ bf = [] ∧ xs.length = r * n ∧ ys.length = r * n
          ∧ ∀ i < r, ∀ j < n,
              xs.getD (i * n + j) 0 = (List.range r).foldl (fun x q => fma32 (el c r i q) (el mo n q j) x) 0
              ∧ ys.getD (i * n + j) 0 = if reset then 0 else
                  (List.range r).foldl (fun x q => fma32 (mul32 (el c r i q) (el c r i q)).1 (el v n q j) x) 0)

/-- The checks of an access word, in order (R158, R159, R371): a byte at or above 2⁴⁸ traps; a page whose home die is under
reset, or one whose memory is not ready (the model's choice, log 80), ends the context; while the permissions of a page are unknown the word has not issued and nothing changes; a page that
refuses the access is its precise fault, 0x0A when it is not mapped and 0x08 otherwise; else the access goes on. -/
def Obligations.AccessChecks : Prop :=
  ∀ (s go : State) (xs : List Span),
    let busy (x : Span) : Prop := ∃ p ∈ pagesOf x.a x.n, s.dieBusy (homeDie (p * 2 ^ 21)).val = true
    let known (x : Span) : Prop := ∀ p ∈ pagesOf x.a x.n, (s.me.pageAns s.turn.cl p).isSome = true
    let allowed (x : Span) : Prop :=
      ∀ p ∈ pagesOf x.a x.n, ∀ a, s.me.pageAns s.turn.cl p = some a → a.meets x.need = true
    let fits : Prop := ∀ x ∈ xs, x.n = 0 ∨ x.a + x.n ≤ 2 ^ 48
    (¬fits → s.access xs go = s.raise causeState 0)
    ∧ (fits → (∃ x ∈ xs, busy x) → s.access xs go = s.endCtx s.csr.cid 0x25 (zenithOf s.turn.core))
    ∧ (fits → (∀ x ∈ xs, ¬busy x) → (∃ x ∈ xs, ¬known x) → s.access xs go = s)
    ∧ (fits → (∀ x ∈ xs, ¬busy x ∧ known x ∧ allowed x) → s.access xs go = go)
    ∧ (fits → (∀ x ∈ xs, ¬busy x ∧ known x) → (∃ x ∈ xs, ¬allowed x) → ∃ (x : Span) (p : Nat) (a : PageAns),
        x ∈ xs ∧ p ∈ pagesOf x.a x.n ∧ s.me.pageAns s.turn.cl p = some a ∧ a.meets x.need = false
        ∧ s.access xs go = s.raiseAt (if a = .none then causeTrans else causePerm) (max (p * 2 ^ 21) x.a))

/-- Vector and scalar loads (R160, R163, R164, R165, R166, R167): misaligned they trap; admitted by their pages and stalled by
no rule of their queue (what counts against the 3072 line requests is log 16) they bind what their ranges hold now, at their issue
(the model's reading, log 10: R273 leaves the time open), and their landing comes at an open count; LDA and a CHKA that misses
also enter the address table; a CHKA that finds its entry makes no access. With ERRINJ armed for TARGET 1 or 2, the first of them
that a line of the block cache serves disarms it: TARGET 1 counts a corrected error and lets the value land, TARGET 2 leaves an
error record and no value (R366, R367, R369; which access takes it is log 45). The strided load and the gather (R164): 48 rows
of 512 bytes at multiples of the pitch; elements of 4 bytes at base plus offset plus index, an index of all ones loading zero
without an access. LOAD_LANDS writes the register of its load, and the load and every earlier one into the same register are
outstanding no more (R16, R160, R273). -/
def Obligations.Loads : Prop :=
  -- the outcome of a load that binds `val`, when its reads have left the state `t` and were served by `served`
  let lands (s t : State) (u : Cluster) (served : List (Nat × Level)) (val : LoadVal) (ef : Core → Core)
      (o : Host.Outcome State Fault Refusal) : Prop :=
    let tgt := s.csr.errinj.toNat / 2 % 8
    let hit : Prop := s.csr.errinj.getLsbD 0 = true ∧ (tgt = 1 ∨ tgt = 2) ∧ ∃ la, (la, Level.block) ∈ firstServed served
    let d := zenithOf s.turn.core
    (¬hit → ∃ (m : Load) (w z : Nat), m.id = t.nextId ∧ m.val = val
      ∧ o = .next ((((t.modMe fun k => { k with loads := k.loads ++ [m] }).bump.later w z .loadLands
        ⟨s.turn.core, m.id, [], []⟩).modMe ef).settle u 0))
    ∧ (hit → ∃ (r : State) (m : Load), o = .next r ∧ m.val = val ∧ r.me.vis.csr.errinj.getLsbD 0 = false
      ∧ (tgt = 1 → r.me.loads = t.me.loads ++ [m] ∧ r.regs.errhead = t.regs.errhead
        ∧ r.regs.cecnt[d] = if t.regs.cecnt[d] = BitVec.allOnes 32 then t.regs.cecnt[d] else t.regs.cecnt[d] + 1)
      ∧ (tgt = 2 → r.me.loads = t.me.loads ∧ r.regs.errhead = t.regs.errhead + 1))
  (
    ∀ (s t : State) (u : Cluster) (v a : Fin 16) (g x : Fin 64) (n : Fin 32) (e : BitVec 13) (f : BitVec 8) (sz : LdSize)
      (ys : List Nat) (served : List (Nat × Level)),
      let la := s.me.la[a]
      let spec (i : Instr) (addr align len : Nat) (val : Nat → LoadVal) (ef : Core → Core) : Prop :=
        (addr % align ≠ 0 → exec i s = .next (s.raise causeState 0))
        ∧ (addr % align = 0 → s.admits i → s.memStall i = false → s.goesTo u →
            s.readAll [(addr, len)] = (t, .inl ys, served) → lands s t u served (val (ys.headD 0)) ef (exec i s))
        ∧ (addr % align = 0 → s.admits i → s.memStall i = true → exec i s = .next s)
      let vec (y : Nat) : LoadVal := .v v (rof (natWords y 6144))
      let scalar (y : Nat) : LoadVal := .g g (LdSize.extend sz y)
      let enter (y : Nat) (k : Core) : Core := { k with lda := k.lda.set n (some (y, s.zc)) }
      let ld := (la + 4 * BitVec.ofInt 64 e.toInt).toNat
      let ix := (la + s.rg x).toNat
      spec (.ld v a e) ld 4 24576 vec id
      ∧ spec (.lds a g sz f) (la + BitVec.ofNat 64 (f.toNat * LdSize.bytes sz)).toNat (LdSize.bytes sz) (LdSize.bytes sz) scalar id
      ∧ spec (.lsg a g sz x) ix (LdSize.bytes sz) (LdSize.bytes sz) scalar id
      ∧ spec (.lda v a x n) ix 4 24576 vec (enter ix)
      ∧ (s.me.lda[n].map (·.1) = some ix → s.goesTo u → exec (.chka v a x n) s = .next (s.settle u 0))
      ∧ (s.me.lda[n].map (·.1) ≠ some ix → spec (.chka v a x n) ix 4 24576 vec (enter ix)))
  ∧ (
    ∀ (s t : State) (u : Cluster) (v a j : Fin 16) (x : Fin 64) (ys : List Nat) (served : List (Nat × Level)),
      let rows := (List.range 48).map fun q => (s.me.la[a] + BitVec.ofInt 64 (q * (s.rg x).toInt)).toNat
      let ix := (rlist s.me.v[j]).take 6144
      let addr (i : Word) : Nat := (s.me.la[a] + s.rg x + BitVec.ofNat 64 i.toNat).toNat
      let live := ix.filter fun i => i ≠ 0xFFFFFFFF
      ((∃ r ∈ rows, r % 4 ≠ 0) → exec (.ldgStride v a x) s = .next (s.raise causeState 0))
      ∧ ((∀ r ∈ rows, r % 4 = 0) → s.admits (.ldgStride v a x) →
          s.memStall (.ldgStride v a x) = false → s.goesTo u → s.readAll (rows.map fun r => (r, 512)) = (t, .inl ys, served) →
          lands s t u served (.v v (rof ((ys.map fun y => natWords y 128).flatten))) id (exec (.ldgStride v a x) s))
      ∧ ((∃ i ∈ live, addr i % 4 ≠ 0 ∨ i.toNat % 4 ≠ 0) → exec (.ldgGather v a x j) s = .next (s.raise causeState 0))
      ∧ ((∀ i ∈ live, addr i % 4 = 0 ∧ i.toNat % 4 = 0) → s.admits (.ldgGather v a x j) →
          s.memStall (.ldgGather v a x j) = false → s.goesTo u →
          s.readAll (live.map fun i => (addr i, 4)) = (t, .inl ys, served) → ys.length = live.length → ∃ es : List Word,
          lands s t u served (.v v (rof es)) id (exec (.ldgGather v a x j) s) ∧ es.length = ix.length
          ∧ (∀ k < ix.length, ix.getD k 0 = 0xFFFFFFFF → es.getD k 0 = 0)
          ∧ (es.zip ix).filterMap (fun p => if p.2 = 0xFFFFFFFF then none else some p.1) = ys.map (BitVec.ofNat 32)))
  ∧ (
    ∀ (s : State) (l : Load), (s.core s.ev.core).loads.find? (·.id == s.ev.id) = some l → ∃ t, exec .loadLands s = .next t
      ∧ t.mem = s.mem ∧ (∀ c : Fin 64, c ≠ s.ev.core → t.core c = s.core c)
      ∧ (let k := s.core s.ev.core
         let q := t.core s.ev.core
         (∀ x, x ∈ q.loads ↔ x ∈ k.loads ∧ x.id ≠ l.id ∧ ¬(x.id < l.id ∧ x.val.sameDest l.val = true))
         ∧ match l.val with
           | .g r x => q.vis = k.vis.wg r x ∧ q.v = k.v
           | .v r x => q.vis = k.vis ∧ q.v = k.v.set r x))

/-- A core reads back from its block cache what a store of at most 32 KiB has written there, byte for byte, and, while no set
it reaches is full, every other byte of every line is as it was (R7, R160, R266; which sets there are is the model's choice, log
68). UNCACHED_STORE_PERFORMED writes the bytes of its store to device memory where the page is translated to, other bytes of
memory staying, or, refused, is the fault of its word (R306); while an earlier store of the core shares a byte with it, so that
the elements of one word are written in ascending order (R164), or its request may not go out yet, it comes again in the next
cycle (its count is the model's choice, log 16). Device memory (R7, R302, R304):
a byte written reads back, every other address reads as before, and the canonical form is kept. -/
def Obligations.StoredBytes : Prop :=
  (
    ∀ (s : State) (c : Fin 64) (cid d : BitVec 12) (a n x b : Nat) (stamp : BitVec 48),
      let t := s.storeBytes c cid a n x stamp
      let byte (w : State) (d : BitVec 12) (b : Nat) : Option Nat :=
        let l := lineOr (w.core c).bc d (b / 128)
        if l.valid.getLsbD (b % 128) then some (lineBytes l.data (b % 128) 1) else none
      let k := s.core c
      n ≤ 2 ^ 15 →
      (∀ la ∈ linesOf a n, ((k.heldWays la).filter fun x => (findLine k.bc k.vis.csr.cid x).isNone).length
        + (k.bc.filter fun l => blockSet l.la == blockSet la && !(l.la == la && l.cid == cid)).length < 16) →
      byte t d b = (if d = cid ∧ a ≤ b ∧ b < a + n then some (x / 2 ^ (8 * (b - a)) % 2 ^ 8) else byte s d b)
      ∧ t.mem = s.mem ∧ t.home = s.home ∧ ∀ e : Fin 64, e ≠ c → t.core e = s.core e)
  ∧ (
    ∀ (s w : State) (x : UStore) (f : Leaf),
      let c := s.ev.core
      let t := s.modCore c fun k => { k with ustores := k.ustores.filter (·.id != x.id) }
      (s.core c).ustores.find? (·.id == s.ev.id) = some x →
      ((s.core c).sent x.id = false ∨ (∃ y ∈ (s.core c).ustores, y.id < x.id ∧ ∃ b, y.addr ≤ b ∧ b < y.addr + rlen y.bytes
          ∧ x.addr ≤ b ∧ b < x.addr + rlen x.bytes) →
        exec .uncachedStorePerformed s = .next (s.at_ (s.zc + 1) .uncachedStorePerformed s.ev))
      ∧ ((s.core c).sent x.id = true → (∀ y ∈ (s.core c).ustores, y.id < x.id →
          y.addr + rlen y.bytes ≤ x.addr ∨ x.addr + rlen x.bytes ≤ y.addr) →
        t.xlate (s.core c).vis.csr.cid (x.addr / 2 ^ 21) = (w, .ok f) → Memory.wf w.mem = true →
      ∃ r, exec .uncachedStorePerformed s = .next r ∧ (r.core c).ustores = (w.core c).ustores
        ∧ (∀ b, r.mem.byte b = if f.pa x.addr ≤ b ∧ b < f.pa x.addr + rlen x.bytes
            then rget 0 x.bytes (b - f.pa x.addr) else w.mem.byte b)
        ∧ Memory.wf r.mem = true))
  ∧ (
    ∀ (s w : State) (x : UStore) (r : Xl),
      let c := s.ev.core
      let t := s.modCore c fun k => { k with ustores := k.ustores.filter (·.id != x.id) }
      (s.core c).ustores.find? (·.id == s.ev.id) = some x →
      (s.core c).sent x.id = true → (∀ y ∈ (s.core c).ustores, y.id < x.id →
          y.addr + rlen y.bytes ≤ x.addr ∨ x.addr + rlen x.bytes ≤ y.addr) →
      t.xlate (s.core c).vis.csr.cid (x.addr / 2 ^ 21) = (w, r) → (∀ f, r ≠ .ok f) →
      exec .uncachedStorePerformed s = .next (w.accessEnd c .w 3 x.pc x.addr (if r = .synonym then 0x0B else 0x0A)))
  ∧ (
    ∀ (m : Memory) (a b n x mask : Nat) (v : Byte), Memory.wf m = true →
      Memory.wf (m.setByte a v) = true ∧ (m.setByte a v).byte b = (if b = a then v else m.byte b)
      ∧ Memory.wf (m.write a x n) = true
      ∧ (m.write a x n).byte b = (if a ≤ b ∧ b < a + n then BitVec.ofNat 8 (x / 2 ^ (8 * (b - a))) else m.byte b)
      ∧ (m.write a x n).read a n = x % 2 ^ (8 * n)
      ∧ Memory.wf (m.writeMask a x mask n) = true
      ∧ (m.writeMask a x mask n).byte b
          = (if a ≤ b ∧ b < a + n ∧ mask.testBit (b - a) = true then BitVec.ofNat 8 (x / 2 ^ (8 * (b - a))) else m.byte b))

/-- Vector and scalar stores (R160, R163, R164, R165, R167, R269): misaligned they trap; admitted by their pages, stalled by no
rule of their queue (log 16) and on cached pages, they write their bytes into the core's block cache under its writer stamp, in
ascending rows or elements, drop the address-table entries they meet and issue, all at their issue (the model's reading, log
10); on UNCACHED pages they change no cache and leave, line by line, the bytes that memory is to accept at an open count (R306);
stalled, or while an UNCACHED store is outstanding, they wait. -/
def Obligations.StoreWords : Prop :=
  ∀ (s : State) (u : Cluster) (v a j : Fin 16) (g x : Fin 64) (e : BitVec 13) (f : BitVec 8) (sz : StSize),
    let c := s.turn.core
    let wa := s.me.wa[a]
    let stamp := stampOf s.csr.cid c (s.me.seqs[(3 : Fin 15)] + 1)
    let lanes := (rlist s.me.v[v]).take 6144
    let rows := (List.range 48).map fun q => (wa + BitVec.ofInt 64 (q * (s.rg x).toInt)).toNat
    let ix := (rlist s.me.v[j]).take 6144
    let addr (i : Word) : Nat := (wa + s.rg x + BitVec.ofNat 64 i.toNat).toNat
    let write (ws : List (Nat × Nat × Nat)) : State := ws.foldl (fun t w =>
      (t.storeBytes c s.csr.cid w.1 w.2.1 w.2.2 stamp).modMe fun k => k.dropLda s.zc w.1 w.2.1) s
    let spec (i : Instr) (aligned : Prop) (ws : List (Nat × Nat × Nat)) : Prop :=
      (¬aligned → exec i s = .next (s.raise causeState 0))
      ∧ (aligned → s.admits i → s.memStall i = false →
          (∀ w ∈ ws, ∀ p ∈ pagesOf w.1 w.2.1, s.me.uncached .w p = false) → s.goesTo u →
          exec i s = .next ((write ws).settle u 0))
      ∧ (aligned → s.admits i → s.memStall i = false →
          (∀ w ∈ ws, ∀ p ∈ pagesOf w.1 w.2.1, s.me.uncached .w p = true) → s.goesTo u →
          ∃ (t : State) (xs : List UStore), exec i s = .next t ∧ t.mem = s.mem ∧ t.home = s.home ∧ t.rdc = s.rdc ∧ t.me.bc = s.me.bc
            ∧ t.me.ustores = s.me.ustores ++ xs
            ∧ (xs.map fun y => (y.addr, y.bytes)) = (ws.map fun w => (linePieces w.1 w.2.1).map fun p =>
                (p.1 * 128 + p.2.1, rof (natBytes p.2.2.1 (w.2.2 / 2 ^ (8 * p.2.2.2) % 2 ^ (8 * p.2.2.1))))).flatten
            ∧ ∀ y ∈ xs, ∃ n, s.zc < n ∧ ⟨n, .uncachedStorePerformed, ⟨c, y.id, [], []⟩⟩ ∈ t.agenda)
      ∧ (aligned → s.admits i → s.memStall i = true ∨ (s.turn.hdr.sync = false ∧ s.me.ustores ≠ []) → exec i s = .next s)
    let n := wordsNat lanes
    let st := (wa + 4 * BitVec.ofInt 64 e.toInt).toNat
    let size := StSize.bytes sz
    let scalar (y : Nat) : List (Nat × Nat × Nat) := [(y, size, (s.rg g).toNat % 2 ^ (8 * size))]
    let sts := (wa + BitVec.ofNat 64 (f.toNat * size)).toNat
    let ssg := (wa + s.rg x).toNat
    spec (.st v a e) (st % 4 = 0) [(st, 24576, n)]
    ∧ spec (.sts a g sz f) (sts % size = 0) (scalar sts)
    ∧ spec (.ssg a g sz x) (ssg % size = 0) (scalar ssg)
    ∧ spec (.stxStride v a x) (∀ r ∈ rows, r % 4 = 0)
        ((List.range 48).map fun q => (rows.getD q 0, 512, n / 2 ^ (4096 * q) % 2 ^ 4096))
    ∧ spec (.stxScatter v a x j) (∀ i ∈ ix, i ≠ 0xFFFFFFFF → addr i % 4 = 0 ∧ i.toNat % 4 = 0)
        ((ix.zip lanes).filterMap fun p => if p.1 = 0xFFFFFFFF then none else some (addr p.1, 4, p.2.toNat))

/-- LDB of an aligned block on cached pages issues: the blocks it overlaps leave, its bytes are bound at its issue (the model's
reading, log 10: R273 leaves the time open), each line takes a way, its token is PENDING and its fill ends at an open count; a
page that has gone is its precise fault; LDB_FILL_DONE brings its bytes in line by line under the merge rule, the block's fill is
no longer pending, and the token is DONE (R159, R160, R161, R168; the line limit in the stall is log 16). LTV and
STT (R169, R170, R171, R242): a transfer outside its limits traps; a load whose tiles do not all carry the tag it asks for is
a tag mismatch; the load binds the 24,576 bytes of the tile store; the store waits while an UNCACHED store is out and lands
its bytes, then its tag, at STT_COMPLETE. A token that a word of the same cycle has taken counts as PENDING (the model's choice, log
70). -/
def Obligations.BlockAndTileWords : Prop :=
  (
    ∀ (s : State) (u : Cluster) (a : Fin 16) (k : Fin 64) (n : BitVec 6),
      let i := Instr.ldb a k n
      let x := (s.me.la[a]).toNat
      let line := x / 128
      let c := s.turn.core
      let lines := n.toNat + 1
      let free : Prop := s.taken k = false ∧ x % 128 = 0
      let goes : Prop := free ∧ s.admits i ∧ s.memStall i = false ∧ ∀ p ∈ pagesOf x (128 * lines), s.me.uncached .l p = false
      let left : State := (s.me.blocksOn line lines).foldl (fun t b => t.evictBlock c b) s
      (¬free → exec i s = .next (s.raise causeState 0))
      ∧ (free → s.admits i → s.memStall i = true → exec i s = .next s)
      ∧ (∀ (t : State) (ds : List Nat), goes → s.goesTo u → left.fetchBlock c s.csr.cid line lines = (t, .inl ds) →
          ∃ (m : Cmd) (w z : Nat),
            let t1 := t.modMe fun q => { q.pend k with blocks := q.blocks ++ [⟨line, lines, true⟩] }
            let t2 := ((List.range lines).map (line + ·)).foldl (fun (t : State) la => t.makeRoom c s.csr.cid la) t1
            m.op = i ∧ m.tok = k ∧ m.id = t2.nextId ∧ m.args = [line, lines] ∧ m.data = rof (ds.map (natBytes 128)).flatten
            ∧ exec i s = .next (((t2.addCmd m).later w z .ldbFillDone ⟨c, m.id, [], []⟩).settle u 0))
      ∧ (∀ (t : State) (e : Nat × Nat), goes → left.fetchBlock c s.csr.cid line lines = (t, .inr e) →
          exec i s = .next (s.raiseAt e.2 e.1))
      ∧ (∀ (m : Cmd) (la : Nat), (s.core s.ev.core).cmd s.ev.id = some m → m.args = [la, 1] → m.gone = false →
          let e := s.ev.core
          let t := s.modCore e fun k => { k with blocks := k.blocks.map fun b =>
            if b.line = la then { b with fill := false } else b }
          exec .ldbFillDone s = .next ((t.putBlock e ((lineOr (t.core e).bc (s.core e).vis.csr.cid la).fill
            (BitVec.ofNat 1024 (bytesNat (rlist m.data))))).finishDone e m))
      ∧ (∀ (m : Cmd) (la n : Nat), (s.core s.ev.core).cmd s.ev.id = some m → m.args = [la, n] → m.gone = false →
          let e := s.ev.core
          let cid := (s.core e).vis.csr.cid
          let t := s.modCore e fun k => { k with blocks := k.blocks.map fun b =>
            if b.line = la then { b with fill := false } else b }
          exec .ldbFillDone s = .next (((List.range n).foldl (fun t j => t.putBlock e ((lineOr (t.core e).bc cid (la + j)).fill
            (BitVec.ofNat 1024 (bytesNat (rlist m.data) / 2 ^ (1024 * j))))) t).finishDone e m)))
  ∧ (
    ∀ (s : State) (u : Cluster) (v a : Fin 16) (x : Fin 64) (b : Fin 2),
      let w := s.rg x
      let ok (off : Nat) : Prop := off % 512 = 0 ∧ off + 24576 ≤ 2 ^ 21 ∧ w.toNat < 2 ^ 17
      let lo := (s.me.la[a]).toNat
      let so := (s.me.wa[a]).toNat
      let tagged : Prop := ∀ i, lo / 512 ≤ i → i < lo / 512 + 48 → srd 0 (4096 * b.val + i) s.me.tag = w.extractLsb' 0 16
      (¬ok lo → exec (.ltv v a x b) s = .next (s.raise causeState 0))
      ∧ (ok lo → w.getLsbD 16 = true → ¬tagged → exec (.ltv v a x b) s = .next (s.raise causeTag 0x04))
      ∧ (ok lo → (w.getLsbD 16 = true → tagged) → s.goesTo u → ∃ (m : Load) (p q : Nat), m.id = s.nextId
          ∧ m.val = .v v (rof (natWords (tileRead s.me.tile b lo 24576) 6144))
          ∧ exec (.ltv v a x b) s = .next (((s.modMe fun k => { k with loads := k.loads ++ [m] }).bump.later p q .loadLands
              ⟨s.turn.core, m.id, [], []⟩).settle u 0))
      ∧ (¬ok so ∨ s.me.queueTouches b so 24576 = true → exec (.stt v a x b) s = .next (s.raise causeState 0))
      ∧ (ok so → s.me.queueTouches b so 24576 = false → s.memStall (.stt v a x b) = true ∨ (s.turn.hdr.sync = false ∧ s.me.ustores ≠ []) →
          exec (.stt v a x b) s = .next s)
      ∧ (ok so → s.me.queueTouches b so 24576 = false → s.memStall (.stt v a x b) = false → s.goesTo u → ∃ (m : Stt) (p q : Nat),
          m.id = s.nextId ∧ m.bg = b ∧ m.off = so ∧ m.val = s.me.v[v]
          ∧ m.tag = (if w.getLsbD 16 then some (w.extractLsb' 0 16) else none)
          ∧ exec (.stt v a x b) s = .next (((s.modMe fun k => { k with stts := k.stts ++ [m] }).bump.later p q .sttComplete
              ⟨s.turn.core, m.id, [], []⟩).settle u 0))
      ∧ (∀ m : Stt, Rising (s.core s.ev.core).tile → Rising (s.core s.ev.core).tag → m.off % 512 = 0 → m.off + 24576 ≤ 2 ^ 21 →
          (s.core s.ev.core).stts.find? (·.id == s.ev.id) = some m → ∃ t, exec .sttComplete s = .next t ∧ t.mem = s.mem
          ∧ tileRead (t.core s.ev.core).tile m.bg m.off 24576 = wordsNat ((rlist m.val).take 6144) % 2 ^ (8 * 24576)
          ∧ (∀ off n, off + n ≤ m.off ∨ m.off + 24576 ≤ off →
              tileRead (t.core s.ev.core).tile m.bg off n = tileRead (s.core s.ev.core).tile m.bg off n)
          ∧ ∀ tag i, m.tag = some tag → srd 0 (4096 * m.bg.val + i) (t.core s.ev.core).tag
              = if m.off / 512 ≤ i ∧ i < m.off / 512 + 48 then tag else srd 0 (4096 * m.bg.val + i) (s.core s.ev.core).tag))

/-- LDACQ and STREL issue, and VERCHK is met, and each holds its cluster until it completes, at an open count; MARK counts and
holds until its partner has issued; FENCE waits for the earlier W words of its scope and issues (R165, R172, R173, R174, R175,
R179). What FENCE and STREL wait for (R173, R175): no STT and no UNCACHED store is out at any scope, no AMO at package scope,
and no AMO or AMOR at system scope. The synchronising words complete. LDACQ at core scope writes its register with the eight
bytes its flag holds; VERCHK issues, its link bits acting, when the version word at home is its register's, and takes the
version trap otherwise, no ring counter changed; STREL at core scope, with what it waits
for done, stores its flag in the block cache; each lets its cluster go on in the next cycle (R172, R173, R179). At a wider scope
an LDACQ first takes the lines of its range and its flag's line down to the point and drops the copies above it, and reads the flag
there; a STREL takes the lines of its range down to the point and writes its flag there, its own copies above taking the bytes
clean; at SYSTEM the lines are checked, those of an UNCACHED page going to memory (R172, R173, R285, R306). An LDACQ whose
flag a line of the block cache serves takes an injection of TARGET 1 or 2 as a load does (R366, R367, R369; log 45), and a STREL
waits for a pending block fill of its lines, which would bring back older bytes, and for its line requests (R160, R168, R275;
log 16). That VERCHK's
link bits act when it passes, not when L meets it, is the model's reading (log 71). -/
def Obligations.SynchronisingWords : Prop :=
  (
    ∀ (s : State) (u : Cluster) (a : Fin 16) (g q : Fin 64) (sc : Scope),
      let lo := (s.me.la[a]).toNat
      let so := (s.me.wa[a]).toNat
      let x (r : Fin 64) := (s.rg r).toNat
      let spec (i : Instr) (addr : Nat) (args : List Nat) (ef : Core → Core) (done : Instr) : Prop :=
        (addr % 8 ≠ 0 → exec i s = .next (s.raise causeState 0))
        ∧ (addr % 8 = 0 → s.admits i → s.memStall i = true → exec i s = .next s)
        ∧ (addr % 8 = 0 → s.admits i → s.memStall i = false → (s.holds (.sync s.nextId)).goesTo u → ∃ (m : Cmd) (w : Nat),
            m.op = i ∧ m.id = s.nextId ∧ m.args = args ∧ m.pc = s.clu.pc ∧ m.cl = s.turn.cl
            ∧ exec i s = .next (((((s.modMe ef).modMe fun k => { k with syncs := k.syncs ++ [m] }).bump.holds
                (.sync m.id)).later 1 w done ⟨s.turn.core, m.id, [], []⟩).settle u 0))
      let second := x (Fin.ofNat 64 (q.val + 1))
      let wseq := s.me.seqs[(3 : Fin 15)] + 1
      spec (.ldacq a g sc false q) lo [lo, 0, 0] id .ldacqComplete
      ∧ spec (.ldacq a g sc true q) lo [lo, x q, second] (fun k => k.dropLda s.zc (x q) second) .ldacqComplete
      ∧ (lo % 8 ≠ 0 → exec (.verchk a g) s = .next (s.raise causeState 0))
      ∧ (lo % 8 = 0 → s.admits (.verchk a g) → s.memStall (.verchk a g) = true → exec (.verchk a g) s = .next s)
      ∧ (lo % 8 = 0 → s.admits (.verchk a g) → s.memStall (.verchk a g) = false → ∃ (m : Cmd) (w : Nat),
          m.op = .verchk a g ∧ m.id = s.nextId ∧ m.args = [lo, x g] ∧ m.pc = s.clu.pc ∧ m.cl = s.turn.cl
          ∧ exec (.verchk a g) s = .next ((((s.modMe fun k => { k with syncs := k.syncs ++ [m] }).bump.holds
              (.sync m.id)).later 1 w .verchkComplete ⟨s.turn.core, m.id, [], []⟩)))
      ∧ spec (.strel a g sc false q) so [so, 0, 0, x g, wseq] (fun k => (k.dropLda s.zc so 8).dropLda s.zc 0 0) .strelComplete
      ∧ spec (.strel a g sc true q) so [so, x q, second, x g, wseq]
          (fun k => (k.dropLda s.zc so 8).dropLda s.zc (x q) second) .strelComplete
      ∧ ((s.holds .mark).goesTo u →
          exec .markL s = .next (((s.modMe fun k => { k with marks := (k.marks.1 + 1, k.marks.2) }).holds .mark).settle u 0)
          ∧ exec .markW s = .next (((s.modMe fun k => { k with marks := (k.marks.1, k.marks.2 + 1) }).holds .mark).settle u 0))
      ∧ (s.me.fenced sc = false → s.turn.hdr.sync = false → exec (.fence sc) s = .next s)
      ∧ (s.me.fenced sc = true → s.goesTo u → exec (.fence sc) s = .next (s.settle u 0)))
  ∧ (
    ∀ (k : Core) (sc : Scope),
      k.fenced sc = true ↔ k.stts = [] ∧ k.ustores = []
        ∧ (sc = .package ∨ sc = .system → ∀ m ∈ k.cmds, amoOf m.op = none)
        ∧ (sc = .system → ∀ m ∈ k.cmds, amorOf m.op = none))
  ∧ (
    ∀ (s t : State) (m : Cmd) (a : Fin 16) (g q : Fin 64) (r : Bool) (x y : Nat),
      let c := s.ev.core
      let k := s.core c
      let cid := k.vis.csr.cid
      let addr := m.args.getD 0 0
      k.syncOf s.ev.id = some m → m.args.getD 2 0 = 0 → ¬s.drains →
      (m.op = .ldacq a g .core r q → k.old.csr.errinj.getLsbD 0 = false → s.readFlag c cid .core addr = (t, .inl x) →
        exec .ldacqComplete s = .next ((t.syncDone c m).modCore c fun k => k.modVis (·.wg g (BitVec.ofNat 64 x))))
      ∧ (m.op = .verchk a g → (s.acquireLine c cid .package (addr / 128)).engineRead cid addr 8 = (t, .inl y) →
        let w := (t.syncDone c m).turnTo c .l
        (∀ u : Cluster, y = m.args.getD 1 0 → w.goesTo u → exec .verchkComplete s = .next (w.settle u 0))
        ∧ (y ≠ m.args.getD 1 0 → exec .verchkComplete s = .next (w.modCore c (·.raise ⟨0x0F, 0, .l, 1, m.pc, 0⟩))))
      ∧ (m.op = .ldacq a g .core r q → k.old.csr.errinj.getLsbD 0 = true → k.uncached .l (addr / 2 ^ 21) = false →
          (lineOr k.bc cid (addr / 128)).holds (spanMask (addr % 128) 8) = true →
          let tgt := k.old.csr.errinj.toNat / 2 % 8
          let y := lineBytes (lineOr k.bc cid (addr / 128)).data (addr % 128) 8
          let n := s.regs.cecnt[zenithOf c]
          (tgt = 1 → ∃ w, exec .ldacqComplete s = .next w ∧ (w.core c).vis.csr.errinj.getLsbD 0 = false
              ∧ (∀ d : Fin 64, (w.core c).vis.rg d = if d = g ∧ g ≠ 0 then BitVec.ofNat 64 y else k.vis.rg d)
              ∧ w.regs.cecnt[zenithOf c] = if n = BitVec.allOnes 32 then n else n + 1)
          ∧ (tgt = 2 → ∃ w, exec .ldacqComplete s = .next w ∧ (w.core c).vis.csr.errinj.getLsbD 0 = false
              ∧ (w.core c).vis.g = k.vis.g ∧ (w.core c).syncs = k.syncs ∧ w.regs.errhead = s.regs.errhead + 1))
      ∧ (m.op = .strel a g .core r q → k.fenced .core = false ∨ k.filling (addr / 128) = true ∨ k.sent m.id = false →
        exec .strelComplete s = .next (s.at_ (s.zc + 1) .strelComplete s.ev))
      ∧ (m.op = .strel a g .core r q → k.fenced .core = true → k.filling (addr / 128) = false → k.sent m.id = true →
          k.uncached .w (addr / 2 ^ 21) = false →
        exec .strelComplete s = .next ((s.storeBytes c cid addr 8 (m.args.getD 3 0)
          (stampOf cid c (m.args.getD 4 0))).syncDone c m)))
  ∧ (
    ∀ (s t : State) (m : Cmd) (a : Fin 16) (g q : Fin 64) (sc : Scope) (r : Bool) (x : Nat) (e : Nat × Nat),
      let c := s.ev.core
      let k := s.core c
      let cid := k.vis.csr.cid
      let addr := m.args.getD 0 0
      let ls := linesOf (m.args.getD 1 0) (m.args.getD 2 0)
      let stamp := stampOf cid c (m.args.getD 4 0)
      let got := (ls.foldl (fun w la => w.acquireLine c cid sc la) s).acquireLine c cid sc (addr / 128)
      let rel := ls.foldl (fun w la => w.releaseLine c cid sc stamp la) s
      k.syncOf s.ev.id = some m → ¬s.drains →
      (m.op = .ldacq a g sc r q → k.old.csr.errinj.getLsbD 0 = false →
        (got.readFlag c cid sc addr = (t, .inl x) →
          exec .ldacqComplete s = .next ((t.syncDone c m).modCore c fun k => k.modVis (·.wg g (BitVec.ofNat 64 x))))
        ∧ (got.readFlag c cid sc addr = (t, .inr e) → exec .ldacqComplete s = .next (t.accessEnd c .l 1 m.pc e.1 e.2)))
      ∧ (m.op = .strel a g sc r q →
        (k.fenced sc = false ∨ (∃ la ∈ addr / 128 :: ls, k.filling la = true) ∨ k.sent m.id = false →
          exec .strelComplete s = .next (s.at_ (s.zc + 1) .strelComplete s.ev))
        ∧ (k.fenced sc = true → (∀ la ∈ addr / 128 :: ls, k.filling la = false) → k.sent m.id = true →
          ((rel.core c).uncached .w (addr / 2 ^ 21) = false →
            exec .strelComplete s = .next ((rel.releaseFlag c cid sc addr (m.args.getD 3 0) (m.args.getD 4 0)).syncDone c m))
          ∧ ((rel.core c).uncached .w (addr / 2 ^ 21) = true →
            (rel.engineWrite cid addr 8 (m.args.getD 3 0) stamp = (t, .inl x) → exec .strelComplete s = .next (t.syncDone c m))
            ∧ (rel.engineWrite cid addr 8 (m.args.getD 3 0) stamp = (t, .inr e) →
              exec .strelComplete s = .next (t.accessEnd c .w 3 m.pc e.1 e.2))))))
  ∧ (
    ∀ (s v : State) (c : Fin 64) (cid : BitVec 12) (a x wseq : Nat) (stamp : BitVec 48) (f : Leaf),
      let z := zIdx c
      let la := a / 128
      let o := a % 128
      let b := lineOr (s.core c).bc cid la
      let r := lineOr (s.rdcOf z) cid la
      let h := lineOr s.home cid la
      let at_ (ls : List Line) (i : Nat) : Option Nat :=
        let l := lineOr ls cid la
        if l.valid.getLsbD i then some (lineBytes l.data i 1) else none
      let flag (i : Nat) : Prop := o ≤ i ∧ i < o + 8
      let byte (i : Nat) : Nat := x / 2 ^ (8 * (i - o)) % 2 ^ 8
      -- the flag written into the level of its point, and into a copy above it, which holds it clean
      let wrote (old new : List Line) : Prop := ∀ i < 128, (flag i → at_ new i = some (byte i) ∧ (lineOr new cid la).dirty.getLsbD i = true)
        ∧ (¬flag i → at_ new i = at_ old i)
      let poured (old new : List Line) : Prop := ∀ i < 128, (¬flag i → at_ new i = at_ old i)
        ∧ (flag i → (lineOr new cid la).dirty.getLsbD i = false ∧ ((lineOr old cid la).whole = true → at_ new i = some (byte i)))
      let reads (sc : Scope) (l : Line) : Prop := l.holds (spanMask o 8) = true →
        ∃ t, s.readFlag c cid sc a = (t, .inl (lineBytes l.data o 8))
      s.acquireLine c cid .core la = s
      ∧ (∀ sc ∈ [Scope.group, .zenith], let t := s.acquireLine c cid sc la
          findLine (t.core c).bc cid la = none
          ∧ ∀ i < 128, b.dirty.getLsbD i = true → at_ (t.rdcOf z) i = some (lineBytes b.data i 1))
      ∧ (∀ sc ∈ [Scope.package, .system], let t := s.acquireLine c cid sc la
          findLine (t.core c).bc cid la = none ∧ findLine (t.rdcOf z) cid la = none
          ∧ ∀ i < 128, (b.dirty.getLsbD i = true → at_ t.home i = some (lineBytes b.data i 1))
            ∧ (b.dirty.getLsbD i = false → r.dirty.getLsbD i = true → at_ t.home i = some (lineBytes r.data i 1)))
      ∧ s.releaseLine c cid .core stamp la = s
      ∧ s.releaseLine c cid .group stamp la = s.cleanLine c cid .rdc la
      ∧ s.releaseLine c cid .zenith stamp la = s.cleanLine c cid .rdc la
      ∧ s.releaseLine c cid .package stamp la = s.cleanLine c cid .home la
      ∧ s.releaseLine c cid .system stamp la = (s.cleanLine c cid .home la).checkLine cid stamp la
      ∧ (a % 8 = 0 →
        ((s.core c).uncached .l (a / 2 ^ 21) = false →
          reads .core b ∧ reads .group r ∧ reads .zenith r ∧ reads .package h ∧ reads .system h)
        ∧ (∀ sc ∈ [Scope.group, .zenith], let t := s.releaseFlag c cid sc a x wseq
            wrote (s.rdcOf z) (t.rdcOf z) ∧ poured (s.core c).bc (t.core c).bc)
        ∧ (let t := s.releaseFlag c cid .package a x wseq
           wrote s.home t.home ∧ poured (s.rdcOf z) (t.rdcOf z) ∧ poured (s.core c).bc (t.core c).bc
           ∧ (t.xlate cid (la * 128 / 2 ^ 21) = (v, .ok f) → s.releaseFlag c cid .system a x wseq
               = if f.unc = true then v.evictHome cid la else v))))

/-- CMO and AMO words issue (R161, R176, R177): a PENDING token, and for AMO a misaligned address, traps; the token becomes
PENDING and the effect comes at an open count; a CMO of no byte is DONE at once; INV, CLINV and AMO drop the address-table
entries they meet (R165). A token that a word of the same cycle has taken counts as PENDING (the model's choice, log 70). -/
def Obligations.MaintenanceAndAtomicWords : Prop :=
  ∀ (s : State) (u : Cluster) (a : Fin 16) (g x k : Fin 64) (lvl : CmoLevel) (dw : Bool),
    let b := (s.me.wa[a]).toNat
    let n := (s.rg g).toNat
    let pend := s.taken k = true
    let w8 := if dw then 8 else 4
    let wseq := s.me.seqs[(3 : Fin 15)] + 1
    let pair := [b, (s.rg x).toNat, (s.rg (Fin.ofNat 64 (x.val + 1))).toNat, wseq]
    let queued (i : Instr) (args : List Nat) (ef : Core → Core) (done : Instr) : Prop := ∃ (m : Cmd) (z : Nat),
      m.op = i ∧ m.tok = k ∧ m.id = s.nextId ∧ m.args = args
      ∧ exec i s = .next ((((s.modMe fun c => ef (c.pend k)).addCmd m).later 1 z done ⟨s.turn.core, m.id, [], []⟩).settle u 0)
    let cmo (i : Instr) (inv : Bool) : Prop :=
      (pend → exec i s = .next (s.raise causeState 0))
      ∧ (¬pend → s.admits i → s.turn.hdr.sync = false → s.me.ustores ≠ [] → exec i s = .next s)
      ∧ (¬pend → s.admits i → s.memStall i = false → s.goesTo u →
          (n = 0 → exec i s = .next ((s.modMe fun c => c.done k none).settle u 0))
          ∧ (0 < n → queued i [b, n] (fun c => if inv then c.dropLda s.zc b n else c) .cmoComplete))
    let amo (i : Instr) : Prop :=
      (pend ∨ b % w8 ≠ 0 → exec i s = .next (s.raise causeState 0))
      ∧ (¬pend → b % w8 = 0 → s.admits i → s.turn.hdr.sync = false → s.me.ustores ≠ [] → exec i s = .next s)
      ∧ (¬pend → b % w8 = 0 → s.admits i → s.memStall i = false → s.goesTo u →
          queued i pair (fun c => c.dropLda s.zc b w8) .amoPerformed)
    cmo (.cmoClean a g lvl k) false ∧ cmo (.cmoInv a g lvl k) true ∧ cmo (.cmoClinv a g lvl k) true
    ∧ amo (.amoAdd a x dw k) ∧ amo (.amoMin a x dw k) ∧ amo (.amoMax a x dw k) ∧ amo (.amoOr a x dw k)
    ∧ amo (.amoAnd a x dw k) ∧ amo (.amoXchg a x dw k) ∧ amo (.amoCas a x dw k)

/-- The operations of R177 on the old value, the operand and, for CAS, the new value, as numbers of n bytes; MIN and MAX are
signed; a CAS whose old value is not the expected one writes nothing. AMO_PERFORMED, no earlier AMO of the core to the address
being out, no block fill of its line pending and its line request sent (log 16): the core's copies of the line are cleaned and dropped, the atomic is performed
at home, and the token is DONE, or FAILED with 0x41 on a CAS miss (R168, R177, R283). AMOR_ARRIVAL performs an aligned remote
atomic and answers it, with 0x51 when its context is not live or a page refuses it (R178, R383), and, the model's reading (log
14), when the address is misaligned or too large; its bytes at home carry the stamp of its core with number 0 (log 41); AMOR_ACK
gives the answer to the token. -/
def Obligations.Atomics : Prop :=
  (
    ∀ (n old x new : Nat), 0 < n →
      let m := 2 ^ (8 * n)
      let a := old % m
      let b := x % m
      let sg (y : Nat) : Int := (BitVec.ofNat (8 * n) y).toInt
      AmoOp.apply .add n old x new = some ((a + b) % m)
      ∧ AmoOp.apply .min n old x new = some (if sg a ≤ sg b then a else b)
      ∧ AmoOp.apply .max n old x new = some (if sg a ≤ sg b then b else a)
      ∧ AmoOp.apply .or n old x new = some (a ||| b) ∧ AmoOp.apply .and n old x new = some (a &&& b)
      ∧ AmoOp.apply .xchg n old x new = some b
      ∧ (a = b → AmoOp.apply .cas n old x new = some (new % m)) ∧ (a ≠ b → AmoOp.apply .cas n old x new = none))
  ∧ (
    ∀ (s t : State) (m : Cmd) (op : AmoOp) (dw : Bool) (code : Nat) (e : Nat × Nat),
      let c := s.ev.core
      let k := s.core c
      let cid := k.vis.csr.cid
      let g (i : Nat) := m.args.getD i 0
      let home := s.acquireLine c cid .package (g 0 / 128)
      let rcid : BitVec 12 := BitVec.ofNat 12 (s.arg 1)
      let bytes := if s.arg 5 = 1 then 8 else 4
      let ans (w : State) (x : Nat) : State := w.answer (.ack (s.arg 0) (s.arg 2) (s.arg 3) (BitVec.ofNat 8 x) 0)
      let far := s.atomic rcid (AmoOp.ofCode (s.arg 4)) (s.arg 5 == 1) (s.arg 6) (s.arg 7) (s.arg 8)
        (stampOf rcid (Fin.ofNat 64 (s.arg 2)) 0)
      (k.cmd s.ev.id = some m → amoOf m.op = some (op, dw) → ¬s.drains → k.amoBefore m = false →
        k.filling (g 0 / 128) = false → k.sent m.id = true →
        home.atomic cid op dw (g 0) (g 1) (g 2) (stampOf cid c (g 3)) = (t, .inl code) →
        exec .amoPerformed s = .next (if code = 0 then t.finishDone c m else t.finishFail c m (BitVec.ofNat 8 code)))
      ∧ (k.cmd s.ev.id = some m → amoOf m.op = some (op, dw) → ¬s.drains →
          k.amoBefore m = true ∨ k.filling (g 0 / 128) = true ∨ k.sent m.id = false →
        exec .amoPerformed s = .next (s.at_ (s.zc + 1) .amoPerformed s.ev))
      ∧ (s.rcidLive rcid = false ∨ s.arg 6 % bytes ≠ 0 ∨ 2 ^ 48 < s.arg 6 + bytes → exec .amorArrival s = .next (ans s 0x51))
      ∧ (s.rcidLive rcid = true → s.arg 6 % bytes = 0 → s.arg 6 + bytes ≤ 2 ^ 48 →
          (far = (t, .inl code) → exec .amorArrival s = .next (ans t code))
          ∧ (far = (t, .inr e) → exec .amorArrival s = .next (ans t 0x51)))
      ∧ (k.cmd s.ev.id = some m → exec .amorAck s
          = .next (if s.arg 0 = 0 then s.finishDone c m else s.finishFail c m (BitVec.ofNat 8 (s.arg 0)))))

/-- CMO_COMPLETE waits while a line of its range lies in a block whose fill is pending, and for its line requests (log 16); else it
takes every line to its level, drops the blocks that an INV or CLINV reaches, and sets the token DONE, unless the write-back of a
line to memory fails (R168, R176, R315). A CLEAN of a line leaves the dirty bytes of
its copies at the named level, in memory for MEM, and the copies clean; an INV drops the copies above its level, after the dirty
bytes of the RDC's, and for MEM of home's, are a level down, and discards those of the block cache (R176, R285). An eviction
writes the dirty bytes of a copy over what the level below holds of the line and drops the copy, from the block cache to the RDC,
from the RDC to home, and from home to memory or, when the translation fails, into the late-fault buffer; a block, which is of the context
the core runs, leaves whole, one with a pending fill never, and the same line of another context leaves alone; a copy that makes room goes down in the same way (R168, R267, R268, R315). Where the set below has
a place for the copy, nothing further down changes (R266; which sets there are is the model's choice, log 68). -/
def Obligations.CacheEvents : Prop :=
  let at_ (ls : List Line) (d : BitVec 12) (e i : Nat) : Option Nat :=
    let l := lineOr ls d e
    if l.valid.getLsbD i then some (lineBytes l.data i 1) else none
  -- the copy `l` of line (d, e) written down: `new` holds its dirty bytes, and the rest as `old` did
  let took (old new : List Line) (l : Line) (d : BitVec 12) (e : Nat) : Prop :=
    (lineOr new d e).dirty = (lineOr old d e).dirty ||| l.dirty
    ∧ ∀ i < 128, at_ new d e i = if l.dirty.getLsbD i then some (lineBytes l.data i 1) else at_ old d e i
  -- memory holds the dirty bytes of a home copy where a translation puts its line
  let stored (w : State) (m : Memory) (l : Line) (d : BitVec 12) (e : Nat) : Prop := ∀ (v : State) (f : Leaf),
    w.xlate d (e * 128 / 2 ^ 21) = (v, .ok f) → Memory.wf w.mem = true → ∀ i < 128,
      l.dirty.getLsbD i = true → m.byte (f.pa (e * 128) + i) = BitVec.ofNat 8 (lineBytes l.data i 1)
  (
    ∀ (s : State) (m : Cmd) (a : Fin 16) (g k : Fin 64) (lvl : CmoLevel),
      let c := s.ev.core
      let q := s.core c
      let cid := q.vis.csr.cid
      let lo := m.args.getD 0 0 / 128
      let ls := linesOf (m.args.getD 0 0) (m.args.getD 1 0)
      let waits : Prop := (∃ la ∈ ls, q.filling la = true) ∨ q.sent m.id = false
      -- a line that the write-back to memory leaves behind, and the token with it
      let dirty (l : List Line) (la : Nat) : Prop := (lineOr l cid la).dirty ≠ 0
      let stuck (above : Prop) : Prop := lvl = .mem ∧ ∃ la ∈ ls, s.refusesLine cid la = true
        ∧ ((above ∧ dirty q.bc la) ∨ dirty (s.rdcOf (zIdx c)) la ∨ dirty s.home la)
      let ends (t : State) (above : Prop) : Prop := (stuck above → exec .cmoComplete s = .next t)
        ∧ (¬stuck above → exec .cmoComplete s = .next (t.finishDone c m))
      let out : State := s.dropBlocks c cid lvl lo ls.length
      q.cmd s.ev.id = some m → m.op = .cmoClean a g lvl k ∨ m.op = .cmoInv a g lvl k ∨ m.op = .cmoClinv a g lvl k →
      (waits → exec .cmoComplete s = .next (s.at_ (s.zc + 1) .cmoComplete s.ev))
      ∧ (¬waits → m.op = .cmoClean a g lvl k → ends (ls.foldl (fun t la => t.cleanLine c cid lvl la) s) True)
      ∧ (¬waits → m.op = .cmoInv a g lvl k → ends (ls.foldl (fun t la => t.invLine c cid lvl la) out) False)
      ∧ (¬waits → m.op = .cmoClinv a g lvl k → ends (ls.foldl (fun t la => (t.cleanLine c cid lvl la).invLine c cid lvl la) out) True)
      ∧ (q.blocksOn lo ls.length = [] → out = s) ∧ ∀ b ∈ q.blocksOn lo ls.length, b ∉ (out.core c).blocks)
  ∧ (
    ∀ (s : State) (c : Fin 64) (cid : BitVec 12) (la : Nat),
      let z := zIdx c
      let b := lineOr (s.core c).bc cid la
      let r := lineOr (s.rdcOf z) cid la
      let dropped (t : State) : Prop := findLine (t.core c).bc cid la = none
      let low := s.cleanLine c cid .rdc la
      let mid := s.cleanLine c cid .home la
      let all := s.cleanLine c cid .mem la
      let gone := s.invLine c cid .home la
      let deep := s.invLine c cid .mem la
      took (s.rdcOf z) (low.rdcOf z) b cid la ∧ (lineOr (low.core c).bc cid la).dirty = 0
      ∧ (∀ i < 128, (b.dirty.getLsbD i = true → at_ mid.home cid la i = some (lineBytes b.data i 1))
          ∧ (b.dirty.getLsbD i = false → r.dirty.getLsbD i = true → at_ mid.home cid la i = some (lineBytes r.data i 1)))
      ∧ (lineOr (mid.core c).bc cid la).dirty = 0 ∧ (lineOr (mid.rdcOf z) cid la).dirty = 0
      ∧ stored mid all.mem (lineOr mid.home cid la) cid la ∧ (lineOr all.home cid la).dirty = 0
      ∧ s.invLine c cid .rdc la = s.dropBlock c cid la ∧ dropped (s.dropBlock c cid la)
      ∧ dropped gone ∧ findLine (gone.rdcOf z) cid la = none ∧ took s.home gone.home r cid la
      ∧ dropped deep ∧ findLine (deep.rdcOf z) cid la = none ∧ findLine deep.home cid la = none
      ∧ stored gone deep.mem (lineOr gone.home cid la) cid la)
  ∧ (
    ∀ (s : State),
      let c := s.ev.core
      let q := s.core c
      let cid := q.vis.csr.cid
      let z := zIdx c
      let la := s.arg 1
      let cid0 : BitVec 12 := BitVec.ofNat 12 (s.arg 0)
      (cid0 = cid → q.blockPending la 1 = true → exec .blockCacheEviction s = .next s)
      ∧ (cid0 ≠ cid ∨ q.blocksOn la 1 = [] → ∃ t, exec .blockCacheEviction s = .next t
          ∧ findLine (t.core c).bc cid0 la = none ∧ took (s.rdcOf z) (t.rdcOf z) (lineOr q.bc cid0 la) cid0 la
          ∧ (∀ (d : BitVec 12) (e : Nat), (d, e) ≠ (cid0, la) → let r := lineOr (s.rdcOf z) d e
              lineOr (t.rdcOf z) d e = r ∨ (findLine (t.rdcOf z) d e = none ∧ took s.home t.home r d e))
          ∧ (((s.rdcOf z).filter fun l => rdcSet l.la == rdcSet la).length < 16 → t.home = s.home ∧ t.mem = s.mem))
      ∧ (∀ b rest, cid0 = cid → q.blockPending la 1 = false → q.blocksOn la 1 = b :: rest → ∃ t,
          exec .blockCacheEviction s = .next t ∧ b ∉ (t.core c).blocks
          ∧ (∀ j < b.n, findLine (t.core c).bc cid (b.line + j) = none)
          ∧ ((s.rdcOf z).length + b.n ≤ 16 → t.home = s.home ∧ t.mem = s.mem
              ∧ ∀ j < b.n, took (s.rdcOf z) (t.rdcOf z) (lineOr q.bc cid (b.line + j)) cid (b.line + j))))
  ∧ (
    ∀ (s : State),
      let z : Fin 2 := Fin.ofNat 2 (s.arg 0)
      let cid : BitVec 12 := BitVec.ofNat 12 (s.arg 1)
      let la := s.arg 2
      ∃ t, exec .rdcEviction s = .next t ∧ findLine t.rdc[z] cid la = none ∧ took s.home t.home (lineOr s.rdc[z] cid la) cid la
        ∧ ((s.home.filter fun l => homeSet l.la == homeSet la).length < 16 → t.mem = s.mem ∧ t.cores = s.cores))
  ∧ (
    ∀ (s : State),
      let cid : BitVec 12 := BitVec.ofNat 12 (s.arg 0)
      let la := s.arg 1
      let l := lineOr s.home cid la
      let w : State := { s with home := dropLine s.home cid la }
      ∃ t, exec .homeEviction s = .next t ∧ findLine t.home cid la = none ∧ (l.dirty = 0 → t.mem = s.mem)
        ∧ stored w t.mem l cid la
        ∧ (∀ (v : State) (f : Leaf) (b : Nat), w.xlate cid (la * 128 / 2 ^ 21) = (v, .ok f) → Memory.wf s.mem = true →
            (∀ i < 128, l.dirty.getLsbD i = true → b ≠ f.pa (la * 128) + i) → t.mem.byte b = s.mem.byte b)
        ∧ (∀ (v : State) (x : Xl), w.xlate cid (la * 128 / 2 ^ 21) = (v, x) → (∀ f, x ≠ .ok f) → l.dirty ≠ 0 →
            (∃ i < 64, ∀ e ∈ s.mtu[homeIdx (la * 128)].late, e.slot ≠ i) → ∃ e ∈ t.mtu[homeIdx (la * 128)].late, e.line = l))

/-- Engine words at issue (R158, R161, R178, R216, R217, R220, R223, R227): when the token is not PENDING, the auxiliary word
and the consumed tokens are legal and the command keeps its own limits, the token becomes PENDING and the command enters its
engine's queue with its quad and consumed tokens, in the order T0, T1, T2; otherwise it traps. Model's choices: a token that a word
of the same cycle has taken counts as PENDING (log 70), and a range of no byte is refused where its address passes 2⁴⁸ (log 103). -/
def Obligations.EngineWords : Prop :=
  ∀ (s : State) (u : Cluster) (k q : Fin 64) (last : Bool) (wd : StSize) (b : Fin 2) (dw : Bool), s.goesTo u →
    let (x0, x1, x2, x3) := s.quad q
    let ts := auxToks x3
    let xv := x3.toNat / 2 ^ 32
    let chain := x3.getLsbD 23
    let common (chains : Bool) : Prop := s.taken k = false
      ∧ x3.getLsbD 7 = false ∧ x3.getLsbD 15 = false ∧ x3.extractLsb' 24 8 = 0
      ∧ (chain = true → chains = true ∧ x3.getLsbD 6 = true) ∧ ∀ t ∈ ts, (s.tok t).st ≠ .empty ∧ t ≠ k
    let spec (i : Instr) (chains : Bool) (ok : Prop) : Prop :=
      (common chains → ok → ∃ m : Cmd, m.op = i ∧ m.tok = k ∧ m.quad = (x0, x1, x2, x3) ∧ m.id = s.nextId
        ∧ m.waits = ts.map (fun t => (t, false)) ∧ m.started = false
        ∧ exec i s = .next (((s.modMe fun c => c.pend k).addCmd m).settle u 0))
      ∧ (¬(common chains ∧ ok) → exec i s = .next (s.raise causeState 0))
    let a := x0.toNat
    let d := x1.toNat
    let n := x2.toNat % 2 ^ 40
    let below (y : Nat) : Prop := y + n ≤ 2 ^ 48
    let apart : Prop := n = 0 ∨ a + n ≤ d ∨ d + n ≤ a
    let sum (same : Bool) : Prop := n % 4 = 0 ∧ a % 4 = 0 ∧ d % 4 = 0 ∧ below a ∧ below d
      ∧ (same = true → a = d ∨ apart) ∧ (chain = true → last = false → xv = 0)
    let link : Prop := x2.toNat < 2 ^ 56 ∧ x2.toNat / 2 ^ 40 ≠ s.dev
    let tile (y : Nat) : Prop := y % 512 = 0 ∧ n % 512 = 0 ∧ y + n ≤ 2 ^ 21
    let short : Prop := x2.toNat < 2 ^ 40
    let wa := if dw then 8 else 4
    let amor (cas : Bool) : Prop := x3.toNat < 2 ^ 48 ∧ (cas = false → x2 = 0) ∧ d % wa = 0 ∧ d + wa ≤ 2 ^ 48
    spec (.cpCopy k q) false (short ∧ xv = 0 ∧ below a ∧ below d ∧ apart)
    ∧ spec (.cpSumFold k q last) true (short ∧ sum true) ∧ spec (.cpSumCrc k q last) true (short ∧ sum true)
    ∧ spec (.cpFill k q wd) false (short ∧ xv = 0 ∧ n % StSize.bytes wd = 0 ∧ d % StSize.bytes wd = 0
        ∧ a < 2 ^ (8 * StSize.bytes wd) ∧ below d)
    ∧ spec (.cpLink k q) false (link ∧ xv = 0 ∧ below a ∧ below d)
    ∧ spec (.cpLinkFold k q last) true (link ∧ sum false) ∧ spec (.cpLinkCrc k q last) true (link ∧ sum false)
    ∧ spec (.cpTileTo k q b) false (short ∧ tile d ∧ xv < 2 ^ 17 ∧ below a ∧ (n = 0 ∨ s.me.queueTouches b d n = false))
    ∧ spec (.cpTileFrom k q b) false (short ∧ tile a ∧ xv < 2 ^ 17 ∧ below d)
    ∧ spec (.cqArm k q) false (a < 256 ∧ x2.toNat < 4096)
    ∧ spec (.cntAdd k q) false (a < 4096 ∧ x1 = 0 ∧ xv = 0) ∧ spec (.cntWait k q) false (a < 4096 ∧ x1 = 0 ∧ xv = 0)
    ∧ spec (.rlInv k q) false (a % 64 = 0 ∧ a < 2 ^ 48 ∧ x1 = 0 ∧ x2 = 0 ∧ xv = 0)
    ∧ (s.me.refused .w (pagesOf a 64) .read = none →
        spec (.cqPost k q) false (a % 64 = 0 ∧ a + 64 ≤ 2 ^ 48 ∧ d < 256 ∧ x2 = 0 ∧ xv = 0))
    ∧ spec (.amorAdd k q dw) false (amor false) ∧ spec (.amorMin k q dw) false (amor false)
    ∧ spec (.amorMax k q dw) false (amor false) ∧ spec (.amorOr k q dw) false (amor false)
    ∧ spec (.amorAnd k q dw) false (amor false) ∧ spec (.amorXchg k q dw) false (amor false)
    ∧ spec (.amorCas k q dw) false (amor true)

/-- Consumers (R224, R386): COMMAND_START starts the first command of a core whose consumed tokens have all been seen DONE, a
TK.JOIN completing at once; CONSUMED_TOKEN_FAILED gives the first command that sees a consumed token FAILED that token's code,
and the command does nothing else, but that an NBSWITCH whose switch is still its slot's sets PFAIL and PCODE (R119, R214). How a
command ends (R161, R221, R226, R247): its token takes DONE with code 0, or FAILED with
the code, and it leaves its queue; one whose report a replay has discarded changes no token; no other token changes. -/
def Obligations.CommandLife : Prop :=
  (
    ∀ (s : State) (m : Cmd) (k a b : Fin 64) (code : Byte),
      let c := s.ev.core
      let q := s.core c
      (q.starting s.zc = some m → m.op = .tkJoin k a b → exec .commandStart s = .next (s.finishDone c m))
      ∧ (q.starting s.zc = some m → exec .commandStart s = .next (s.startOne c m) ∧ ∀ w ∈ m.waits,
          w.2 = true ∨ (q.old.tok[w.1]).st = .done)
      ∧ (q.failing s.zc = some m → m.failSeen q.old = some code →
          (∃ w ∈ m.waits, w.2 = false ∧ q.old.tok[w.1] = ⟨.failed, code, (q.old.tok[w.1]).chain⟩)
          ∧ ((∀ (x y : Fin 64) (h : Fin 16), m.op ≠ .nbswitch x y h) → exec .consumedTokenFailed s = .next (s.finishFail c m code))
          ∧ ∀ (x y : Fin 64) (h : Fin 16), m.op = .nbswitch x y h → exec .consumedTokenFailed s = .next
              ((s.finishFail c m code).modCore c fun k => if k.switch[h] = some m.id then { k with vis := { k.vis with
                slot := k.vis.slot.set h { k.vis.slot[h] with pfail := true, pcode := code } } } else k)))
  ∧ (
    ∀ (s : State) (c : Fin 64) (m : Cmd) (code : Byte) (k : Fin 64),
      let q := s.core c
      let t := (s.finishDone c m).core c
      let f := (s.finishFail c m code).core c
      t.vis.tok[k] = (if m.gone = false ∧ k = m.tok then ⟨.done, 0, none⟩ else q.vis.tok[k])
      ∧ f.vis.tok[k] = (if m.gone = false ∧ k = m.tok then ⟨.failed, code, none⟩ else q.vis.tok[k])
      ∧ (∀ x, x ∈ t.cmds ↔ x ∈ q.cmds ∧ x.id ≠ m.id) ∧ f.cmds = t.cmds
      ∧ { t.vis with tok := q.vis.tok } = q.vis ∧ { f.vis with tok := q.vis.tok } = q.vis
      ∧ ({ s.finishDone c m with cores := s.cores } : State) = s ∧ ∀ d : Fin 64, d ≠ c → (s.finishDone c m).core d = s.core d)

/-- The checksums of R220: the CRC step takes the four bytes of a word lowest first, each bit of the shift register in the
reversed polynomial 0x82F63B78; the FOLD step rotates left by one and XORs the word; a command's words in memory order; a CRC
result is complemented. COPY_COMPLETE (R218, R220, R222, R242): a command whose source was read writes its destination and
sets its token DONE, with its running checksum as chain value when it has one and is not .LAST; a .LAST whose checksum is its
XV is DONE, another FAILED with 0x12 and the checksum trap; a page that stopped it fails it with 0x10 and ends the context.
The links between devices (R178, R218, R369, R383, R384, R387): LINK_WRITE_ARRIVAL writes its data, one bit inverted when an
injection came with it, and answers with the running checksum, or with 0x51 when its context is not live or a page refuses it;
LINK_ACK gives the answer to its command, a checksummed one ending as a local checksum does, and an answer without one is
discarded; ACK_TIMEOUT fails a command with 0x50, an
entry with 0x71. A copy starts (R217, R218): one of no byte is DONE; CP.FILL takes its pattern repeated, CP.TILE.FROM the bytes of
its tiles, whose tags are compared first where TW is set, CP.COPY what can be read of its source; each completes by COPY_COMPLETE.
The writer stamp of what a copy or a link writes is the model's choice (log 41). -/
def Obligations.CopiesAndLinks : Prop :=
  (
    (∀ (c w : Word), crcWord c w = (List.range 4).foldl (fun c i => (List.range 8).foldl
        (fun c _ => if c.getLsbD 0 then (c >>> 1) ^^^ 0x82F63B78 else c >>> 1) (c ^^^ (w >>> (8 * i) &&& 0xFF))) c)
    ∧ (∀ (c w : Word), foldWord c w = ((c <<< 1) ||| (c >>> 31)) ^^^ w)
    ∧ (∀ (crc : Bool) (c w : Word) (ws : List Word), runSum crc c [] = c
        ∧ runSum crc c (w :: ws) = runSum crc (if crc then crcWord c w else foldWord c w) ws)
    ∧ (∀ c : Word, sumResult true c = ~~~c ∧ sumResult false c = c)
    ∧ sumResult true (runSum true 0xFFFFFFFF (bytesWords (natBytes 8 0x3837363534333231))) = 0x6087809A)
  ∧ (
    ∀ (s t : State) (m : Cmd) (k q : Fin 64) (crc last : Bool) (b : Fin 2) (sz : StSize) (e : Nat × Nat),
      let c := s.ev.core
      let core := s.core c
      let dst := m.quad.2.1.toNat
      let bytes := rlist m.data
      let v := runSum crc m.chain (bytesWords bytes)
      let result : Word := if crc then ~~~v else v
      let summing : Instr := if crc then .cpSumCrc k q last else .cpSumFold k q last
      let write := s.copyWrite c core.vis.csr.cid dst bytes.length (bytesNat bytes)
        (stampOf core.vis.csr.cid c core.seqs[(3 : Fin 15)])
      core.cmd s.ev.id = some m → m.gone = false →
      (∀ (w : State) (z : Nat), s.copyPages c .write dst bytes.length = (w, none) →
        w.engineWrite core.vis.csr.cid dst bytes.length (bytesNat bytes)
          (stampOf core.vis.csr.cid c core.seqs[(3 : Fin 15)]) = (t, .inl z) → write = (t, none))
      ∧ (m.op = .cpCopy k q ∨ m.op = .cpFill k q sz ∨ m.op = .cpTileFrom k q b → m.err = none → write = (t, none) →
          exec .copyComplete s = .next (t.finishDone c m))
      ∧ (m.op = .cpCopy k q ∨ m.op = .cpFill k q sz ∨ m.op = .cpTileFrom k q b → write = (t, some e) → exec .copyComplete s
          = .next ((t.finishFail c m 0x10).accessEnd c m.cl 12 m.pc e.1 e.2))
      ∧ (m.op = summing → m.err = none → (m.quad.1.toNat ≠ dst ∧ write = (t, none)) ∨ (m.quad.1.toNat = dst ∧ t = s) →
          (last = false → exec .copyComplete s = .next (t.finish c m fun y => y.done m.tok (some (crc, v))))
          ∧ (last = true → result.toNat = m.quad.2.2.2.toNat / 2 ^ 32 → exec .copyComplete s = .next (t.finishDone c m))
          ∧ (last = true → result.toNat ≠ m.quad.2.2.2.toNat / 2 ^ 32 → exec .copyComplete s
              = .next ((t.finishFail c m 0x12).modCore c fun y => y.raise ⟨0x0D, 0x12, .l, 12, m.pc, 0⟩)))
      ∧ (m.op = .cpTileTo k q b → m.err = none → ∃ r, exec .copyComplete s = .next r
          ∧ (r.core c).tile = tileWrite core.tile b dst bytes.length (bytesNat bytes)
          ∧ (r.core c).vis.tok[m.tok] = ⟨.done, 0, none⟩ ∧ r.mem = s.mem))
  ∧ (
    ∀ (s w : State) (m : Cmd) (k q : Fin 64) (b : Fin 2) (sz : StSize) (data : List Byte) (err : Option (Nat × Nat)),
      let c := s.ev.core
      let t := s.modCore c (·.startCmd m)
      let a := m.quad.1.toNat
      let n := m.quad.2.2.1.toNat % 2 ^ 40
      let tag := m.quad.2.2.2.toNat / 2 ^ 32
      let stale : Prop := tag / 2 ^ 16 % 2 = 1 ∧ ∃ i ∈ tilesOf a n, srd 0 (4096 * b.val + i) (s.core c).tag ≠ BitVec.ofNat 16 tag
      let runs (r : State) (bytes : List Byte) (e : Option (Nat × Nat)) : Prop := ∃ bound, exec .commandStart s = .next
        ((r.modCore c fun y => y.modCmd m.id fun x => { x with data := rof bytes, chain := 0, err := e }).within bound .copyComplete
          ⟨c, m.id, [], []⟩)
      (s.core c).starting s.zc = some m →
      (m.op = .cpFill k q sz ∨ m.op = .cpTileFrom k q b ∨ m.op = .cpCopy k q → n = 0 →
        exec .commandStart s = .next (t.finishDone c m))
      ∧ (m.op = .cpFill k q sz → n ≠ 0 → n % StSize.bytes sz = 0 →
          runs t ((List.range n).map fun i => BitVec.ofNat 8 (a / 2 ^ (8 * (i % StSize.bytes sz)))) none)
      ∧ (m.op = .cpTileFrom k q b → n ≠ 0 →
          (stale → exec .commandStart s = .next (t.finishFail c m 0x13))
          ∧ (¬stale → runs t (natBytes n (tileRead (s.core c).tile b a n)) none))
      ∧ (m.op = .cpCopy k q → n ≠ 0 → t.copyRead c (s.core c).vis.csr.cid a n = (w, data, err) → runs w data err))
  ∧ (
    ∀ (s t : State) (m : Cmd) (n : Nat) (e : Nat × Nat) (ent : Ent),
      let len := rlen s.ev.data
      let x0 := bytesNat (rlist s.ev.data)
      let x := (if s.arg 7 = 1 then x0 ^^^ 2 ^ (32 * s.arg 8 + s.arg 9) else x0) % 2 ^ (8 * len)
      let cid : BitVec 12 := BitVec.ofNat 12 (s.arg 1)
      let v : Word := if s.arg 5 = 0 then 0 else runSum (s.arg 5 == 2) (BitVec.ofNat 32 (s.arg 6)) (bytesWords (natBytes len x))
      let write := s.engineWrite cid (s.arg 4) len x (stampOf cid (Fin.ofNat 64 (s.arg 2)) 0)
      let ans (w : State) (code : Byte) (v : Word) : State := w.answer (.ack (s.arg 0) (s.arg 2) (s.arg 3) code v)
      (s.rcidLive cid = false → exec .linkWriteArrival s = .next (ans s 0x51 0))
      ∧ (s.rcidLive cid = true → write = (t, .inl n) → exec .linkWriteArrival s = .next (ans t 0 v))
      ∧ (s.rcidLive cid = true → write = (t, .inr e) → exec .linkWriteArrival s = .next (ans t 0x51 0))
      ∧ ((s.core s.ev.core).cmd s.ev.id = some m →
          (s.arg 0 = 0 → sumOf m.op = none → exec .linkAck s = .next (s.finishDone s.ev.core m))
          ∧ (∀ crc : Bool, s.arg 0 = 0 → m.gone = false →
            let y : Word := BitVec.ofNat 32 (s.arg 1)
            let ok : Prop := (if crc then ~~~y else y).toNat = m.quad.2.2.2.toNat / 2 ^ 32
            (sumOf m.op = some (crc, false) →
              exec .linkAck s = .next (s.finish s.ev.core m fun k => k.done m.tok (some (crc, y))))
            ∧ (sumOf m.op = some (crc, true) → ok → exec .linkAck s = .next (s.finishDone s.ev.core m))
            ∧ (sumOf m.op = some (crc, true) → ¬ok → exec .linkAck s = .next
                ((s.finishFail s.ev.core m 0x12).modCore s.ev.core fun k => k.raise ⟨0x0D, 0x12, .l, 12, m.pc, 0⟩)))
          ∧ (s.arg 0 ≠ 0 → exec .linkAck s = .next (s.finishFail s.ev.core m (BitVec.ofNat 8 (s.arg 0))))
          ∧ (s.arg 0 ≠ 1 → exec .ackTimeout s = .next (s.finishFail s.ev.core m 0x50)))
      ∧ ((s.core s.ev.core).cmd s.ev.id = none → exec .linkAck s = .next s)
      ∧ (s.arg 0 = 1 → s.ent (s.arg 1) (s.arg 2) = some ent → exec .ackTimeout s = .next (s.entFail (s.arg 1) ent 0x71)))

/-- CQ_POST_APPENDED of an open queue pair with a free slot appends the entry, writes its slot and sets the token DONE;
it fails with 0x61 when the pair is not open to the context and 0x60 when it is full. CNT_WAIT_REACHED sets its DONE.
ENTRY_COMPLETE counts an acknowledgement, completes the entry at the last, or fails it (R223, R328, R329, R334).
ENTRY_FIRE fires an armed entry whose counter is at its threshold, or fails it with 0x70 when its fields break R330. ENTRY_START
starts the entry that fired first and may go on: with nothing to send it completes at once (R329-R331, R337); else it sends every
chunk, read or combined from four parts and rounded to WIRE, or in FP32 with ESC where that overflows, to every device of its list
in order; a refused page ends the context, no route fails it with 0x71 (R331, R332). The commands of R223 at their start:
CQ.POST is appended later, CQ.ARM arms a posted entry, CNT.ADD adds, CNT.WAIT waits, RL.INV drops the cached list; 0x61 or 0x62
where R223 says so. SIGNAL_ARRIVAL adds to its counter, or is answered 0x72 when the receiving context or the counter does not stand. CHUNK_ARRIVAL of a PUT with no status word writes its bytes, raises its counter and is acknowledged, or
answered 0x72 (R331, R334). A PUTRED chunk is refused with 0x73, and the context ends, when its GV or
GEN differs from a status word that counts contributions or from a chunk held with it (R336); unordered it is combined at once;
ordered it is held, 256 at most, until its EXPECT have come, which are combined in ascending source device, of one device in arrival
order (R333). Elements are combined from DST's value, rounded once to WIRE and written; the status word takes flags, ESC, with the first
contribution GV and GEN, and counts, as the counter does (R332, R333, R335). Model's choices: an entry's slot is written as it is posted
and the engine keeps its copy (log 77); a chunk's writes carry RCID and number 0 as stamp (log 41); 0x61 before 0x62 (log 112). -/
def Obligations.CollectiveEvents : Prop :=
  (
    ∀ (s t w : State) (m : Cmd) (e : Ent) (b z : Nat),
      let c := s.ev.core
      let cid := (s.core c).vis.csr.cid
      let q := m.quad.2.1.toNat
      let x := s.qp q
      let p := s.arg 0
      ((s.core c).cmd s.ev.id = some m →
        (x.openTo cid = false → exec .cqPostAppended s = .next (s.finishFail c m 0x61))
        ∧ (x.openTo cid = true → (∃ e ∈ x.ents, e.idx = x.tail) → exec .cqPostAppended s = .next (s.finishFail c m 0x60))
        ∧ (x.openTo cid = true → (∀ e ∈ x.ents, e.idx ≠ x.tail) → s.engineRead cid m.quad.1.toNat 64 = (t, .inl b) →
            t.engineWrite cid (x.base.toNat + 64 * x.tail) 64 b (stampOf cid c (t.core c).seqs[(3 : Fin 15)]) = (w, .inl z) →
            ∃ n : Ent, n.idx = x.tail ∧ n.bits = BitVec.ofNat 512 b ∧ n.st = .posted ∧ n.id = m.id
              ∧ exec .cqPostAppended s = .next ((w.setQp q { x with
                  ents := x.ents ++ [n], tail := (x.tail + 1) % 2 ^ x.logn }).finishDone c m)))
      ∧ (s.cntReady c = some m → exec .cntWaitReached s = .next (s.finishDone c m)
          ∧ m.quad.2.2.1 ≤ (s.cnt m.quad.1.toNat).val)
      ∧ (s.ent p (s.arg 1) = some e →
          (s.arg 2 ≠ 0 → exec .entryComplete s = .next (s.entFail p e (BitVec.ofNat 8 (s.arg 2))))
          ∧ (s.arg 2 = 0 → e.acks ≤ 1 → exec .entryComplete s
              = .next ((s.dropEnt p e.id).addCnt (e.bits.toNat / 2 ^ (8 * 0x30) % 2 ^ 12) 1))
          ∧ (s.arg 2 = 0 → 1 < e.acks → exec .entryComplete s
              = .next (s.modEnt p e.id fun e => { e with acks := e.acks - 1, owed := e.owed.erase (s.arg 3) }))))
  ∧ (
    ∀ (s : State) (q : Nat) (e : Ent),
      (s.firing = some (q, e) →
        (s.entOk (s.qp q) e.bits = false → exec .entryFire s = .next (s.entFail q e 0x70))
        ∧ (s.entOk (s.qp q) e.bits = true → ∃ devs, exec .entryFire s = .next ((s.modEnt q e.id fun e =>
            { e with st := .fired s.nextId, devs := devs }).bump)
            ∧ (e.bits.toNat / 2 ^ (8 * 0x38) % 2 ^ 48 = 0 → devs = [e.bits.toNat / 2 ^ 32 % 2 ^ 16]))
        ∧ (∃ n thr since, e.st = .armed n thr since ∧ since < s.zc ∧ thr ≤ (s.cnt n).val))
      ∧ (s.entryNext = some (q, e) → e.devs ≠ [] → entType e.bits ≠ 3 → entLen e.bits = 0 →
          exec .entryStart s = .next (s.entDone q e))
      ∧ (Rising s.qps → s.entryNext = some (q, e) → e.devs = [s.dev] → entType e.bits = 3 → ∃ w, exec .entryStart s
          = .next (((s.modEnt q e.id fun x => { x with st := .started, devs := [s.dev], acks := 1, owed := [s.dev] }).noteSend s.dev).later 1 w .signalArrival
            ⟨0, 0, [s.dev, q, e.id, (s.qp q).rcid.toNat, entDcnt e.bits, entLen e.bits], []⟩)))
  ∧ (
    ∀ (s : State) (m : Cmd) (k g : Fin 64) (e : Ent),
      let c := s.ev.core
      let cid := (s.core c).vis.csr.cid
      let t := s.modCore c (·.startCmd m)
      let a := m.quad.1.toNat
      let n := m.quad.2.2.1.toNat
      let owned (j : Nat) : Prop := j ≠ 0 ∧ (s.cnt j).asg = true ∧ (s.cnt j).cid = cid
      let posted (e : Ent) : Prop := e.idx = m.quad.2.1.toNat ∧ e.st = .posted
      let ends (r : State) : Prop := exec .commandStart s = .next r
      (s.core c).starting s.zc = some m →
      (m.op = .cqPost k g → ∃ d, ends (t.later 1 d .cqPostAppended ⟨c, m.id, [], []⟩))
      ∧ (m.op = .cqArm k g →
        ((s.qp a).openTo cid = false ∨ (∀ e ∈ (s.qp a).ents, ¬posted e) → ends (t.finishFail c m 0x61))
        ∧ ((s.qp a).openTo cid = true → (∃ e ∈ (s.qp a).ents, posted e) → ¬owned n → ends (t.finishFail c m 0x62))
        ∧ ((s.qp a).openTo cid = true → (s.qp a).ents.filter (fun e => posted e) = [e] → owned n →
            ends ((t.modEnt a e.id fun x => { x with st := .armed n (BitVec.ofNat 64 (m.quad.2.2.2.toNat / 2 ^ 32)) s.zc }).finishDone c m)))
      ∧ (m.op = .cntAdd k g → (owned a → ends ((t.addCnt a m.quad.2.2.1).finishDone c m)) ∧ (¬owned a → ends (t.finishFail c m 0x62)))
      ∧ (m.op = .cntWait k g → (owned a → ends t) ∧ (¬owned a → ends (t.finishFail c m 0x62)))
      ∧ (m.op = .rlInv k g → ∃ r : State, ends (r.finishDone c m) ∧ { r with ranks := s.ranks } = t
          ∧ ∀ x, x ∈ r.ranks ↔ x ∈ s.ranks ∧ ¬(x.cid = cid ∧ x.addr = a))
      ∧ (Rising s.cnts → ∀ (j i : Nat) (x : Dword), (s.addCnt j x).cnt i
          = if i = j ∧ j ≠ 0 then { s.cnt j with val := (s.cnt j).val + x } else s.cnt i))
  ∧ (
    ∀ (s t base : State) (q : Nat) (e : Ent) (devs : List Nat) (w r : Nat → State) (d : Nat → List Byte) (esc : Nat → Bool)
        (f : Nat → Flags) (x y : Nat) (z : Nat × Nat),
      let b := e.bits
      let cid := (s.qp q).cid
      let list := entRlist b
      let size := 4096 * 2 ^ entChk b
      let chunks := (entLen b + size - 1) / size
      let lo (i : Nat) : Nat := i * size
      let len (i : Nat) : Nat := min (entLen b - lo i) size
      let u : State := base.modEnt q e.id fun x => { x with
        st := .started, devs := devs, acks := chunks * devs.length, owed := (List.replicate chunks devs).flatten }
      let part (i : Nat) : Chunk := ⟨s.dev, q, e.id, (u.qp q).rcid, entType b == 2, entOp b, entWire b, entDst b + lo i,
        if entStatus b = 0 then 0 else entStatus b + 8 * i, entDcnt b, entExpect b, entSv b,
        BitVec.ofNat 16 (e.gens.getD (entSlot b) 0), esc i, f i, rof (d i)⟩
      let goes (i : Nat) : Prop := (w i).entRead (u.qp q).cid b (lo i) (len i) = (r i, .inl (d i, esc i, f i))
        ∧ w (i + 1) = devs.foldl (fun v n => v.sendChunk n (part i)) (r i)
      -- the device list: the entry's, the copy its list's cache holds, or the list read now
      let known : Prop := (e.devs = devs ∧ base = s) ∨ (e.devs = [] ∧ s.rankOf cid list = some devs ∧ base = s)
        ∨ (e.devs = [] ∧ s.rankOf cid list = none ∧ ∃ t z, s.readRanks cid list = (t, some devs, z) ∧ base = t.cacheRank ⟨cid, list, devs⟩)
      s.entryNext = some (q, e) → known → devs ≠ [] → base.dev = s.dev →
      ((∃ n ∈ devs, n ≠ s.dev) → base.routed = false → (entType b = 3 ∨ entLen b ≠ 0) → exec .entryStart s = .next (base.entFail q e 0x71))
      ∧ (entType b ≠ 3 → entLen b ≠ 0 → (∀ n ∈ devs, n = s.dev) ∨ base.routed = true → w 0 = u →
        ((∀ i < chunks, goes i) → exec .entryStart s = .next (w chunks))
        ∧ ∀ i < chunks, (∀ j < i, goes j) → (w i).entRead (u.qp q).cid b (lo i) (len i) = (r i, .inr z) →
            exec .entryStart s = .next (((r i).dropEnt q e.id).accessEndIn ((r i).qp q).cid e.core .w 13 e.pc z.1 z.2))
      ∧ (∀ (v : State) (n : Nat) (c : Chunk), n ≠ v.dev → v.sendChunk n c
          = { v with sent := sput n v.time v.sent, outbox := v.outbox ++ [.chunk n c] })
      ∧ (∀ (v : State) (c : Chunk), ∃ delay, v.sendChunk v.dev c
          = ({ v with sent := sput v.dev v.time v.sent } : State).later 1 delay .chunkArrival c.ev)
      ∧ (s.engineRead cid list 8 = (t, .inl x) → (x % 2 ^ 16 = 0 ∨ x / 2 ^ 16 ≠ 0 → s.readRanks cid list = (t, none, none))
          ∧ ∀ v, x % 2 ^ 16 ≠ 0 → x / 2 ^ 16 = 0 → t.engineRead cid (list + 8) (2 * x) = (v, .inl y) →
            s.readRanks cid list = (v, some ((List.range x).map fun i => y / 2 ^ (16 * i) % 2 ^ 16), none)))
  ∧ (
    ∀ (s t : State) (cid : BitVec 12) (b : BitVec 512) (lo n y : Nat) (a : Nat → State) (x : Nat → Nat),
      let w := entWire b
      let wb := wireBytes w
      let cnt := n / wb
      let parts := if entPkg b then 4 else 1
      let el (p j : Nat) : Nat × Flags := wireIn w (x p / 2 ^ (8 * wb * j) % 2 ^ (8 * wb))
      let run (p j : Nat) : Nat := (List.range p).foldl (fun y i => (combine (entOp b) w y (el (i + 1) j).1).1) (el 0 j).1
      let out (j : Nat) : Nat × Flags := wireOut w (run (parts - 1) j)
      let big : Prop := w ≠ 2 ∧ ∃ j < cnt, (out j).2 &&& flOF ≠ 0
      let bytes (wb : Nat) (v : Nat → Nat) : List Byte := ((List.range cnt).map fun j => natBytes wb (v j)).flatten
      (entType b = 2 → s.engineRead cid (entSrc b + lo) n = (t, .inl y) → s.entRead cid b lo n = (t, .inl (natBytes n y, false, 0)))
      ∧ (entType b = 1 → a 0 = s → (∀ p < parts, (a p).engineRead cid (entSrc b + p * entLen b + lo) n = (a (p + 1), .inl (x p))) →
          ∃ f g : Flags,
            (∀ k < 5, f.getLsbD k = true ↔ (∃ p < parts, ∃ j < cnt, (el p j).2.getLsbD k = true)
              ∨ ∃ p, p + 1 < parts ∧ ∃ j < cnt, (combine (entOp b) w (run p j) (el (p + 1) j).1).2.getLsbD k = true)
            ∧ (∀ k < 5, g.getLsbD k = true ↔ ∃ j < cnt, (out j).2.getLsbD k = true)
            ∧ (big → s.entRead cid b lo n = (a parts, .inl (bytes 4 (run (parts - 1)), true, f)))
            ∧ (¬big → s.entRead cid b lo n = (a parts, .inl (bytes wb fun j => (out j).1, false, f ||| g)))))
  ∧ (
    ∀ (s t w : State) (n : Nat),
      let cid : BitVec 12 := BitVec.ofNat 12 (s.arg 3)
      let c := Chunk.ofEv s.ev
      (s.rcidLive cid = true → (s.arg 4 = 0 ∨ s.cntOwned (s.arg 4) cid = true) → exec .signalArrival s
        = .next ((s.addCnt (s.arg 4) (BitVec.ofNat 64 (s.arg 5))).answer (.entAck (s.arg 0) (s.arg 1) (s.arg 2) 0)))
      ∧ (s.rcidLive cid = false ∨ (s.arg 4 ≠ 0 ∧ s.cntOwned (s.arg 4) cid = false) → exec .signalArrival s
        = .next (s.answer (.entAck (s.arg 0) (s.arg 1) (s.arg 2) 0x72)))
      ∧ (s.rcidLive c.rcid = false ∨ (c.dcnt ≠ 0 ∧ s.cntOwned c.dcnt c.rcid = false) →
          exec .chunkArrival s = .next (s.answer (.entAck c.src c.qp c.ent 0x72)))
      ∧ (s.rcidLive c.rcid = true → (c.dcnt = 0 ∨ s.cntOwned c.dcnt c.rcid = true) → c.put = true → c.esc = false →
          c.status = 0 → s.mayWrite c.rcid c.dst (rlen c.data) = (t, true) →
          t.engineWrite c.rcid c.dst (rlen c.data) (bytesNat (rlist c.data)) (stampOf c.rcid 0 0) = (w, .inl n) →
          exec .chunkArrival s = .next ((w.addCnt c.dcnt 1).answer (.entAck c.src c.qp c.ent 0))))
  ∧ (
    ∀ (s t v w : State) (status : Nat),
      let c := Chunk.ofEv s.ev
      let n := if c.esc then rlen c.data / 4 * wireBytes c.wire else rlen c.data
      let same (h : Held) : Bool := h.rcid == c.rcid && h.dst == c.dst
      let held := ((w.helds.find? same).map (·.parts)).getD []
      let rest := w.helds.filter fun h => !same h
      let answered (u : State) (p : Chunk) (code : Byte) : State := u.answer (.entAck p.src p.qp p.ent code)
      let clash : Prop :=
        (status / 2 ^ 32 % 2 ^ 16 ≠ 0 ∧ (status.testBit 6 ≠ c.gv ∨ status / 2 ^ 8 % 2 ^ 16 ≠ c.gen.toNat))
        ∨ ∃ h ∈ held, h.gv ≠ c.gv ∨ h.gen ≠ c.gen
      s.rcidLive c.rcid = true → (c.dcnt = 0 ∨ s.cntOwned c.dcnt c.rcid = true) → c.put = false → c.status ≠ 0 →
      s.mayWrite c.rcid c.dst n = (t, true) → t.mayWrite c.rcid c.status 8 = (v, true) →
      v.engineRead c.rcid c.status 8 = (w, .inl status) →
      (clash → exec .chunkArrival s = .next ((answered w c 0x73).endFor 64 c.rcid ⟨causeGen, 0, .c, 13, 0xFFFF, c.dst⟩ (homeDie c.dst)))
      ∧ (¬clash → c.expect = 0 → exec .chunkArrival s = .next (answered (w.reduceInto [c]) c 0))
      ∧ (¬clash → c.expect ≠ 0 → held = [] → 256 ≤ w.helds.length →
          exec .chunkArrival s = .next (w.at_ (w.zc + 1) .chunkArrival w.ev))
      ∧ (¬clash → c.expect ≠ 0 → held ≠ [] ∨ w.helds.length < 256 → ∃ parts : List Chunk, parts.Perm (c :: held)
          ∧ (held.Pairwise (fun x y => x.src ≤ y.src) → parts.Pairwise (fun x y => x.src ≤ y.src)
              ∧ parts.filter (·.src == c.src) = held.filter (·.src == c.src) ++ [c])
          ∧ (held.length + 1 < c.expect → exec .chunkArrival s = .next { w with helds := rest ++ [⟨c.rcid, c.dst, parts⟩] })
          ∧ (c.expect ≤ held.length + 1 → exec .chunkArrival s = .next
              (parts.foldl (fun u p => answered u p 0) (({ w with helds := rest } : State).reduceInto parts)))))
  ∧ (
    ∀ (s a : State) (c : Chunk) (more : List Chunk) (x : Nat),
      let parts := c :: more
      let w := c.wire
      let wb := wireBytes w
      let n := c.elems.1.length
      let el (p : Chunk) (i : Nat) : Nat := p.elems.1.getD i 0
      let first (i : Nat) : Nat × Flags := wireIn w (x / 2 ^ (8 * wb * i) % 2 ^ (8 * wb))
      let run (j i : Nat) : Nat := (parts.take j).foldl (fun y p => (combine p.op w y (el p i)).1) (first i).1
      let out (i : Nat) : Nat × Flags := wireOut w (run parts.length i)
      let data := bytesNat (((List.range n).map fun i => natBytes wb (out i).1).flatten)
      let stamp := stampOf c.rcid 0 0
      (∀ p ∈ parts, p.elems.1.length = n) → s.engineRead c.rcid c.dst (n * wb) = (a, .inl x) →
      ∃ f : Flags,
        (∀ k < 5, f.getLsbD k = true ↔ (∃ p ∈ parts, p.elems.2.getLsbD k = true) ∨ ∃ i < n, (first i).2.getLsbD k = true
          ∨ (out i).2.getLsbD k = true
          ∨ ∃ j, ∃ p, parts[j]? = some p ∧ (combine p.op w (run j i) (el p i)).2.getLsbD k = true)
        ∧ ∀ (b d e : State) (old z z' : Nat),
          let fresh := old / 2 ^ 32 % 2 ^ 16 = 0
          let word := ((BitVec.ofNat 5 old : Flags) ||| f).toNat
            + (if old.testBit 5 = true ∨ ∃ p ∈ parts, p.esc = true then 2 ^ 5 else 0)
            + (if fresh then c.gv.toNat else old / 2 ^ 6 % 2) * 2 ^ 6
            + (if fresh then c.gen.toNat else old / 2 ^ 8 % 2 ^ 16) * 2 ^ 8
            + (old / 2 ^ 32 % 2 ^ 16 + parts.length) % 2 ^ 16 * 2 ^ 32
          a.engineWrite c.rcid c.dst (n * wb) data stamp = (b, .inl z) → b.engineRead c.rcid c.status 8 = (d, .inl old) →
          d.engineWrite c.rcid c.status 8 word stamp = (e, .inl z') →
          s.reduceInto parts = e.addCnt c.dcnt (BitVec.ofNat 64 parts.length))
  ∧ (
    ∀ (w a b : Nat),
      let u := (readElemF 0 a).1
      let v := (readElemF 0 b).1
      let cp := rne32 (FV.sum [(cpHalves a).1, (cpHalves a).2, (cpHalves b).1, (cpHalves b).2]).1
      (w ≠ 2 → combine 0 w a b = add32 a b) ∧ (combine 0 2 a b).1 = (cpSplit (fp32.decode cp.1)).1
      ∧ (w ≠ 2 → (u.isNan || v.isNan) = true → (combine 1 w a b).1 = 0x7FC00000 ∧ (combine 2 w a b).1 = 0x7FC00000)
      ∧ (w ≠ 2 → (u.isNan || v.isNan) = false → (combine 1 w a b).1 = (if FV.ltZ u v then b else a)
          ∧ (combine 2 w a b).1 = if FV.ltZ u v then a else b))

/-- The elementwise vector words (R123-R127, R129-R134, R137, R140, R142, R145-R148): a named register with a pending write is a schedule
miss, a format outside R124 an illegal-state trap; else the unit is taken, and at the latency every active element lands as
its function of the source elements, bits [7:6] of a 6-bit element as zero, and no bit of an inactive one is written, with the
flags of the active ones. Model's choices: the register check comes before the format check (log 73: no rule orders them), and, its
reading, the sign of a 6-bit element in VSHA is its bit 5 (log 90). -/
def Obligations.ElementWords : Prop :=
  ∀ (s : State) (u : Cluster) (d a b : Fin 16) (mk fs : Fin 8),
    let spec (i : Instr) (unit : XUnit) (occ lat : Nat) (code : Nat) (fmts : List Nat)
        (f : Nat → Nat → Nat → Nat × Flags) : Prop :=
      let w := widthOf code
      let m (x : Nat) : Nat := x % 2 ^ (if code = 6 ∨ code = 7 then 6 else w)
      let el (r : Fin 16) (e : Nat) : Nat := m (elemAt w s.me.v[r] e)
      let res (e : Nat) : Nat × Flags := f (el a e) (el b e) (el d e)
      let on (e : Nat) : Prop := activeAt w (s.me.rm mk) e = true
      (s.me.xConflict i = true → exec i s = .next (s.raise causeMiss 0x02))
      ∧ (s.me.xConflict i = false → code ∉ fmts → exec i s = .next (s.raise causeState 0))
      ∧ (s.me.xConflict i = false → code ∈ fmts → s.goesTo u →
          (∀ r : Fin 16, (rlist s.me.v[r]).length = 6144) → (rlist (s.me.rm mk)).length = 6144 → ∃ (val msk : Runs Word) (g : Flags),
          exec i s = .next (xIssued s u ⟨unit, occ, lat⟩ [.vm d val msk] g)
          ∧ (rlist val).length = 6144 ∧ (rlist msk).length = 6144
          ∧ (∀ e < 6144 * (32 / w), on e → elemAt w val e = m (res e).1 ∧ elemAt w msk e = 2 ^ w - 1)
          ∧ (∀ e < 6144 * (32 / w), ¬on e → elemAt w msk e = 0)
          ∧ (∀ n < 5, g.getLsbD n = true ↔ ∃ e < 6144 * (32 / w), on e ∧ (res e).2.getLsbD n = true))
    let c := ftEfmt (s.ftEntry fs)
    let w := widthOf c
    let word (i : Instr) (lat : Nat) (fmts : List Nat) (f : Nat → Nat → Nat → Nat × Flags) : Prop := spec i .va 16 lat c fmts f
    let func (i : Instr) (f : FFmt → FV → Nat × Flags) : Prop := spec i .vf 16 30 c [0, 1, 2, 3] fun x _ _ => elFun f c x
    let bits (i : Instr) (f : Nat → Nat → Nat) : Prop :=
      word i 18 [0, 1, 2, 3, 4, 5, 6, 7, 8, 9, 10, 14, 15] fun x y _ => (f x y, 0)
    let shift (i : Instr) (f : Nat → Nat → Nat) : Prop :=
      word i 18 [0, 1, 2, 3, 4, 5, 6, 7, 9, 14, 15] fun x y _ => (f x (y % w), 0)
    let arith := [0, 1, 2, 3, 9, 15]
    let vw := if c = 6 ∨ c = 7 then 6 else w
    word (.vadd d a b mk fs) 18 arith (fun x y _ => elAdd c x y)
    ∧ word (.vsub d a b mk fs) 18 arith (fun x y _ => elSub c x y)
    ∧ word (.vmul d a b mk fs) 18 arith (fun x y _ => elMul c x y)
    ∧ word (.vmin d a b mk fs) 18 arith (fun x y _ => elPick true c x y)
    ∧ word (.vmax d a b mk fs) 18 arith (fun x y _ => elPick false c x y)
    ∧ word (.vfma d a b mk fs) 20 [0, 1, 2, 3] (fun x y z => elFma false false c x y z)
    ∧ word (.vfms d a b mk fs) 20 [0, 1, 2, 3] (fun x y z => elFma false true c x y z)
    ∧ word (.vfnma d a b mk fs) 20 [0, 1, 2, 3] (fun x y z => elFma true false c x y z)
    ∧ word (.vunNeg d a mk fs) 18 arith (fun x _ _ => elNeg c x)
    ∧ word (.vunAbs d a mk fs) 18 arith (fun x _ _ => elAbs c x)
    ∧ func (.vunRcp d a mk fs) recip ∧ func (.vunRsq d a mk fs) rsqrtF ∧ func (.vunSqrt d a mk fs) sqrtF
    ∧ func (.vunExp2 d a mk fs) exp2F ∧ func (.vunLog2 d a mk fs) log2F ∧ func (.vunTanh d a mk fs) tanhF
    ∧ func (.vunSigm d a mk fs) sigmF
    ∧ bits (.vunNot d a mk fs) (fun x _ => 2 ^ vw - 1 - x)
    ∧ bits (.vand d a b mk fs) (· &&& ·) ∧ bits (.vor d a b mk fs) (· ||| ·) ∧ bits (.vxor d a b mk fs) (· ^^^ ·)
    ∧ shift (.vshl d a b mk fs) (fun x n => x * 2 ^ n)
    ∧ shift (.vshr d a b mk fs) (fun x n => x / 2 ^ n)
    ∧ shift (.vsha d a b mk fs) (fun x n =>
        (((if x < 2 ^ (vw - 1) then (x : Int) else x - 2 ^ vw) / 2 ^ n) % 2 ^ vw).toNat)
    ∧ spec (.vscalex d a b mk fs) .vv 16 20 c [0, 1, 2, 3] (fun x y _ => elScale c w x y)
    ∧ spec (.vcadd d a b mk) .vv 16 20 14 [14] (fun x y _ => cpAdd x y)
    ∧ spec (.vcsplit d a mk) .vv 16 20 0 [0] (fun x _ _ => cpSplit (fp32.decode x))
    ∧ spec (.vrng d a mk) .vv 16 20 0 [0] (fun x _ _ =>
        let y := (x ^^^ (x * 2 ^ 13)) % 2 ^ 32
        let z := y ^^^ (y / 2 ^ 17)
        ((z ^^^ (z * 2 ^ 5)) % 2 ^ 32, 0))
    ∧ ∀ g : Fin 16,
        let x := (s.me.old.rg ⟨g.val, by omega⟩).toNat
        word (.vbcast d g mk fs) 18 [0, 1, 2, 3, 4, 5, 6, 7, 8, 9, 10, 14, 15] (fun _ _ _ => (x, 0))
        ∧ word (.vmom1 d a g mk fs) 20 [0] (fun y _ z => elMom1 (x % 2 ^ 32) (x / 2 ^ 32) z y)
        ∧ word (.vmom2 d a g mk fs) 20 [0] (fun y _ z => elMom2 (x % 2 ^ 32) (x / 2 ^ 32) z y)
        ∧ spec (.vadstep d a g mk fs) .vf 16 30 c [0] (fun y _ z =>
            adstep (fp32.decode z) (fp32.decode y) (fp32.decode (x % 2 ^ 32)) (fp32.decode (x / 2 ^ 32)))

/-- VCMP and MLOG (R135, R149): the bits that land in the mask register, lane by lane, with no flag; with z the old bit is
joined by AND; MLOG.POPC lands the count of ones in every lane. VSEL, VPERM, VROTE and VIOTA (R136, R144, R145): each writes a
function of the element index into every element it governs, bits [7:6] of a 6-bit element as zero, writes no bit of the others,
and raises no flag. VRED (R55, R143): every lane takes the root of the pairwise tree over the elements, each widened, an inactive
one replaced by the identity, and the flags are those of the tree's nodes. That the register check comes before the format
check is the model's choice (log 73). -/
def Obligations.MaskMoveAndReductionWords : Prop :=
  (
    ∀ (s : State) (u : Cluster) (d p q : Fin 8) (a b : Fin 16) (fs : Fin 8) (z : Bool),
      let c := ftEfmt (s.ftEntry fs)
      let bit (r : Fin 8) (i : Nat) : Bool := (rlist (s.me.rm r)).getD i false
      let spec (i : Instr) (t : Timing) (ok : Bool) (f : Nat → Bool) : Prop := xWordDoes s u i t ok fun ws fl =>
        fl = 0 ∧ ∃ val : Runs Bool, ws = [.m d val] ∧ Full val ∧ ∀ i < 6144, (rlist val).getD i false = f i
      let cmp (i : Instr) (f : FV → FV → Bool) : Prop := spec i ⟨.va, 16, 18⟩ ([0, 1, 15].contains c) fun i =>
        f (readElem c ((rlist s.me.v[a]).getD i 0).toNat) (readElem c ((rlist s.me.v[b]).getD i 0).toNat) && (!z || bit d i)
      let log (i : Instr) (f : Nat → Bool) : Prop := spec i ⟨.vk, 1, 2⟩ true f
      let un (x y : FV) : Bool := x.isNan || y.isNan
      cmp (.vcmpEq d a b fs z) FV.eqv
      ∧ cmp (.vcmpNe d a b fs z) (fun x y => un x y || !FV.eqv x y)
      ∧ cmp (.vcmpLt d a b fs z) FV.lt
      ∧ cmp (.vcmpLe d a b fs z) (fun x y => FV.lt x y || FV.eqv x y)
      ∧ cmp (.vcmpGt d a b fs z) (fun x y => FV.lt y x)
      ∧ cmp (.vcmpGe d a b fs z) (fun x y => FV.lt y x || FV.eqv x y)
      ∧ cmp (.vcmpUo d a b fs z) un
      ∧ log (.mlogAnd d p q) (fun i => bit p i && bit q i)
      ∧ log (.mlogOr d p q) (fun i => bit p i || bit q i)
      ∧ log (.mlogXor d p q) (fun i => bit p i ^^ bit q i)
      ∧ log (.mlogNot d p) (fun i => !bit p i)
      ∧ xWordDoes s u (.mlogPopc a q) ⟨.vk, 1, 8⟩ true fun ws fl => fl = 0 ∧ ∃ val : Runs Word, ws = [.v a val] ∧ Full val
          ∧ ∀ i < 6144, (rlist val).getD i 0 = BitVec.ofNat 32 ((List.range 6144).countP (bit q)))
  ∧ (
    ∀ (s : State) (u : Cluster) (d a b g : Fin 16) (mk fs : Fin 8),
      let c := ftEfmt (s.ftEntry fs)
      let w := widthOf c
      let n := 6144 * (32 / w)
      let m (x : Nat) : Nat := x % 2 ^ (if c = 6 ∨ c = 7 then 6 else w)
      let el (r : Fin 16) (e : Nat) : Nat := elemAt w s.me.v[r] e
      let on (e : Nat) : Bool := activeAt w (s.me.rm mk) e
      let spec (i : Instr) (t : Timing) (fmts : List Nat) (f : Nat → Nat) : Prop :=
        xWordDoes s u i t (fmts.contains c) fun ws fl => fl = 0 ∧ ∃ val msk : Runs Word, ws = [.vm d val msk] ∧ Full val ∧ Full msk
          ∧ ∀ e < n, if on e then elemAt w val e = f e ∧ elemAt w msk e = 2 ^ w - 1 else elemAt w msk e = 0
      let bits := [0, 1, 2, 3, 4, 5, 6, 7, 8, 9, 10, 14, 15]
      let s' := (s.me.old.rg ⟨g.val, by omega⟩).toNat % n
      (xWordDoes s u (.vsel d a b mk fs) ⟨.va, 16, 18⟩ (bits.contains c) fun ws fl => fl = 0 ∧ ∃ val : Runs Word,
          ws = [.v d val] ∧ Full val ∧ ∀ e < n, elemAt w val e = m (if on e then el a e else el b e))
      ∧ spec (.vperm d a b mk fs) ⟨.vp, 16, 22⟩ [0, 1, 2, 3, 14, 15] (fun e => if el b e < n then el a (el b e) else 0)
      ∧ spec (.vrote d a g mk fs) ⟨.vp, 16, 22⟩ bits (fun e => m (el a ((e + s') % n)))
      ∧ spec (.viota d mk fs) ⟨.va, 16, 18⟩ [0, 15] (fun e => if c = 15 then e else (fp32.ofFV (.fin false e 0)).1))
  ∧ (
    ∀ (s : State) (u : Cluster) (d a : Fin 16) (mk fs : Fin 8),
      let c := ftEfmt (s.ftEntry fs)
      let w := widthOf c
      let n := 6144 * (32 / w)
      let isInt := c = 9 ∨ c = 10 ∨ c = 15
      let x (ident : Nat) (e : Nat) : Nat :=
        if activeAt w (s.me.rm mk) e then
          (convert c (if isInt then 15 else 0) (elemAt w s.me.v[a] e % 2 ^ (if c = 6 ∨ c = 7 then 6 else w))).1
        else ident
      let spec (i : Instr) (node : Nat → Nat → Nat × Flags) (ident : Nat) : Prop :=
        xWordDoes s u i ⟨.vp, 16, 32⟩ ([0, 1, 2, 3, 4, 5, 6, 7, 8, 9, 10, 15].contains c) fun ws fl =>
          let at_ := treeAt (fun p q => (node p q).1) n (x ident)
          (∃ val : Runs Word, ws = [.v d val] ∧ Full val ∧ ∀ i < 6144, (rlist val).getD i 0 = BitVec.ofNat 32 (at_ 16 0))
          ∧ ∀ k < 5, fl.getLsbD k = true ↔ ∃ l e, 2 * e + 1 < levelCount n l
              ∧ (node (at_ l (2 * e)) (at_ l (2 * e + 1))).2.getLsbD k = true
      let num (p : Nat) : Int := if p % 2 ^ 32 < 2 ^ 31 then (p % 2 ^ 32 : Nat) else (p % 2 ^ 32 : Nat) - 2 ^ 32
      let pat (y : Int) : Nat := (y % 2 ^ 32).toNat
      let lim (y : Int) : Int := max (-2 ^ 31) (min (2 ^ 31 - 1) y)
      let pick (least : Bool) (p q : Nat) : Nat × Flags :=
        if (fp32.decode p).isNan || (fp32.decode q).isNan then (0x7FC00000, 0)
        else if FV.ltZ (fp32.decode p) (fp32.decode q) = least then (p, 0) else (q, 0)
      spec (.vredSum d a mk fs)
        (if isInt then fun p q => (pat (lim (num p + num q)), if lim (num p + num q) = num p + num q then 0 else 20) else add32)
        (if isInt then 0 else 0x80000000)
      ∧ spec (.vredMax d a mk fs) (if isInt then fun p q => (pat (max (num p) (num q)), 0) else pick false)
          (if isInt then 0x80000000 else 0xFF800000)
      ∧ spec (.vredMin d a mk fs) (if isInt then fun p q => (pat (min (num p) (num q)), 0) else pick true)
          (if isInt then 0x7FFFFFFF else 0x7F800000))

/-- VCVT and VCVTS, VQDX and VDQDX (R138, R139, R141): target element `e` is the conversion of source element `e`; the other
bits of the destination stay; a DX register holds its plane from bit 0 and zero above. Model's choices: the register check
comes before the format check (log 73), and what a CP32 of which one half is no number or an INT32 of more than 24 significant
bits becomes (log 67). -/
def Obligations.ConversionWords : Prop :=
  ∀ (s : State) (u : Cluster) (d a b k : Fin 16) (mk fs : Fin 8),
    let c := ftEfmt (s.ftEntry fs)
    let wt := widthOf k.val
    let lane (r : Fin 16) (i : Nat) : Nat := ((rlist s.me.v[r]).getD i 0).toNat
    let big := max (widthOf c) wt
    let src (e : Nat) : Nat := elemAt (widthOf c) s.me.v[a] e % 2 ^ (if c = 6 ∨ c = 7 then 6 else widthOf c)
    let conv (ff : FFmt) (e : Nat) : Nat × Flags := stochastic ff (lane a e) (lane b e % 65536)
    let flags (fl : Flags) (n : Nat) (on : Nat → Bool) (f : Nat → Flags) : Prop :=
      ∀ j < 5, fl.getLsbD j = true ↔ ∃ e < n, on e = true ∧ (f e).getLsbD j = true
    let n := dxBits c
    let gap := ftGap (s.ftEntry fs)
    let block (q : Nat) := dxBlock n gap ((List.range 32).map fun i => lane a (32 * q + i))
    let num (v : Runs Word) : Nat := wordsNat (rlist v)
    let isDx := c = 11 ∨ c = 12 ∨ c = 13
    (k.val < 11 ∨ 14 ≤ k.val → xWordDoes s u (.vcvt d a k mk fs) ⟨.vv, 16, 20⟩
        ([0, 1, 2, 3, 4, 5, 6, 7, 8, 9, 10, 14, 15].contains c) fun ws fl =>
          flags fl (6144 * (32 / big)) (activeAt big (s.me.rm mk)) (fun e => (convert c k.val (src e)).2)
          ∧ ∃ val msk : Runs Word, ws = [.vm d val msk] ∧ Full val ∧ Full msk ∧ ∀ e < 6144 * (32 / wt),
              if e < 6144 * (32 / big) ∧ activeAt big (s.me.rm mk) e = true then
                elemAt wt val e = (convert c k.val (src e)).1 % 2 ^ wt ∧ elemAt wt msk e = 2 ^ wt - 1
              else elemAt wt msk e = 0)
    ∧ (∀ ff, ffmtOf k.val = some ff → k.val ≠ 0 → xWordDoes s u (.vcvts d a b k) ⟨.vv, 16, 20⟩ true fun ws fl =>
        flags fl 6144 (fun _ => true) (fun e => (conv ff e).2)
        ∧ ∃ val msk : Runs Word, ws = [.vm d val msk] ∧ Full val ∧ Full msk ∧ ∀ e < 6144 * (32 / wt),
            if e < 6144 then elemAt wt val e = (conv ff e).1 % 2 ^ wt ∧ elemAt wt msk e = 2 ^ wt - 1 else elemAt wt msk e = 0)
    ∧ xWordDoes s u (.vqdx d a b fs) ⟨.vv, 32, 40⟩ (decide (isDx ∧ d ≠ b)) (fun ws fl =>
        flags fl 192 (fun _ => true) (fun q => (block q).2.2.2)
        ∧ ∃ val exps : Runs Word, ws = [.v d val, .v b exps] ∧ Full val ∧ Full exps
          ∧ num val < 2 ^ (n * 6144) ∧ num exps < 2 ^ (16 * 192)
          ∧ (∀ e < 6144, num val / 2 ^ (n * e) % 2 ^ n = (block (e / 32)).1.getD (e % 32) 0 % 2 ^ n)
          ∧ ∀ q < 192, num exps / 2 ^ (16 * q) % 2 ^ 16 = ((block q).2.1 + 256 * (block q).2.2.1) % 2 ^ 16)
    ∧ xWordDoes s u (.vdqdx d a b fs) ⟨.vv, 16, 20⟩ (decide isDx) (fun ws fl => fl = 0
        ∧ ∃ val : Runs Word, ws = [.v d val] ∧ Full val ∧ ∀ e < 6144,
            let x := num s.me.v[b] / 2 ^ (16 * (e / 32)) % 2 ^ 16
            (rlist val).getD e 0 = BitVec.ofNat 32
              (fp32.ofFV (dxValue n (x % 256) (x / 256) (num s.me.v[a] / 2 ^ (n * e) % 2 ^ n))).1)

/-- The deferral queue and the accumulator port (R150-R156, R200): overflow traps and leaves the queue; entries join and leave
in order at issue; the port's words check the row word, frozen tiles, targeted tiles and MX.LACC cycles in turn, read what the
port's earlier words write, and land at their latency. X_RESULT_LANDS (R14, R47, R123, R125, R155, R200): each register the word
writes takes its value, of one under a mask the bits of the active elements, a write of m0 is discarded, the elements of a tile take theirs, a cleared tile reads +0 and keeps
reading it when an older VACCWR of it would land later, for the port performs its words in order (R154), the flags join
FFLAGS, and nothing else changes. Model's choices: the order of the port's checks (log 74), the register check before all
others (log 73), and that the fields a DQPUSH does not use count as named (log 72). -/
def Obligations.QueueAndPortWords : Prop :=
  (
    ∀ (s : State) (u : Cluster) (d a b g at_ : Fin 16) (mk fs : Fin 8) (n : BitVec 3),
      let lane (r : Fin 16) (i : Nat) : Word := (rlist s.me.v[r]).getD i 0
      let on (i : Nat) : Bool := (rlist (s.me.rm mk)).getD i false
      let full : Prop := (∀ r : Fin 16, Full s.me.v[r]) ∧ ∀ r : Fin 8, Full s.me.m[r]
      let push := Instr.dqpush a b mk n
      let drain := Instr.dqdrain d a b
      let entries := ((List.range 6144).filter on).map fun i =>
        (i, if 1 ≤ n.toNat then lane a i else 0, if n.toNat = 2 then lane b i else 0)
      let dq (f : Core → Core) (ws : List XWrite) : State := ((((s.modMe fun k => { f k with
          units := k.units.set (5 : Fin 8) (s.zc + 16), xpend := k.xpend ++ [⟨s.nextId, s.zc + 18, s.clu.pc, ws, 0⟩] }).bump).beats
          ⟨.dq, 16, 18⟩).at_ (s.zc + 18) .xResultLands (.of s.turn.core s.nextId)).settle u 0
      let w := s.me.old.rg ⟨g.val, by omega⟩
      let row0 := w.toNat % 128
      let rows := w.toNat / 256 % 64
      let side := w.getLsbD 16
      let rowOk (sideOk : Bool) : Prop := w &&& ~~~0x13F7F = 0
        ∧ if side then sideOk = true ∧ row0 = 0 ∧ rows = 0 else 1 ≤ rows ∧ rows ≤ 48 ∧ row0 + rows ≤ 128
      let occ := if side then 5 else rows
      let lacc (occ : Nat) : Prop := ∃ x ∈ s.me.laccs, x.start < s.zc + occ ∧ s.zc < x.start + cbM x.cb
      let port (i : Instr) (occ lat : Nat) (ok : Prop) (lands : List XWrite → Flags → Prop) : Prop :=
        (s.me.xConflict i = true → exec i s = .next (s.raise causeMiss 0x02))
        ∧ (s.me.xConflict i = false → ¬ok → exec i s = .next (s.raise causeState 0))
        ∧ (s.me.xConflict i = false → ok → s.me.frozenTile at_.val = true → exec i s = .next (s.raise causeHandler 0))
        ∧ (s.me.xConflict i = false → ok → s.me.frozenTile at_.val = false → s.me.targeted at_.val = true →
            exec i s = .next (s.raise causeMiss 0x08))
        ∧ (s.me.xConflict i = false → ok → s.me.frozenTile at_.val = false → s.me.targeted at_.val = false → lacc occ →
            exec i s = .next (s.raise causeMiss 0x0B))
        ∧ (s.me.xConflict i = false → ok → s.me.frozenTile at_.val = false → s.me.targeted at_.val = false → ¬lacc occ →
            s.goesTo u → full → ∃ ws f, exec i s = .next (xIssued s u ⟨.ap, occ, lat⟩ ws f) ∧ lands ws f)
      let c := ftEfmt (s.ftEntry fs)
      let wd := widthOf c
      let pos (e : Nat) : Nat × Nat :=
        if side then if e < 130 then (128, e) else if e < 260 then (129, e - 130) else if e < 388 then (e - 260, 128) else (e - 388, 129)
        else (row0 + e / 128, e % 128)
      let count := if side then 516 else 128 * rows
      let got (e : Nat) : Nat × Flags :=
        let x := accRead s.me.accSoon at_.val (pos e).1 (pos e).2
        if c = 2 ∨ c = 3 then convert 0 c x else (x, 0)
      (s.me.xConflict push = true → exec push s = .next (s.raise causeMiss 0x02))
      ∧ (s.me.xConflict push = false → full → 24576 < s.me.dq.length + entries.length →
          exec push s = .next (s.raise causeDefer 0))
      ∧ (s.me.xConflict push = false → full → s.me.dq.length + entries.length ≤ 24576 → s.goesTo u →
          exec push s = .next (dq (fun k => { k with dq := k.dq ++ entries }) []))
      ∧ (s.me.xConflict drain = true → exec drain s = .next (s.raise causeMiss 0x02))
      ∧ (s.me.xConflict drain = false → d = a ∨ d = b ∨ a = b → exec drain s = .next (s.raise causeState 0))
      ∧ (s.me.xConflict drain = false → d ≠ a → d ≠ b → a ≠ b → s.goesTo u → ∃ x y z : Runs Word,
          let cnt := min 6144 s.me.dq.length
          exec drain s = .next (dq (fun k => { k with dq := k.dq.drop cnt, dn := cnt }) [.v d x, .v a y, .v b z])
          ∧ Full x ∧ Full y ∧ Full z
          ∧ ∀ j < 6144, let e := s.me.dq.getD j (0, 0, 0)
              if j < cnt then (rlist x).getD j 0 = BitVec.ofNat 32 e.1 ∧ (rlist y).getD j 0 = e.2.1 ∧ (rlist z).getD j 0 = e.2.2
              else (rlist x).getD j 0 = 0 ∧ (rlist y).getD j 0 = 0 ∧ (rlist z).getD j 0 = 0)
      ∧ port (.vaccrd d at_ g mk fs) occ (occ + 30) (rowOk true ∧ (c = 0 ∨ c = 2 ∨ c = 3 ∨ c = 15)) (fun ws f =>
          (∀ j < 5, f.getLsbD j = true ↔ ∃ e < count, activeAt wd (s.me.rm mk) e = true ∧ (got e).2.getLsbD j = true)
          ∧ ∃ val msk : Runs Word, ws = [.vm d val msk] ∧ Full val ∧ Full msk ∧ ∀ e < 6144 * (32 / wd),
              if e < count ∧ activeAt wd (s.me.rm mk) e = true then elemAt wd val e = (got e).1 % 2 ^ wd ∧ elemAt wd msk e = 2 ^ wd - 1
              else elemAt wd msk e = 0)
      ∧ port (.vaccwr at_ a g mk) occ (occ + 30) (rowOk false) (fun ws f => f = 0
          ∧ ∃ val : Runs (Option Word), ws = [.acc at_.val row0 val] ∧ (rlist val).length = 128 * rows
            ∧ ∀ e < 128 * rows, (rlist val).getD e none = if on e then some (lane a e) else none)
      ∧ port (.mxZero at_) 16 20 True (fun ws f => ws = [.zero at_.val] ∧ f = 0))
  ∧ (
    ∀ (s : State) (x : XPend), (s.core s.ev.core).xpend.find? (·.id == s.ev.id) = some x →
      let k := s.core s.ev.core
      ∃ t, exec .xResultLands s = .next t ∧ t.mem = s.mem ∧ t.agenda = s.agenda
      ∧ (∀ c : Fin 64, c ≠ s.ev.core → t.core c = s.core c)
      ∧ (let q := t.core s.ev.core
         q.vis.g = k.vis.g ∧ q.vis.csr = { k.vis.csr with fflags := k.vis.csr.fflags ||| x.flags }
         ∧ ((∀ tl, .zero tl ∉ x.writes) → q.xpend = k.xpend.filter (·.id != x.id))
         ∧ (∀ tl, x.writes = [.zero tl] → q.xpend = (k.xpend.filter (·.id != x.id)).map fun y =>
            if y.id < x.id then { y with writes := y.writes.map (·.cleared tl) } else y)
         ∧ (∀ r val pre post, x.writes = pre ++ .v r val :: post → (∀ y, .v r y ∉ post) → (∀ y z, .vm r y z ∉ post) → q.v[r] = val)
         ∧ (∀ r val msk, x.writes = [.vm r val msk] → Full k.v[r] → Full val → Full msk → Full q.v[r] ∧ ∀ i < 6144,
            let on := (rlist msk).getD i 0
            (rlist q.v[r]).getD i 0 = ((rlist val).getD i 0 &&& on) ||| ((rlist k.v[r]).getD i 0 &&& ~~~on))
         ∧ (∀ r : Fin 16, (∀ val, .v r val ∉ x.writes) → (∀ val msk, .vm r val msk ∉ x.writes) → q.v[r] = k.v[r])
         ∧ (∀ r val pre post, r ≠ 0 → x.writes = pre ++ .m r val :: post → (∀ y, .m r y ∉ post) → q.m[r] = val)
         ∧ (∀ r : Fin 8, r = 0 ∨ (∀ val, .m r val ∉ x.writes) → q.m[r] = k.m[r])
         ∧ ((∀ tl r val, .acc tl r val ∉ x.writes) → (∀ tl, .zero tl ∉ x.writes) → q.acc = k.acc)
         ∧ (∀ tl, x.writes = [.zero tl] → Rising k.acc → ∀ tl' i j, i < 256 → j < 256 →
            accRead q.acc tl' i j = if tl' = tl then 0 else accRead k.acc tl' i j)
         ∧ ∀ tl row val, x.writes = [.acc tl row val] → Rising k.acc → row + (rlist val).length / 128 < 256 →
            ∀ tl' i j, i < 256 → j < 256 → accRead q.acc tl' i j =
              match if tl' = tl ∧ row ≤ i ∧ j < 128 then (rlist val).getD ((i - row) * 128 + j) none else none with
              | some w => w.toNat
              | none => accRead k.acc tl' i j))

/-- MX.MMA, MX.MMAT and MX.MMAC at issue (R191, R193, R237): the checks are made in the order handle, block, token, frozen
tile, room, stamp (the model's choice, log 84: the rules give no order; the comparison of the stamp within one turn of the
64-bit count is log 81), and the first that fails is the fault taken; else the command joins its shape's queue with its start
count and arrives there four counts and the die's latency later. The checks of the block of a product command (R39, R57, R190,
R191, R192, R197, R198): formats, depth and width of the shape, every operand row inside its bank group, tile ranges below a12
that share no tile, and the limits of the triangular and the checked form, for a command without a Halo function and for one
with PROJ, SKETCH or both, which also asks for a slot that holds its rows and for what R203 to R207 limit. (A dimension that
no CBSET has set is 0 and breaks no limit: log 20.) -/
def Obligations.MatrixWords : Prop :=
  (
    ∀ (s : State) (u : Cluster) (cb : Fin 16) (h : Fin 8) (chk : Bool) (k : Fin 64),
      let c := s.turn.core
      let v := s.me.old
      let b := v.cb[cb]
      let fmt := s.ftEntry (cbFcol b)
      let g := s.me.shape[h]
      let p := v.slot[(cbPslot b)]
      let q := v.slot[(cbSslot b)]
      let tiles := rangeTiles (tileRanges b p q)
      let alpha := s.zc + s.lat (zenithOf c) (cumulusOf c) + 4
      let sigma := (alpha - s.lat 0 (cumulusOf c)) / 2 ^ 64 * 2 ^ 64 + (v.csr.zbase.toNat + cbStamp b) % 2 ^ 64
        + s.lat 0 (cumulusOf c)
      let tok : Option (Nat × Byte) := if chk then tokCheck v.tok[k] else none
      let spec (i : Instr) : Prop :=
        let ok := productOk i b fmt g p q v.csr.haloctl
        let trap : Option State :=
          if v.sh[h] = .frozen then some (s.raise causeHandler 0)
          else if v.sh[h] ≠ .live then some (s.raise causeShape 0)
          else if ok = false then some (s.raise causeState 0)
          else if tok.isSome then some (s.raise (tok.getD (0, 0)).1 (tok.getD (0, 0)).2)
          else if ∃ t ∈ tiles, s.me.frozenTile t = true then some (s.raise causeHandler 0)
          else if 16 ≤ g.queue.length then some (s.raise causeMiss 0x05)
          else if sigma < alpha then some (s.raise causeMiss 0x06)
          else none
        let m : MCmd := ⟨s.nextId, i, b, fmt, p, q, s.clu.pc, sigma, alpha, false, false, 0, 0, []⟩
        (∀ t, trap = some t → exec i s = .next t)
        ∧ (trap = none → s.goesTo u → exec i s = .next (((((s.modMe fun k =>
            { k.modShape h fun g => { g with queue := g.queue ++ [m], count := g.count + 1 } with
              units := k.units.set (7 : Fin 8) (s.zc + 1) }).bump).first sigma .matrixCommandStart ⟨c, s.nextId, [h.val], []⟩).first
            alpha .commandArrival ⟨c, s.nextId, [h.val], []⟩).settle u 0))
      spec (.mxMma cb h chk k) ∧ spec (.mxMmat cb h chk k) ∧ spec (.mxMmac cb h chk k))
  ∧ (
    ∀ (b : Vector Dword 8) (fmt : Word) (g : Shape) (p q : Slot) (ctl : BitVec 2) (cb : Fin 16) (h : Fin 8) (chk : Bool) (k : Fin 64),
      let e := ftEfmt fmt
      let isInt := e = 9 ∨ e = 10
      let isDx := e = 11 ∨ e = 12 ∨ e = 13
      let brows := if isDx then (cbN b, cbK b) else (cbK b, cbN b)
      let inside (off pitch rows bytes : Nat) : Prop := ∀ r < rows, off + r * pitch + bytes ≤ 2 ^ 21
      let plain : Prop := e ≤ 13 ∧ (if isInt then ftAfmt fmt = 15 ∧ ftScaled fmt = false else ftAfmt fmt = 0)
        ∧ (isDx → cbK b % 32 = 0) ∧ cbAbg b = 0 ∧ cbBbg b = 1 ∧ cbK b ≤ 128 * g.d ∧ cbN b ≤ 128 * g.w
        ∧ inside (cbAoff b) (cbApitch b) (cbM b) (rowBytes e (cbK b))
        ∧ (cbBkeep b = true ∨ inside (cbBoff b) (cbBpitch b) brows.1 (rowBytes e brows.2))
        ∧ cbAtile b + (cbN b + 127) / 128 * ((cbM b + 127) / 128) ≤ 12
      cbProj b = false → cbSketch b = false →
      (productOk (.mxMma cb h chk k) b fmt g p q ctl = true ↔ plain)
      ∧ (productOk (.mxMmat cb h chk k) b fmt g p q ctl = true ↔ plain)
      ∧ (productOk (.mxMmac cb h chk k) b fmt g p q ctl = true ↔
          plain ∧ cbM b ≤ 128 ∧ cbN b ≤ 128 ∧ cbAcc b = false ∧ ftScaled fmt = false))
  ∧ (
    ∀ (b : Vector Dword 8) (fmt : Word) (g : Shape) (p q : Slot) (ctl : BitVec 2) (cb : Fin 16) (h : Fin 8) (chk : Bool) (k : Fin 64),
      let e := ftEfmt fmt
      let isInt := e = 9 ∨ e = 10
      let isDx := e = 11 ∨ e = 12 ∨ e = 13
      let brows := if isDx then (cbN b, cbK b) else (cbK b, cbN b)
      let wN := (cbN b + 127) / 128
      let inside (off pitch rows bytes : Nat) : Prop := ∀ r < rows, off + r * pitch + bytes ≤ 2 ^ 21
      let operands : Prop := e ≤ 13 ∧ (if isInt then ftAfmt fmt = 15 ∧ ftScaled fmt = false else ftAfmt fmt = 0)
        ∧ (isDx → cbK b % 32 = 0) ∧ cbAbg b = 0 ∧ cbBbg b = 1 ∧ cbK b ≤ 128 * g.d ∧ cbN b ≤ 128 * g.w
        ∧ inside (cbAoff b) (cbApitch b) (cbM b) (rowBytes e (cbK b))
        ∧ (cbBkeep b = true ∨ inside (cbBoff b) (cbBpitch b) brows.1 (rowBytes e brows.2))
      let outN := wN * ((cbM b + 127) / 128)
      let projN := (p.rank.toNat + 127) / 128 * wN
      let skN := (q.rows.toNat + 127) / 128
      let out (t : Nat) : Prop := cbProj b = false ∧ cbAtile b ≤ t ∧ t < cbAtile b + outN
      let proj (t : Nat) : Prop := cbProj b = true ∧ cbPtile b ≤ t ∧ t < cbPtile b + projN
      let sk (t : Nat) : Prop := cbSketch b = true ∧ cbStile b ≤ t ∧ t < cbStile b + skN
      let rows (x : Slot) : Prop := x.rowoff.toNat ≤ cbGrow b ∧ cbGrow b + cbM b ≤ x.rowoff.toNat + x.rows.toNat
      let halo : Prop :=
        (cbProj b = false → cbAtile b + outN ≤ 12)
        ∧ (cbProj b = true → cbPtile b + projN ≤ 12 ∧ p.rank.toNat ≠ 0 ∧ rows p ∧ ftAfmt fmt = 0 ∧ ctl.getLsbD 0 = true)
        ∧ (cbSketch b = true → cbStile b + skN ≤ 12 ∧ q.kw.toNat ≠ 0 ∧ rows q ∧ ftAfmt fmt = 0 ∧ ctl.getLsbD 1 = true)
        ∧ (if cbProj b then p.rank.toNat else 0) + (if cbSketch b then q.kw.toNat else 0) ≤ 256
        ∧ ∀ t, ¬(out t ∧ sk t) ∧ ¬(proj t ∧ sk t)
      cbProj b = true ∨ cbSketch b = true →
      (productOk (.mxMma cb h chk k) b fmt g p q ctl = true ↔ operands ∧ halo)
      ∧ productOk (.mxMmat cb h chk k) b fmt g p q ctl = false ∧ productOk (.mxMmac cb h chk k) b fmt g p q ctl = false)

/-- MX.DRAIN and MX.LACC (R201, R202, R235, R237). LACC_START, FAULT_REPORT_ARRIVAL and CHARGE_BALANCE_WINDOW (R156, R202,
R235, R238, R246, R262, R318): the checks at an MX.LACC's stamp, one row a cycle after it: each element of the row is widened, or
taken as INT32 for 15, and put in its place of its tile with ACC = 0, added there with ACC = 1, in FP32 rounded once or exactly in
two's complement limited by SAT, the flags of the additions gathered and raised with the last row, every other element staying
(R53, R202); a report raises its fault on its core in the cycle it arrives; when a window has ended, the pair's lesser member takes filler in the next to bring it to nine
tenths of the greater, within what that window has left (R354). Model's readings and choices: an MX.LACC before its arrival is
early with 0x06, the order of its checks at issue (log 110), its checks at its stamp come with its first row and its faults name QUEUE 2 (log 48), within one turn of the 64-bit count
(log 81); the window of the filler and its amount (log 76). -/
def Obligations.DrainAndAccumulate : Prop :=
  (
    ∀ (s : State) (u : Cluster) (h : Fin 8) (cb : Fin 16),
      let c := s.turn.core
      let atDrain : Prop := s.me.old.sh[h] = .free ∨ s.me.shape[h].queue = []
      let b := s.me.old.cb[cb]
      let fmt := s.ftEntry (cbFcol b)
      let e := ftEfmt fmt
      let m := cbM b
      let n := cbN b
      let wn := (n + 127) / 128
      let ok : Prop := (e ≤ 8 ∨ e = 15) ∧ 1 ≤ m ∧ m ≤ 1048576 ∧ 1 ≤ n ∧ n ≤ 1024 ∧ m ≤ 128 * (12 / wn) ∧ cbAbg b = 0
        ∧ cbAoff b % 64 = 0 ∧ cbApitch b % 64 = 0 ∧ 64 ≤ cbApitch b ∧ cbApitch b ≤ 65472
        ∧ (∀ r < m, cbAoff b + r * cbApitch b + rowBytes e n ≤ 2 ^ 21) ∧ cbAtile b + wn * ((m + 127) / 128) ≤ 12
      let alpha := s.zc + s.lat (zenithOf c) (cumulusOf c) + 4
      let start := (alpha - s.lat 0 (cumulusOf c)) / 2 ^ 64 * 2 ^ 64 + (s.csr.zbase.toNat + cbStamp b) % 2 ^ 64
        + s.lat 0 (cumulusOf c)
      let frozen : Prop := ∃ t, cbAtile b ≤ t ∧ t < cbAtile b + wn * ((m + 127) / 128) ∧ s.me.frozenTile t = true
      let early : Prop := start < alpha
      let meets : Prop := start < s.me.units[(6 : Fin 8)]
        ∨ ∃ x ∈ s.me.laccs, x.start < start + m ∧ start < x.start + cbM x.cb
      (¬atDrain → exec (.mxDrain h) s = .next (s.raise causeMiss 0x09))
      ∧ (atDrain → s.goesTo u → exec (.mxDrain h) s = .next (s.settle u 0))
      ∧ (¬ok → exec (.mxLacc cb) s = .next (s.raise causeState 0))
      ∧ (ok → frozen → exec (.mxLacc cb) s = .next (s.raise causeHandler 0))
      ∧ (ok → ¬frozen → early → exec (.mxLacc cb) s = .next (s.raise causeMiss 0x06))
      ∧ (ok → ¬frozen → ¬early → meets → exec (.mxLacc cb) s = .next (s.raise causeMiss 0x0B))
      ∧ (ok → ¬frozen → ¬early → ¬meets → s.goesTo u → exec (.mxLacc cb) s = .next (((s.modMe fun k => { k with
          laccs := k.laccs ++ [⟨s.nextId, b, fmt, s.clu.pc, start, 0⟩], units := k.units.set (7 : Fin 8) (s.zc + 1) }).bump.first
          start .laccStart ⟨c, s.nextId, [0], []⟩).settle u 0)))
  ∧ (
    ∀ (s : State) (x : Lacc),
      let c := s.ev.core
      let k := s.core c
      let b := x.cb
      let q := s.arg 0
      let drop := s.modCore c fun k => { k with laccs := k.laccs.filter (·.id != x.id) }
      let report (cause code : Nat) : Prop := exec .laccStart s =
        .next (drop.at_ (s.zc + s.lat (cumulusOf c) (zenithOf c)) .faultReportArrival ⟨c, 0, [cause, code, 2, x.pc.toNat], []⟩)
      let tagged := rowsTagged k.tag 0 (cbAoff b) (cbApitch b) (cbM b) (rowBytes (ftEfmt x.fmt) (cbN b)) (cbAtag b)
      let busy : Prop := ∃ t ∈ laccTiles b, k.tileBusy (fun _ => false) t x.start = true
      let n := cbN b
      let e := ftEfmt x.fmt
      let w := widthOf e
      -- a format that LACC takes, over an accumulator with its keys in order (an invariant: O57)
      let formed : Prop := (e ≤ 8 ∨ e = 15) ∧ Rising k.acc
      -- element j of the row as it is stored, and widened; the place of element (tile, row, column) that takes it; its new value
      let bits (j : Nat) : Nat := tileRead k.tile 0 (cbAoff b + q * cbApitch b) (rowBytes e n) / 2 ^ (w * j) % 2 ^ w
      let wide (j : Nat) : Nat := if e = 15 then bits j else (fp32.ofFV (readElem e (bits j))).1
      let tl (j : Nat) : Nat := cbAtile b + (n + 127) / 128 * (q / 128) + j / 128
      let prior (j : Nat) : Nat := accRead k.acc (tl j) (q % 128) (j % 128)
      let sum (j : Nat) : Nat × Flags := if cbAcc b = false then (wide j, 0)
        else if e = 15 then satOF 32 (bitsInt 32 (prior j) + bitsInt 32 (wide j)) else add32 (prior j) (wide j)
      let fl : Flags := (List.range n).foldl (fun f j => f ||| (sum j).2) x.flags
      let die := s.arg 0
      let pair := s.arg 1
      let now := s.windowOf (Fin.ofNat 8 die) s.zc
      let did (x : Nat) : Nat := workOf s.work die x (now - 1)
      let lo := min (did (2 * pair)) (did (2 * pair + 1))
      let hi := max (did (2 * pair)) (did (2 * pair + 1))
      let lesser := if did (2 * pair + 1) < did (2 * pair) then 2 * pair + 1 else 2 * pair
      let room := windowRoom (Fin.ofNat 8 die) - workOf s.work die lesser now
      let past (w : Work) : Bool := w.die == die && w.member / 2 == pair && w.win < now
      let d : Fin 8 := Fin.ofNat 8 die
      let gone (l : List Work) (from_ : Nat) : Nat := ((l.filter fun w => past w && s.windowOf d from_ ≤ w.win).map (·.n)).sum
      (k.laccs.find? (·.id == s.ev.id) = some x →
        (q = 0 → busy → report causeMiss 0x08)
        ∧ (q = 0 → ¬busy → tagged = false → report causeTag 0x03)
        ∧ ((q = 0 → ¬busy ∧ tagged = true) → q < cbM b → ∃ t, exec .laccStart s = .next t
            ∧ t.mem = s.mem ∧ (∀ d : Fin 64, d ≠ c → t.core d = s.core d)
            ∧ t.core c = { k with acc := (t.core c).acc, laccs := (t.core c).laccs, vis := (t.core c).vis }
            ∧ (formed → ∀ j < n, accRead (t.core c).acc (tl j) (q % 128) (j % 128) = (sum j).1 % 2 ^ 32)
            ∧ (Rising k.acc → ∀ u i j, i < 256 → j < 256 → (∀ y < n, ¬(u = tl y ∧ i = q % 128 ∧ j = y % 128)) →
                accRead (t.core c).acc u i j = accRead k.acc u i j)
            ∧ (q + 1 = cbM b → t.agenda = s.agenda ∧ (t.core c).laccs = k.laccs.filter (·.id != x.id)
              ∧ (formed →
                  (t.core c).vis = { k.vis with csr := { k.vis.csr with fflags := k.vis.csr.fflags ||| fl } }))
            ∧ (q + 1 ≠ cbM b → t.agenda = insertAt ⟨s.zc + 1, .laccStart, ⟨c, x.id, [q + 1], []⟩⟩ s.agenda
              ∧ (t.core c).vis = k.vis ∧ (formed →
                  (t.core c).laccs = k.laccs.map fun y => if y.id = x.id then { y with flags := fl } else y))))
      ∧ exec .faultReportArrival s = .next (s.modCore c (·.raise
          ⟨s.arg 0, BitVec.ofNat 8 (s.arg 1), .x, s.arg 2, BitVec.ofNat 16 (s.arg 3), 0⟩))
      ∧ ∃ t n, exec .chargeBalanceWindow s = .next t
          ∧ t = { s with
              gov := { s.gov with
                slots := s.gov.slots.set d (s.gov.slots[d] + gone (s.work ++ s.filler) s.gov.windowZc)
                fed := s.gov.fed.set d (s.gov.fed[d] + gone s.filler s.gov.metered) }
              work := s.work.filter (!past ·)
              filler := s.filler.filter (!past ·) ++ if n = 0 then [] else [⟨die, lesser, now, n⟩] }
          ∧ n ≤ room ∧ (9 * hi ≤ 10 * lo → n = 0)
          ∧ (10 * lo < 9 * hi → n ≠ room → 9 * hi ≤ 10 * (lo + n) ∧ 10 * (lo + n) < 9 * hi + 10))

/-- COMMAND_ARRIVAL, MATRIX_COMMAND_START and MATRIX_COMMAND_FINISH (R193, R194, R195, R238, R244, R246, R254, R256): an
arrived command of a shape that is not held makes the checks at its start count in order, and the first that fails is reported
to its core; else it is started, with its finish count fixed, and its B comes into the cells portion by portion, after which
its rows enter; at the finish count it leaves the queue. At the start a Halo command that does not accumulate clears the
elements its functions add to (R204, R205), of a sketch the rows below ROWS alone (the model's choice, log 100). That B comes portion
by portion, each in one step, is the model's reading (log 46). -/
def Obligations.MatrixEvents : Prop :=
  ∀ (s : State) (m : MCmd) (h : Fin 8), s.arg 0 = h.val →
    (s.core s.ev.core).shape[h].queue.find? (·.id == s.ev.id) = some m →
    let c := s.ev.core
    let k := s.core c
    let g := k.shape[h]
    let e := ftEfmt m.fmt
    let b := m.cb
    let first : Prop := ∃ x r, g.queue = x :: r ∧ x.id = m.id
    let busy (t : Nat) : Prop := (∃ h' : Fin 8, h' ≠ h ∧ ∃ x ∈ k.shape[h'].queue, x.started = true ∧ t ∈ x.targets)
      ∨ ∃ x ∈ k.xpend, m.sigma ≤ x.at_ ∧ ((∃ r v, .acc t r v ∈ x.writes) ∨ .zero t ∈ x.writes)
    let tagged (bg : Fin 2) (off pitch rows bytes : Nat) (tag : BitVec 16) : Prop := rowsTagged k.tag bg off pitch rows bytes tag = true
    let br := bRows e b
    let tagA := tagged 0 (cbAoff b) (cbApitch b) (cbM b) (rowBytes e (cbK b)) (cbAtag b)
    let tagB := cbBkeep b = true ∨ tagged 1 (cbBoff b) (cbBpitch b) br.1 (rowBytes e br.2) (cbBtag b)
    let clash : Prop := isDx e = true ∧ cbBkeep b = false ∧
      ∃ i j, i < j ∧ j < min 16 (cbN b) ∧ cbBpitch b / 64 * i % 16 = cbBpitch b / 64 * j % 16
    let go : Prop := m.started = false ∧ g.held = false ∧ m.arrived = true
    let next (f p : Nat) : List Timed :=
      if p + 1 < m.portions then
        insertFirst ⟨m.sigma + (p + 1) * m.portionTime, .matrixCommandStart, ⟨c, m.id, [h.val, p + 1], []⟩⟩ s.agenda
      else if m.rowList = [] then
        insertAt ⟨f, .matrixCommandFinish, ⟨c, m.id, [h.val], []⟩⟩ s.agenda
      else
        insertFirst ⟨m.sigma + m.loadTime + (m.streamTime + m.rowList.length - 1) / m.rowList.length - 1, .outputRowLands,
          ⟨c, m.id, [h.val, 0, 1], []⟩⟩ s.agenda
    let fault (cause code : Nat) : Prop := exec .matrixCommandStart s =
      .next (s.at_ (s.zc + s.lat (cumulusOf c) (zenithOf c)) .faultReportArrival ⟨c, 0, [cause, code, 4 + h.val, m.pc.toNat], []⟩)
    let F := m.sigma + m.loadTime + m.streamTime + (128 * g.d + 32 + if cbProj b || cbSketch b then 8 else 0) - 1
      + if m.check then 132 else 0
    exec .commandArrival s = .next (s.modCore c fun k => k.modShape h fun g =>
        { g with queue := g.queue.map fun x => if x.id = s.ev.id then { x with arrived := true } else x })
    ∧ (m.started = false → ¬go → exec .matrixCommandStart s = .next s)
    ∧ (m.started = true → ∃ t, exec .matrixCommandStart s = .next t ∧ t.mem = s.mem
        ∧ t.core c = (if s.arg 1 < m.portions then k.loadPortion h m (s.arg 1) else k) ∧ t.agenda = next m.finish (s.arg 1))
    ∧ (go → ¬first → fault causeMiss 0x07)
    ∧ (go → first → (∃ t ∈ m.targets, busy t) → fault causeMiss 0x08)
    ∧ (go → first → (∀ t ∈ m.targets, ¬busy t) → ¬tagA → fault causeTag 0x01)
    ∧ (go → first → (∀ t ∈ m.targets, ¬busy t) → tagA → ¬tagB → fault causeTag 0x02)
    ∧ (go → first → (∀ t ∈ m.targets, ¬busy t) → tagA → tagB → clash → fault causeBank 0x02)
    ∧ (go → first → (∀ t ∈ m.targets, ¬busy t) → tagA → tagB → ¬clash → ∃ t, exec .matrixCommandStart s = .next t
        ∧ t.mem = s.mem ∧ (∀ d : Fin 64, d ≠ c → t.core d = s.core d)
        ∧ ((t.core c).shape[h].queue.find? (·.id == m.id)) = some { m with started := true, finish := F }
        ∧ (t.core c).vis.g = k.vis.g ∧ (t.core c).tile = k.tile
        ∧ (cbProj b = false → cbSketch b = false → (t.core c).vis = k.vis ∧ (t.core c).acc = k.acc)
        ∧ (cbAcc b = true → (t.core c).acc = k.acc)
        ∧ (cbAcc b = false → k.old.csr.errinj.getLsbD 0 = false → Rising k.acc →
            let wN := (cbN b + 127) / 128
            let proj (x : Nat) : Prop := cbProj b = true ∧ ∃ r < m.pslot.rank.toNat, ∃ j < cbN b,
              x = accKey (cbPtile b + wN * (r / 128) + j / 128) (r % 128) (j % 128)
            let sk (x : Nat) : Prop := cbSketch b = true ∧ ∃ r < m.sslot.rows.toNat, ∃ j < m.sslot.kw.toNat,
              x = accKey (cbStile b + r / 128) (r % 128) j
            ∀ x, (proj x ∨ sk x → srd 0 x (t.core c).acc = 0) ∧ (¬proj x → ¬sk x → srd 0 x (t.core c).acc = srd 0 x k.acc))
        ∧ t.agenda = next F 0)
    ∧ ∃ t, exec .matrixCommandFinish s = .next t ∧ t.mem = s.mem ∧ (∀ d : Fin 64, d ≠ c → t.core d = s.core d)
        ∧ (t.core c).shape[h].queue = g.queue.filter (·.id != m.id)
        ∧ (∀ h' : Fin 8, h' ≠ h → (t.core c).shape[h'] = k.shape[h'])
        ∧ (m.skippedRows = [] → m.check = false → (t.core c).acc = k.acc)

/-- OUTPUT_ROW_LANDS (R50, R192, R196, R197, R256): at its entry a row of A is read from the tile store (that it is read in
that one step is the model's reading, log 46), and its landing follows the depth of the pipeline later; at its landing, for a
command without a Halo function, with no accumulator injection armed, every kept element of the row takes the sum of its
products, from its prior value when the command accumulates, every other element of the row takes TCONST, and no other
accumulator element changes; after the last row the finish follows. A row of a Halo command adds the projection of the rounded
row onto the basis, and its sketch by the signs of the hash, to the elements of their tiles, and takes its sums where it has
no PROJ (R203-R207). MX.MMAC forms at its finish, in the rows and columns 128 and 129 of its tile, the predicted and the
observed checksums and the counts of those that differ by more than the tolerance (R198). The sums of a product (R50, R53):
INT8 and INT4 products of each group of 16 are added exactly to the running sum and limited to INT32 with OF and NX (R46);
floating groups
are summed exactly, rounded once, and added with one more rounding; a scaled format multiplies by the rounded product of the
two scales. -/
def Obligations.Products : Prop :=
  (
    ∀ (s : State) (m : MCmd) (h : Fin 8) (q : Nat), s.arg 0 = h.val →
      (s.core s.ev.core).shape[h].queue.find? (·.id == s.ev.id) = some m → m.rowList[s.arg 1]? = some q → s.arg 2 ≠ 1 →
      cbProj m.cb = false → cbSketch m.cb = false → (s.core s.ev.core).old.csr.errinj.getLsbD 0 = false →
      Rising (s.core s.ev.core).acc →
      let c := s.ev.core
      let k := s.core c
      let key (j : Nat) : Nat := accKey (cbAtile m.cb + (cbN m.cb + 127) / 128 * (q / 128) + j / 128) (q % 128) (j % 128)
      let prior (j : Nat) : Nat := (srd 0 (key j) k.acc).toNat
      let out (j : Nat) : Nat :=
        (outElem m (cbAcc m.cb) (prior j) (m.aRow q) (k.shape[h].bCol (ftEfmt m.fmt) (cbK m.cb) j)).1
      ∃ t, exec .outputRowLands s = .next t ∧ t.mem = s.mem ∧ (∀ d : Fin 64, d ≠ c → t.core d = s.core d)
        ∧ (∀ j < cbN m.cb, srd 0 (key j) (t.core c).acc = BitVec.ofNat 32 (if m.kept q j then out j else cbTconst m.cb))
        ∧ (∀ x, (∀ j < cbN m.cb, x ≠ key j) → srd 0 x (t.core c).acc = srd 0 x k.acc)
        ∧ (t.core c).vis.g = k.vis.g ∧ (t.core c).tile = k.tile ∧ (t.core c).v = k.v
        ∧ t.agenda = (if s.arg 1 + 1 < m.rowList.length then s.agenda
          else insertAt ⟨m.finish, .matrixCommandFinish, ⟨c, m.id, [h.val], []⟩⟩ s.agenda))
  ∧ (
    ∀ (s : State) (m : MCmd) (h : Fin 8) (q : Nat) (ctl : BitVec 2), s.arg 0 = h.val →
      (s.core s.ev.core).shape[h].queue.find? (·.id == s.ev.id) = some m → m.rowList[s.arg 1]? = some q → s.arg 2 ≠ 1 →
      cbProj m.cb = true ∨ cbSketch m.cb = true →
      productOk m.op m.cb m.fmt (s.core s.ev.core).shape[h] m.pslot m.sslot ctl = true →
      (s.core s.ev.core).old.csr.errinj.getLsbD 0 = false → Rising (s.core s.ev.core).acc →
      let c := s.ev.core
      let k := s.core c
      let b := m.cb
      let N := cbN b
      let wN := (N + 127) / 128
      let p := m.pslot
      let y := m.sslot
      let r := p.rank.toNat
      let i := cbGrow b + q
      let row := i - y.rowoff.toNat
      let okey (j : Nat) : Nat := accKey (cbAtile b + wN * (q / 128) + j / 128) (q % 128) (j % 128)
      let pkey (ρ j : Nat) : Nat := accKey (cbPtile b + wN * (ρ / 128) + j / 128) (ρ % 128) (j % 128)
      let skey (w : Nat) : Nat := accKey (cbStile b + row / 128) (row % 128) w
      let prior (x : Nat) : Nat := (srd 0 x k.acc).toNat
      let sums (accum : Bool) (j : Nat) : Nat :=
        (outElem m accum (prior (okey j)) (m.aRow q) (k.shape[h].bCol (ftEfmt m.fmt) (cbK b) j)).1
      let x (j : Nat) : FV := bf16.decode (bf16.ofFV (fp32.decode (sums false j))).1
      let basis (ρ : Nat) : FV := bf16.decode
        (srd 0 (p.boff.toNat + p.gen.toNat % 2 * (p.rows.toNat * r) + (i - p.rowoff.toNat) * r + ρ) k.basis).toNat
      let hv (j w : Nat) : Nat := (y.seed.toNat + 0x9E37 * j + 0x7F4A * w + 0x3C6E * y.gen.toNat) % 65536
      let odd (n : Nat) : Bool := ((List.range 16).countP fun e => n.testBit e) % 2 == 1
      let omega (w : Nat) : List FV := (List.range N).map fun j => if odd (hv (cbGcol b + j) w) then (x j).negate else x j
      ∃ t, exec .outputRowLands s = .next t ∧ t.mem = s.mem ∧ (∀ d : Fin 64, d ≠ c → t.core d = s.core d)
        ∧ (cbProj b = true → ∀ ρ < r, ∀ j < N, srd 0 (pkey ρ j) (t.core c).acc
            = BitVec.ofNat 32 (fp32.ofFV (FV.add (fp32.decode (prior (pkey ρ j))) (FV.mul (basis ρ) (x j)).1).1).1)
        ∧ (cbSketch b = true → ∀ w < y.kw.toNat, srd 0 (skey w) (t.core c).acc
            = BitVec.ofNat 32 (add32 (prior (skey w)) (fp32.ofFV (FV.sum (omega w)).1).1).1)
        ∧ (cbProj b = false → ∀ j < N, srd 0 (okey j) (t.core c).acc = BitVec.ofNat 32 (sums (cbAcc b) j))
        ∧ (∀ z, (cbProj b = true → ∀ ρ < r, ∀ j < N, z ≠ pkey ρ j) → (cbSketch b = true → ∀ w < y.kw.toNat, z ≠ skey w) →
            (cbProj b = false → ∀ j < N, z ≠ okey j) → srd 0 z (t.core c).acc = srd 0 z k.acc)
        ∧ (t.core c).basis = k.basis ∧ (t.core c).tile = k.tile ∧ (t.core c).v = k.v)
  ∧ (
    ∀ (s : State) (m : MCmd) (h : Fin 8) (cb : Fin 16) (chk : Bool) (tok : Fin 64), s.arg 0 = h.val →
      (s.core s.ev.core).shape[h].queue.find? (·.id == s.ev.id) = some m → m.op = .mxMmac cb h chk tok →
      cbM m.cb ≤ 128 → cbN m.cb ≤ 128 → Rising (s.core s.ev.core).acc →
      let c := s.ev.core
      let k := s.core c
      let e := ftEfmt m.fmt
      let isInt : Bool := e == 9 || e == 10
      let M := cbM m.cb
      let N := cbN m.cb
      let K := cbK m.cb
      let T := cbAtile m.cb
      let num (p : Nat) : Int := if p % 2 ^ 32 < 2 ^ 31 then (p % 2 ^ 32 : Nat) else (p % 2 ^ 32 : Nat) - 2 ^ 32
      let lim (y : Int) : Int := max (-2 ^ 31) (min (2 ^ 31 - 1) y)
      -- a sum rounded once or limited to INT32, and the value of such a sum
      let once (xs : List FV) : Nat :=
        if isInt then (lim (xs.map FV.toI).sum % 2 ^ 32).toNat else (fp32.ofFV (FV.sum xs).1).1
      let val (x : Nat) : FV := if isInt then FV.ofInt (num x) else fp32.decode x
      let el (l : List FV) (i : Nat) : FV := l.getD i (.fin false 0 0)
      let A := m.aRow
      let B := k.shape[h].bCol e K
      let body (i j : Nat) : FV := val (srd 0 (accKey T i j) k.acc).toNat
      let ca := (List.range K).map fun i => val (once ((List.range M).map fun r => el (A r) i))
      let rb := (List.range K).map fun i => val (once ((List.range N).map fun j => el (B j) i))
      let pcol (j : Nat) : Nat := (dotFrom e 0 ca (B j)).1
      let prow (i : Nat) : Nat := (dotFrom e 0 (A i) rb).1
      let ocol (j : Nat) : Nat := once ((List.range M).map fun i => body i j)
      let orow (i : Nat) : Nat := once ((List.range N).map fun j => body i j)
      let fails (o p : Nat) : Bool :=
        let d := (FV.add (val o) (val p).negate).1
        d.isNan || FV.lt (.fin false 1 (cbTolexp m.cb)) d.abs
      let count (n : Nat) : Nat := if isInt then n else (fp32.ofFV (.fin false n 0)).1
      let side (i j : Nat) : Nat :=
        if i = 128 ∧ j < N then pcol j else if i = 129 ∧ j < N then ocol j
        else if j = 128 ∧ i < M then prow i else if j = 129 ∧ i < M then orow i
        else if i = 128 ∧ j = 128 then count ((List.range M).countP fun i => fails (orow i) (prow i))
        else if i = 128 ∧ j = 129 then count ((List.range N).countP fun j => fails (ocol j) (pcol j))
        else 0
      ∃ t, exec .matrixCommandFinish s = .next t ∧ t.mem = s.mem
        ∧ (∀ i < 130, ∀ j < 130, 128 ≤ i ∨ 128 ≤ j → srd 0 (accKey T i j) (t.core c).acc = BitVec.ofNat 32 (side i j))
        ∧ (∀ z i j, i < 128 → j < 128 → srd 0 (accKey z i j) (t.core c).acc = srd 0 (accKey z i j) k.acc)
        ∧ (∀ z i j, z ≠ T → i < 256 → j < 256 → srd 0 (accKey z i j) (t.core c).acc = srd 0 (accKey z i j) k.acc)
        ∧ (t.core c).vis = k.vis)
  ∧ (
    ∀ (s : State) (m : MCmd) (h : Fin 8) (q : Nat), s.arg 0 = h.val →
      (s.core s.ev.core).shape[h].queue.find? (·.id == s.ev.id) = some m → m.rowList[s.arg 1]? = some q → s.arg 2 = 1 →
      let c := s.ev.core
      let k := s.core c
      let i := s.arg 1
      let enters (i : Nat) : Nat := m.sigma + m.loadTime + ((i + 1) * m.streamTime + m.rowList.length - 1) / m.rowList.length - 1
      let pipe := 128 * k.shape[h].d + 32 + if cbProj m.cb || cbSketch m.cb then 8 else 0
      let land := insertAt ⟨enters i + pipe, .outputRowLands, ⟨c, m.id, [h.val, i], []⟩⟩ s.agenda
      ∃ t, exec .outputRowLands s = .next t ∧ t.mem = s.mem
        ∧ t.core c = k.modShape h (fun g => { g with queue := g.queue.map fun x =>
            if x.id = m.id then { x with rows := x.rows ++ [(q, k.aCodes m q)] } else x })
        ∧ t.agenda = if i + 1 < m.rowList.length then
            insertFirst ⟨enters (i + 1), .outputRowLands, ⟨c, m.id, [h.val, i + 1, 1], []⟩⟩ land else land)
  ∧ (
    ∀ (m : MCmd) (accum : Bool) (prior e start : Nat) (a b : List FV) (ps qs : List (FV × FV)),
      let lim (y : Int) : Int := max (-2 ^ 31) (min (2 ^ 31 - 1) y)
      let num (p : Nat) : Int := if p % 2 ^ 32 < 2 ^ 31 then (p % 2 ^ 32 : Nat) else (p % 2 ^ 32 : Nat) - 2 ^ 32
      let group := if e = 11 ∨ e = 12 ∨ e = 13 then 32 else 16
      let run (st : Nat) (xs : List (FV × FV)) : Nat × Flags := dotFrom e st (xs.map (·.1)) (xs.map (·.2))
      let exact := (ps.map fun p => p.1.toI * p.2.toI).sum
      let total := FV.sum (ps.map fun p => (FV.mul p.1 p.2).1)
      let scale := mul32 (cbSa m.cb) (cbSb m.cb)
      run start [] = (start, 0)
      ∧ (ps ≠ [] → ps.length ≤ group →
          (e = 9 ∨ e = 10 → run start ps =
            ((lim (num start + exact) % 2 ^ 32).toNat, if lim (num start + exact) = num start + exact then 0 else 20))
          ∧ (e ≠ 9 → e ≠ 10 → (run start ps).1 = (add32 start (fp32.ofFV total.1).1).1))
      ∧ (ps.length = group → (run start (ps ++ qs)).1 = (run (run start ps).1 qs).1)
      ∧ (ftScaled m.fmt = false → outElem m accum prior a b = dotFrom (ftEfmt m.fmt) (if accum then prior else 0) a b)
      ∧ (ftScaled m.fmt = true → (outElem m accum prior a b).1 =
          let o := (mul32 (dotFrom (ftEfmt m.fmt) 0 a b).1 scale.1).1
          if accum then (add32 prior o).1 else o))

/-- The mailbox events (R287, R288, R289, R290, R382): a post to a box that is EMPTY or REFUSED is refused with the first code
that applies, or is POSTED with its count; the launch forms when the last member's post matches; a withdrawal empties every
member's box; a KLAUNCH posts to every member or to none, the lowest-numbered that refuses giving its code (the model's choice, log 97). The
distributor (R291, R292, R293, R295, R296, R326, R314): the launch
selected can be selected and none that can ranks above it; its cores are taken; at its start every member begins at its entry
with its argument base, its gang and its context, and its mailbox is EMPTY; a context that PROBE suspended goes on. -/
def Obligations.Launches : Prop :=
  (
    ∀ (s : State) (m : Cmd),
      let c : Fin 64 := Fin.ofNat 64 (s.arg 0)
      let x : Dword := BitVec.ofNat 64 (s.arg 1)
      let b := s.mail[c]
      let free : Prop := b.st = .empty ∨ b.st = .refused
      let dw := b.dw.set 3 (x &&& 0x0000FFFFFFFFFFF8)
      let r := MailReq.ofWords dw
      let clash (c : Fin 64) (r : MailReq) : Prop := ∃ d : Fin 64, d ≠ c ∧ r.gang.getLsbD d.val = true ∧ s.mail[d].st = .posted
        ∧ ¬(s.mail[d].req.image = r.image ∧ s.mail[d].req.argbase = r.argbase ∧ s.mail[d].req.gang = r.gang ∧ s.mail[d].req.cid = r.cid)
      let code (c : Fin 64) (r : MailReq) (extra : Bool) (n : Byte) : Prop :=
        ((s.kernelOf r.image = none ∧ n = 0x31)
        ∨ (s.kernelOf r.image ≠ none ∧ (r.argbase.toNat % 2 ^ 21 ≠ 0 ∨ 2 ^ 48 ≤ r.argbase.toNat) ∧ n = 0x32)
        ∨ (s.kernelOf r.image ≠ none ∧ r.argbase.toNat % 2 ^ 21 = 0 ∧ r.argbase.toNat < 2 ^ 48 ∧
            ((r.gang.getLsbD c.val = false ∧ n = 0x33)
            ∨ (r.gang.getLsbD c.val = true ∧ r.badField extra = true ∧ n = 0x34)
            ∨ (r.gang.getLsbD c.val = true ∧ r.badField extra = false ∧ clash c r ∧ n = 0x35)
            ∨ (r.gang.getLsbD c.val = true ∧ r.badField extra = false ∧ ¬clash c r ∧ n = 0))))
      let q := s.ev.core
      let launched (c : Fin 64) : MailReq := klaunchReq (s.core q).launch m c
      let member (d : Fin 64) : Prop := m.quad.2.2.1.getLsbD d.val = true
      let refusal (d : Fin 64) (n : Byte) : Prop := (s.mail[d].st = .empty → code d (launched d) false n) ∧ (s.mail[d].st ≠ .empty → n = 0x30)
      (¬free → exec .mailboxPost s = .next s)
      ∧ (∀ n, free → code c r (x.extractLsb' 51 5 != 0) n → n ≠ 0 → s.leads .mailboxPost fun t =>
          t.mail[c] = { b with dw := dw, st := .refused, code := n, req := r } ∧ t.msix = (s.msi (64 + c.val)).msix
            ∧ t.vecPend = (s.msi (64 + c.val)).vecPend
          ∧ (∀ d : Fin 64, d ≠ c → t.mail[d] = s.mail[d]) ∧ t.cores = s.cores ∧ t.runs = s.runs)
      ∧ (free → code c r (x.extractLsb' 51 5 != 0) 0 → s.leads .mailboxPost fun t =>
          t.mail[c] = ⟨dw, .posted, 0, r, s.zc⟩ ∧ t.msix = s.msix ∧ t.vecPend = s.vecPend ∧ (∀ d : Fin 64, d ≠ c → t.mail[d] = s.mail[d])
          ∧ t.cores = s.cores
          ∧ let all : Prop := ∀ d : Fin 64, r.gang.getLsbD d.val = true → t.mail[d].st = .posted ∧ t.mail[d].req.matches r = true
            (¬all → t.runs = s.runs)
            ∧ (all → ∃ y : Run, t.runs = s.runs ++ [y] ∧ y.gang = r.gang ∧ y.cid = r.cid ∧ y.st = .waiting ∧ y.kind = .launch))
      ∧ (b.st ≠ .posted → exec .mailboxCancel s = .next s)
      ∧ (b.st = .posted → s.leads .mailboxCancel fun t => t.cores = s.cores
          ∧ ∀ d : Fin 64, t.mail[d] = if b.req.gang.getLsbD d.val = true ∧ s.mail[d].st = .posted ∧ s.mail[d].req.matches b.req = true
              then { s.mail[d] with st := .empty } else s.mail[d])
      ∧ ((s.core q).cmd s.ev.id = some m →
          (∀ d n, member d → refusal d n → n ≠ 0 → (∀ e : Fin 64, e < d → member e → refusal e 0) →
            exec .klaunchComplete s = .next (s.finishFail q m n))
          ∧ ((∀ d, member d → refusal d 0) → ∃ w : State, exec .klaunchComplete s = .next (w.finishDone q m)
              ∧ w.cores = s.cores ∧ ∀ d : Fin 64, (member d → w.mail[d].st = .posted ∧ w.mail[d].req = launched d ∧ w.mail[d].post = s.zc
                  ∧ w.mail[d].dw = (launched d).words)
                ∧ (¬member d → w.mail[d] = s.mail[d]))))
  ∧ (
    ∀ (s : State) (r : Run) (c : Fin 64),
      (s.selectable = none → exec .launchSelect s = .next s)
      ∧ (s.selectable = some r → r ∈ s.runs ∧ s.canSelect r = true
          ∧ (∀ q ∈ s.runs, s.canSelect q = true → s.above q r = false)
          ∧ s.leads .launchSelect fun t => (∀ x ∈ t.runs, x.id = r.id → x.st = .loading)
            ∧ (r.gang.getLsbD c.val = true → (t.core c).st = .taken)
            ∧ (r.gang.getLsbD c.val = true → r.kind = .launch → t.mail[c].st = .loading ∨ t.mail[c].st = .suspended)
            ∧ (r.gang.getLsbD c.val = false → t.mail[c] = s.mail[c] ∧ (t.core c).st = (s.core c).st))
      ∧ ((s.runs.find? fun r => r.id == s.arg 0 && r.st == .loading && r.stuck.isEmpty) = none → exec .launchStart s = .next s)
      ∧ ((s.runs.find? fun r => r.id == s.arg 0 && r.st == .loading && r.stuck.isEmpty) = some r → r.kind = .launch → r.saved = [] →
          (∀ d : Fin 64, r.gang.getLsbD d.val = true → (s.kernelOf s.mail[d].req.image).isSome = true) →
          s.leads .launchStart fun t => ∃ t0, s.zc + 16 ≤ t0 ∧ ∀ d : Fin 64, r.gang.getLsbD d.val = true →
            let q := s.mail[d].req
            let k := t.core d
            t.mail[d].st = .empty ∧ k.st = .running ∧ k.launch = q ∧ k.run = r.id ∧ k.old = k.vis
            ∧ (∀ g : Fin 64, k.vis.rg g = if g = 1 then q.argbase else if g = 2 then q.gang else 0)
            ∧ k.vis.csr.cid = q.cid ∧ k.vis.csr.dmr = dmrOf d q ∧ k.vis.csr.spillbase = BitVec.ofNat 64 (q.spillOf d)
            ∧ (∀ j : Fin 64, k.vis.tok[j].st = .empty) ∧ (∀ j : Fin 8, k.vis.ring[j] = 0 ∧ k.vis.sh[j] = .free)
            ∧ k.imem = (s.core d).imem ∧ k.tile = (s.core d).tile ∧ k.acc = []
            ∧ (∀ b n, s.kernelOf q.image = some (b, n) → ∀ i : Fin 4, k.clus[i].hold = .run
                ∧ k.clus[i].pc = n.pcs (if i = 0 then .c else if i = 1 then .l else if i = 2 then .x else .w)
                ∧ k.clus[i].nextAt = if i = 0 then t0 else t0 + 1))
      ∧ (let c : Fin 64 := Fin.ofNat 64 (s.arg 0)
         let k := s.core c
         (k.st = .suspended → s.leads .mailboxResume fun t => (t.core c).st = .running ∧ (t.core c).vis = k.vis
            ∧ ∀ h : Fin 8, (t.core c).shape[h] = { k.shape[h] with held := false })
         ∧ (k.st ≠ .suspended → (∀ x ∈ s.runs, x.st = .loading → c ∈ x.stuck → x.kind = .launch ∧ s.mail[c].st ≠ .suspended) →
            exec .mailboxResume s = .next s)
         ∧ (k.st ≠ .suspended → (s.runs.find? fun r => r.st == .loading && r.stuck.contains c
              && (r.kind != .launch || s.mail[c].st == .suspended)) = some r → s.leads .mailboxResume fun t =>
            t.cores = s.cores ∧ (r.kind = .launch → t.mail[c].st = .loading ∨ t.mail[c].st = .suspended)
            ∧ ∀ d : Fin 64, d ≠ c → t.mail[d] = s.mail[d])))

/-- The steps of a YIELD and of pre-emption. A replay point that is not ready changes nothing; ready, it lets the core go on
(SAVEU below 7) or writes the control image first (R113, R324). A pre-emption point writes the image and starts the save
sequence at the save address of its YIELD, with STATE 2 (R324); a complete save leaves the core idle with REQ 0, and a
complete restore has the image's tokens (without chain values), rings, command blocks, slots, CSRs and places, with suspended
levels active again (R325, R326). PREQ.REQ reaches the cores of its CID only; its deadline withdraws it from the expired cores
alone and reports 2 (R105, R323). PREQ.RES and PREQ.END act on the saved launches and the context named. Model's readings: a
pre-emption point keeps the retry count and a YIELD that sets a replay point returns it to 0 (log 52); the clusters of an
expired request run on (log 23). -/
def Obligations.YieldAndPreempt : Prop :=
  ∀ (s w : State) (y : Byte) (g : Image) (rep : Bool),
    let c := s.ev.core
    let k := s.core c
    let cid : BitVec 12 := BitVec.ofNat 12 (s.arg 0)
    let goes (t : State) (q : Core) : Prop := (∀ i : Fin 4, q.clus[i].hold = .run ∧ s.zc + 1 ≤ q.clus[i].nextAt) ∧ t.mem = w.mem
    (k.yieldHeld = none ∨ k.replayReady = false → exec .replayPoint s = .next s)
    ∧ (k.yieldHeld = some y → k.replayReady = true → k.launch.saveu < 7 →
        exec .replayPoint s = .next (s.modCore c fun k => k.goOn (s.zc + 1)))
    ∧ (k.yieldHeld = some y → k.replayReady = true → 7 ≤ k.launch.saveu → s.writeImage c = (w, none) →
        s.leads .replayPoint fun t => goes t (t.core c)
          ∧ (∃ im : Image, (t.core c).replay = some im ∧ im.yp = y ∧ im.rs = (w.core c).rs ∧ im.dq = (w.core c).dq
            ∧ ∀ j : Fin 64, im.tok[j] = { (w.core c).vis.tok[j] with chain := none })
          ∧ ((w.core c).vis.csr.pstate = 3 → (t.core c).vis.csr.pstate = 0)
          ∧ ∀ r, w.runOf c = some r → ∀ x ∈ t.runs, x.id = r.id → x.retry = 0)
    ∧ (k.preemptAt = none → exec .preemptionPoint s = .next s)
    ∧ (k.preemptAt = some y → s.writeImage c = (w, none) → s.leads .preemptionPoint fun t =>
        goes t (t.core c) ∧ (t.core c).vis.csr.pstate = 2 ∧ (t.core c).phase = .saving y
        ∧ (t.core c).clus[(0 : Fin 4)].pc = ((w.yieldRec c y).map (·.save)).getD 0
        ∧ t.runs = w.runs
        ∧ ∃ im : Image, (t.core c).replay = some im ∧ im.yp = y ∧ im.clus[(1 : Fin 4)].pc = (w.core c).clus[(1 : Fin 4)].pc)
    ∧ (k.saveReady = false → exec .saveComplete s = .next s)
    ∧ (k.saveReady = true → s.leads .saveComplete fun t => (t.core c).st = .idle ∧ (t.core c).idleAt = s.zc + 1
        ∧ (t.core c).vis.csr.pstate = 0 ∧ (t.core c).vis.csr.req = false ∧ (∀ h : Fin 8, (t.core c).vis.sh[h] = .free) ∧ t.mem = s.mem)
    ∧ (k.restoreReady = none → exec .restoreComplete s = .next s)
    ∧ (k.restoreReady = some (g, rep) → s.leads .restoreComplete fun t =>
        let q := t.core c
        (∀ j : Fin 64, q.vis.tok[j] = { g.tok[j] with chain := none }) ∧ q.vis.ring = g.ring ∧ q.vis.cb = g.cb ∧ q.vis.slot = g.slot ∧ q.rs = g.rs ∧ q.sc = g.sc ∧ q.ft = g.ft
        ∧ q.dq = g.dq ∧ q.dn = g.dn ∧ q.phase = .normal ∧ q.vis.g = k.vis.g
        ∧ q.vis.csr.zbase = g.csr.zbase ∧ q.vis.csr.fflags = g.csr.fflags ∧ q.vis.csr.trapvec = g.csr.trapvec
        ∧ q.vis.csr.trapcause = 0 ∧ q.vis.csr.trappc = 0 ∧ q.vis.csr.errinj = 0 ∧ q.vis.csr.scratch = g.csr.scratch
        ∧ (∀ i : Fin 4, g.clus[i].susp = none → q.clus[i].pc = g.clus[i].pc ∧ q.clus[i].hold = .run)
        ∧ ∀ i : Fin 4, ∀ x, g.clus[i].susp = some x → q.clus[i].pc = x.p + 1 ∧ q.clus[i].loops[x.lv].active = true
            ∧ q.clus[i].loops[x.lv].t = x.k ∧ q.clus[i].loops[x.lv].n = x.n)
    ∧ (s.leads .preqReq fun t => ∀ d : Fin 64,
        if ((s.core d).st = .running ∨ (s.core d).st = .suspended) ∧ (s.core d).vis.csr.cid = cid then
          (t.core d).vis.csr.req = true ∧ (t.core d).vis.csr.pstate = 1
          ∧ (t.core d).deadln = some (s.zc + s.regs.pdl.toNat) ∧ (t.core d).clus = (s.core d).clus
        else t.core d = s.core d)
    ∧ ((∀ d : Fin 64, (s.core d).expired cid s.zc = false) → exec .preemptDeadline s = .next s)
    ∧ ((∃ d : Fin 64, (s.core d).expired cid s.zc = true) → s.leads .preemptDeadline fun t =>
        t.regs.prstCid = cid ∧ t.regs.prstRes = 2 ∧ t.msix = (s.msi 5).msix ∧ t.vecPend = (s.msi 5).vecPend
        ∧ ∀ d : Fin 64, ((s.core d).expired cid s.zc = false → t.core d = s.core d)
          ∧ ((s.core d).expired cid s.zc = true → (t.core d).vis.csr.req = false ∧ (t.core d).deadln = none
            ∧ ((s.core d).vis.csr.req = true → (t.core d).vis.csr.pstate = 0)
            ∧ ∀ i : Fin 4, (∀ y, (s.core d).clus[i].hold ≠ .loopEnd y) → (t.core d).clus[i] = (s.core d).clus[i]))
    ∧ exec .preqRes s = .next { s with runs := s.runs.map fun r => if r.st = .saved ∧ r.cid.toNat = s.arg 0 then
          { r with st := .waiting, kind := .resume, post := s.zc } else r }
    ∧ exec .preqEnd s = .next (s.endCtx cid 0x23 0)

/-- Replay: past RETRYLIM the context ends with 0x22; within it the gang's cores that run the launch stop and drop what
had not started, no other core changes, and the restart waits until they have settled (R225, R247). The end of a context
first stops its cores with their cuts recorded, then leaves them idle with their commands' tokens FAILED, pins released
and the result in PRST; no line stays dirty under its CID and memory keeps its bytes, its pins and frame-owner entries are freed, and
one KIND 8 record with the end code is written (R300, R316; that the record's other fields are zero is log 117). PLB_REFILL installs the page it walked, or raises the synonym trap (R307, R310). An
illegal encoding traps (R87). A fault-ring record, while the ring is on and has room, is written whole at its slot with each
field in its place, the head steps and vector 0 is sent; a full ring drops it and counts it as lost (R312, R313). Model's
readings: which members stop, that started commands run on unseen and waiting ones are dropped (log 51), the end code of an
abandoned replay (log 52), the codes of tokens at an end (log 75). -/
def Obligations.ReplayAndEnd : Prop :=
  ∀ (s w : State) (r : Run) (x : Xl),
    let c := s.ev.core
    let cid : BitVec 12 := BitVec.ofNat 12 (s.arg 1)
    let on (d : Fin 64) : Prop := r.gang.getLsbD d.val = true ∧ (s.core d).onRun r = true
    let run := s.runs.find? fun r => r.id == s.arg 0
    let cl : Cl := if s.arg 0 = 0 then .c else if s.arg 0 = 1 then .l else if s.arg 0 = 2 then .x else .w
    (run = none → exec .replayRestart s = .next s)
    ∧ (run = some r → s.arg 1 = 0 → r.st ≠ .running → exec .replayRestart s = .next s)
    ∧ (run = some r → s.arg 1 = 0 → r.st = .running → (s.core c).vis.csr.retrylim.toNat ≤ r.retry →
        exec .replayRestart s = .next (s.endCtx r.cid 0x22 (zenithOf c)))
    ∧ (run = some r → s.arg 1 = 0 → r.st = .running → r.retry < (s.core c).vis.csr.retrylim.toNat → s.leads .replayRestart fun t =>
        (∀ y ∈ t.runs, y.id = r.id → y.st = .loading ∧ y.kind = .replay)
        ∧ t.agenda = insertAt ⟨s.zc + 1, .replayRestart, { s.ev with args := [r.id, 1] }⟩ s.agenda
        ∧ ∀ d : Fin 64, (¬on d → t.core d = s.core d)
          ∧ (on d → (t.core d).st = .halted ∧ (∀ i : Fin 4, (t.core d).clus[i].hold = .stopped)
            ∧ (∀ m ∈ (t.core d).cmds, m.gone = true ∧ m.started = true) ∧ (∀ x ∈ (t.core d).laccs, x.start ≤ s.zc) ∧ ∀ h : Fin 8, ∀ m ∈ (t.core d).shape[h].queue, m.started = true))
    ∧ (run = some r → s.arg 1 ≠ 0 → (∃ d, on d ∧ (s.core d).settled = false) → exec .replayRestart s =
        .next (s.at_ (s.zc + 1) .replayRestart { s.ev with args := [r.id, 1] }))
    ∧ (run = some r → s.arg 1 ≠ 0 → (∀ d, on d → (s.core d).settled = true) → s.leads .replayRestart fun t =>
        ∀ d : Fin 64, (t.core d).st = (s.core d).st ∧ (t.core d).replay = (s.core d).replay)
    ∧ (s.arg 0 = 0 → s.leads .contextEnd fun t => t.mem = s.mem ∧ ∀ d : Fin 64,
        (s.inCtx cid d = true → d.val < 32 → (∀ i : Fin 4, (t.core d).clus[i].hold = .stopped)
          ∧ (t.core d).vis.g = (s.core d).vis.g ∧ (t.core d).vis.tok = (s.core d).vis.tok
          ∧ ((s.core d).st = .running → (t.core d).st = .halted ∧ (t.core d).vis.csr.cut = (s.core d).dropVerchk.cuts
            ∧ ∀ h : Fin 8, (t.core d).shape[h].held = true)
          ∧ (s.ev.args.getD 3 65 = d.val ∨ s.ev.args.getD 3 65 = 64 → (t.core d).vis.csr.trapcause = BitVec.ofNat 64 (s.arg 4)))
        ∧ (s.inCtx cid d = false ∨ 32 ≤ d.val → t.core d = s.core d))
    ∧ (s.arg 0 = 1 → s.leads .contextEnd fun t => (∀ p ∈ t.pins, p.cid ≠ cid) ∧ cid ∈ t.ended
        ∧ t.regs.prstCid = cid ∧ t.regs.prstRes = 3
        ∧ (∀ q ∈ t.runs, q.cid = cid → q.st = .waiting ∧ q.kind = .launch)
        ∧ ∀ d : Fin 64, s.inCtx cid d = true → (t.core d).st = .idle ∧ (t.core d).cmds = [] ∧ (t.core d).ustores = []
          ∧ (∀ m ∈ (s.core d).cmds, m.gone = false →
            ((t.core d).vis.tok[m.tok]).st = .failed ∧ ((t.core d).vis.tok[m.tok]).code ∈ failCodes)
          ∧ ∀ h : Fin 8, (t.core d).vis.sh[h] = .free)
    -- no line stays dirty under its CID, at any level, and no entry of an MTU names it
    ∧ (s.arg 0 = 1 → s.leads .contextEnd fun t =>
        (∀ l, (l ∈ t.home ∨ (∃ i : Fin 2, l ∈ t.rdc[i]) ∨ ∃ d : Fin 64, l ∈ (t.core d).bc) → l.cid = cid → l.dirty = 0)
        ∧ ∀ i : Fin 4, (∀ e ∈ t.mtu[i].tc, e.cid ≠ cid) ∧ ∀ e ∈ t.mtu[i].owners, match e.2 with
          | .writer o _ => o ≠ cid
          | .readers _ ms => ms ≠ [] ∧ ∀ m ∈ ms, m.1 ≠ cid)
    -- with no store to an UNCACHED page left: memory and every other line stay, and the one record is the end's
    ∧ (s.arg 0 = 1 → (∀ d : Fin 64, s.inCtx cid d = true → (s.core d).ustores = []) → ∃ u : State,
        exec .contextEnd s = .next ((u.record ⟨8, s.arg 2, cid, 0, 0, 0, 0, false, 0, 0, 0, 0, false, 0⟩).prst cid 3)
        ∧ u.mem = s.mem ∧ u.regs = s.regs ∧ u.zc = s.zc ∧ u.home = s.home.filter (fun l => !(l.cid == cid && l.dirty != 0))
        ∧ (∀ i : Fin 2, u.rdc[i] = s.rdc[i].filter (fun l => !(l.cid == cid && l.dirty != 0)))
        ∧ ∀ d : Fin 64, (u.core d).bc = (s.core d).bc.filter (fun l => !(l.cid == cid && l.dirty != 0)))
    ∧ (s.xlate (s.core c).vis.csr.cid (s.arg 1) = (w, x) → x = .synonym → exec .plbRefill s = .next (s.modCore c fun k => k.raise
        ⟨causeSynonym, 0, cl, cl.code, k.clus[clIx cl].pc, s.arg 2⟩))
    ∧ (s.xlate (s.core c).vis.csr.cid (s.arg 1) = (w, x) → x ≠ .synonym → s.leads .plbRefill fun t =>
        (t.core c).plb.head? = some (x.plb (s.arg 1)) ∧ t.mem = w.mem ∧ (t.core c).vis = (w.core c).vis
        ∧ ∀ d : Fin 64, d ≠ c → t.core d = w.core d)
    ∧ exec .illegalEncoding s = .next (s.raise causeIllegal 0)
    ∧ ∀ y : Rec,
        let g := s.regs
        let logn := g.frctl.toNat % 32
        let on := g.frctl.getLsbD 5
        let full : Prop := (g.frhead - g.frtail).toNat = 2 ^ logn
        let at_ := g.frbase.toNat + 64 * (g.frhead.toNat % 2 ^ logn)
        let t := s.record y
        let f (lo n : Nat) : Nat := t.mem.read at_ 64 / 2 ^ lo % 2 ^ n
        (on = false → t = s)
        ∧ (on = true → full → t = { s with regs := { g with frlost := g.frlost + 1 } })
        ∧ (on = true → ¬full → t.regs = { g with frhead := g.frhead + 1 } ∧ t.msix = (s.msi 0).msix ∧ t.vecPend = (s.msi 0).vecPend
          ∧ ({ t with mem := s.mem, regs := g, msix := s.msix, vecPend := s.vecPend } : State) = s
          ∧ (Memory.wf s.mem = true → (∀ b, b < at_ ∨ at_ + 64 ≤ b → t.mem.byte b = s.mem.byte b)
            ∧ (y.kind < 2 ^ 8 → y.cause < 2 ^ 8 → y.core < 2 ^ 6 → y.cl < 4 → y.die < 8 → y.mode < 4 → y.stamp < 2 ^ 48 →
              y.widx < 2 ^ 16 → y.lfb < 2 ^ 6 →
              (f 0 8 = y.kind ∧ f 8 8 = y.cause ∧ f 16 12 = y.cid.toNat ∧ f 28 6 = y.core ∧ f 34 2 = y.cl ∧ f 36 3 = y.die
                ∧ f 39 1 = 0 ∧ f 40 2 = y.mode ∧ f 42 1 = y.pin.toNat ∧ f 43 21 = 0)
              ∧ (f 64 48 = y.va % 2 ^ 48 ∧ f 112 16 = 0 ∧ f 128 48 = y.stamp ∧ f 176 16 = 0)
              ∧ (f 192 16 = y.widx ∧ f 208 6 = y.lfb ∧ f 214 1 = y.parked.toNat ∧ f 215 41 = 0)
              ∧ (f 256 40 = y.pa % 2 ^ 40 ∧ f 296 24 = 0 ∧ f 320 64 = s.zc % 2 ^ 64)
              ∧ f 384 64 = g.frhead.toNat ∧ f 448 1 = g.frhead.toNat / 2 ^ logn % 2 ∧ f 449 63 = 0)))

/-- REGISTER_WRITE (R8, R9, R288, R292, R302, R311, R327, R338, R340, R351, R366, R370, R374, R380): nothing arrives while the link
is down; a register reads back what was written under its mask; W1C counters clear the bits written; a write that acts becomes
the event of its register in the same cycle; read-only and unmapped offsets ignore it. A port's counts, PWSTAT's and ERR of a queue pair are cleared by a 1, UP and the other
fields staying (R340, R351); TLCTL out of range is ignored, and EN restarts HEAD and the samples (R351; their first, log 44); of an
open queue pair nothing but ERR is written, and one opens with a LOGN in [2, 12] alone (R327). Model's readings: whole registers are
written, CECNT in words of 32 bits, and a write that acts enters its event in the same cycle (log 30); OP takes a write while
BUSY (log 31). -/
def Obligations.RegisterWrites : Prop :=
  ∀ (s : State),
    let o := s.arg 0
    let x : Dword := BitVec.ofNat 64 (s.arg 1)
    let writes (P : State → Prop) : Prop := s.regs.hostUp = true → s.leads .registerWrite P
    let others (t : State) : Prop := t.cores = s.cores ∧ t.mem = s.mem ∧ t.zc = s.zc
    let reads (lo n : Nat) (mask : Dword) : Prop := o = lo + 8 * n → writes fun t => others t ∧ t.regRead o = x &&& mask
    let acts (i : Instr) (l : List Nat) : Prop := writes fun t => t = { s with agenda := insertFirst ⟨s.zc, i, .nums l⟩ s.agenda }
    let cid := x.toNat % 2 ^ 12
    let b (i : Nat) : Bool := x.getLsbD i
    let g0 := s.regs
    let mail (c : Fin 64) (i : Fin 8) (y : Dword) : State := { s with mail := s.mail.set c { s.mail[c] with dw := s.mail[c].dw.set i y } }
    let ctrl (c : Fin 64) : State := mail c 3 (x &&& 0x0000FFFFFFFFFFF8)
    let free (c : Fin 64) : Prop := s.mail[c].st = .empty ∨ s.mail[c].st = .refused
    (s.regs.hostUp = false → exec .registerWrite s = .next s)
    ∧ reads 0x200 0 0xFFFFFFFFFFFFFFFF ∧ reads 0x300 0 0x000000FFFFFFF000 ∧ reads 0x318 0 0x00000000FFFFFFFF
    ∧ reads 0x320 0 0x00000000FFFFFFFF ∧ reads 0x328 0 0x000000FFFFFF0000 ∧ reads 0x348 0 0x00000000FFFFFFFF
    ∧ reads 0x810 0 0x000000FFFFFFF000 ∧ reads 0x908 0 0x00000000FFFFFFFF
    ∧ (∀ n < 3, reads 0x1008 n 0xFFFFFFFFFFFFFFFF)
    ∧ (∀ n < 16, reads 0x500 (2 * n) 0x000000000001FFFF ∧ reads 0x508 (2 * n) 0x0000FFFFFFFFFFFF)
    ∧ (∀ d : Fin 4, o = 0x120 + 8 * d.val → writes fun t => others t ∧ t.regRead o = s.regRead o &&& ~~~x)
    ∧ (∀ d : Fin 4, o = 0x124 + 8 * d.val → writes fun t => others t ∧ t.regRead o = s.regRead o &&& ~~~x
        ∧ t.regs.cecnt[2 * d.val] = g0.cecnt[2 * d.val])
    ∧ (o = 0x800 → ((x.toNat / 2 ^ 22 % 32 ≤ 16 ∧ x.toNat / 2 ^ 17 % 32 ≤ x.toNat / 2 ^ 22 % 32) →
          writes fun t => others t ∧ t.regRead 0x800 = x &&& 0xFFFFFFFF07FFFFFF)
        ∧ (¬(x.toNat / 2 ^ 22 % 32 ≤ 16 ∧ x.toNat / 2 ^ 17 % 32 ≤ x.toNat / 2 ^ 22 % 32) → exec .registerWrite s = .next s))
    ∧ (o = 0x308 → let logn := x.toNat % 32
        (((6 ≤ logn ∧ logn ≤ 16) ∨ (logn = 0 ∧ b 5 = false)) → writes fun t => others t ∧ t.regRead 0x308 = x &&& 0x3F
            ∧ t.regRead 0x310 = if b 5 = true ∧ s.regs.frctl.getLsbD 5 = false then 0 else s.regRead 0x310)
        ∧ (¬((6 ≤ logn ∧ logn ≤ 16) ∨ (logn = 0 ∧ b 5 = false)) → exec .registerWrite s = .next s))
    ∧ (o = 0x330 → acts .tinv [x.toNat])
    ∧ (o = 0x340 → (b 12 = true → b 13 = false → b 14 = false → acts .preqReq [cid])
        ∧ (b 12 = false → b 13 = true → b 14 = false → acts .preqRes [cid])
        ∧ (b 12 = false → b 13 = false → b 14 = true → acts .preqEnd [cid])
        ∧ ([b 12, b 13, b 14].count true ≠ 1 → exec .registerWrite s = .next s))
    ∧ (o = 0x358 → acts .dbfc [x.toNat / 2 ^ 21 % 2 ^ 19])
    ∧ (o = 0x900 → b 3 = true → s.regs.drstState ≠ 0 ∨ x.toNat % 8 = 0 ∨ x.toNat % 8 = 7 → exec .registerWrite s = .next s)
    ∧ (o = 0x900 → b 3 = true → s.regs.drstState = 0 → x.toNat % 8 ≠ 0 → x.toNat % 8 ≠ 7 → writes fun t =>
        others t ∧ t.agenda = insertFirst ⟨s.zc, .dieResetGo, .nums [x.toNat % 8]⟩ s.agenda)
    ∧ (o = 0x1000 → s.regs.mbusy = true → writes fun t => t = { s with regs := { g0 with mop := x.extractLsb' 0 8 } })
    ∧ (o = 0x1000 → b 8 = false → writes fun t => others t ∧ t.regRead o = x &&& 0xFF)
    ∧ (∀ i, o = 0x1000 → s.regs.mbusy = false → b 8 = true → mgmtOf (x.extractLsb' 0 8) = some i → writes fun t =>
        others t ∧ t.regs.mbusy = true ∧ t.agenda = insertFirst ⟨s.zc, i, .nums []⟩ s.agenda)
    ∧ (∀ c : Fin 64, o = 0x10000 + 64 * c.val + 24 →
        (b 0 = true → b 1 = false → b 2 = false → acts .mailboxPost [c.val, x.toNat])
        ∧ (b 0 = false → b 1 = true → b 2 = false → writes fun t => t = { ctrl c with
            agenda := insertFirst ⟨s.zc, .mailboxCancel, .nums [c.val]⟩ s.agenda })
        ∧ (b 0 = false → b 1 = false → b 2 = true → writes fun t => t = { ctrl c with
            agenda := insertFirst ⟨s.zc, .mailboxResume, .nums [c.val]⟩ s.agenda })
        ∧ (b 0 = false → b 1 = false → b 2 = false → (free c → writes fun t => t = ctrl c)
          ∧ (¬free c → exec .registerWrite s = .next s))
        ∧ (2 ≤ [b 0, b 1, b 2].count true → exec .registerWrite s = .next s))
    ∧ (∀ c : Fin 64, ∀ i : Fin 8, i ≠ 3 → o = 0x10000 + 64 * c.val + 8 * i.val →
        (free c → writes fun t => t = mail c i x
          ∧ t.regRead o = x &&& if i = 0 then 0xFFFFFFFF else if i = 6 then 0xFFFFFFFFFFFF else 0xFFFFFFFFFFFFFFFF)
        ∧ (¬free c → exec .registerWrite s = .next s))
    ∧ (∀ n < 4096, Rising s.cnts →
        (o = 0x40000 + 8 * n → writes fun t => others t ∧ (t.cnt n).val = x ∧ (t.cnt n).cid = (s.cnt n).cid)
        ∧ (o = 0x30000 + 8 * n → writes fun t => others t ∧ (t.cnt n).cid.toNat = cid ∧ (t.cnt n).asg = (b 12 && n != 0)
          ∧ (t.cnt n).val = (s.cnt n).val))
    ∧ (∀ p : Fin 12, o = 0x600 + 8 * p.val → writes fun t => others t
        ∧ t.regs = { g0 with
            portRetry := g0.portRetry.set p (if x.toNat / 2 ^ 2 % 2 ^ 30 = 0 then g0.portRetry[p] else 0)
            portDowns := g0.portDowns.set p (g0.portDowns[p] &&& ~~~x.extractLsb' 32 16) }
        ∧ (t.regRead o).toNat = (t.regs.portUp[p]).toNat + 2 ^ 2 * (t.regs.portRetry[p]).toNat + 2 ^ 32 * (t.regs.portDowns[p]).toNat)
    ∧ (o = 0x808 → writes fun t => others t
        ∧ t.regs = { g0 with excr := g0.excr &&& ~~~x.extractLsb' 24 16, excf := g0.excf &&& ~~~x.extractLsb' 40 16 }
        ∧ (g0.clk < 32 → t.regRead o = s.regRead o &&& ~~~(x &&& 0x00FFFFFFFF000000)))
    ∧ (o = 0x818 →
        let logn := x.toNat % 32
        let period := x.toNat / 2 ^ 8 % 2 ^ 20
        let ok : Prop := ((6 ≤ logn ∧ logn ≤ 16) ∨ (logn = 0 ∧ b 5 = false)) ∧ 1 ≤ period ∧ period ≤ 1000000
        let restarts : Prop := b 5 = true ∧ g0.tlctl.getLsbD 5 = false
        (ok → writes fun t => others t ∧ t.regRead 0x818 = x &&& 0x000000000FFFFF3F
          ∧ (restarts → t.regRead 0x820 = 0 ∧ t.gov.sampleAt = s.time + period * 1000 * unitsPerNs)
          ∧ (¬restarts → t.regRead 0x820 = s.regRead 0x820 ∧ t.gov = s.gov))
        ∧ (¬ok → exec .registerWrite s = .next s))
    ∧ (∀ n < 256, Rising s.qps →
        let p := s.qp n
        let err : Bool := p.err && !b 1
        let logn := x.toNat / 2 ^ 2 % 2 ^ 4
        let put (q : Qp) : Prop := writes fun t => others t ∧ t.qp n = q ∧ ∀ m, m ≠ n → t.qp m = s.qp m
        (o = 0x20000 + 16 * n →
          (p.open_ = true → put { p with err := err })
          ∧ (p.open_ = false → b 0 = true → 2 ≤ logn ∧ logn ≤ 12 → acts .qpctlOpen [n, x.toNat])
          ∧ (p.open_ = false → b 0 = true → ¬(2 ≤ logn ∧ logn ≤ 12) → exec .registerWrite s = .next s)
          ∧ (p.open_ = false → b 0 = false → put { p with
              err := err, logn := logn, cid := x.extractLsb' 6 12, rcid := x.extractLsb' 18 12 })
          ∧ (p.logn < 2 ^ 4 → p.eidx < 2 ^ 12 → (s.regRead o).toNat = p.open_.toNat + 2 * p.err.toNat + 2 ^ 2 * p.logn
              + 2 ^ 6 * p.cid.toNat + 2 ^ 18 * p.rcid.toNat + 2 ^ 30 * p.ecode.toNat + 2 ^ 38 * p.eidx))
        ∧ (o = 0x20008 + 16 * n →
          (p.open_ = true → exec .registerWrite s = .next s)
          ∧ (p.open_ = false → put { p with base := x &&& 0x0000FFFFFFFFFFFF })
          ∧ s.regRead o = p.base))
    ∧ (o ∈ [0x10, 0x100, 0x108, 0x118, 0x310, 0x338, 0x350, 0x380, 0x820, 0x828, 0xA00, 0x1020, 0x50000, 0x60000] →
        exec .registerWrite s = .next s)

/-- TINV, DBFC and QPCTL_OPEN (R302, R309, R311, R327): a TINV is ignored while BUSY or when misaligned, refused for a pinned
page, and else no translation cache or permission buffer holds what it names; a dirty bitmap is read and cleared at once; a
queue pair opens empty. The energy counters take what work, charge-balance filler and ramp filler used, ramp filler the least
with which the window meets its target, in idle slots alone; a power window that has ended forms IPKG from them and counts
excursions, and one that has not changes nothing (R352, R353, R362, R363); a package boundary steps the clock code 64 counts later, one step at a time, within its limits
(R355, R356); a telemetry sample that is due is written whole to its slot (R361, R362, R363); LOCK, OFFS, the step past 1 s
and the 4 s timeout of the IEEE 1588 clock (R351, R364). At the end of a window every entry of a table is tested, the former tables
before those are read whose writes have reached the governor: one that fires writes its notify word, one whose notify write is refused
is disabled, and the others re-arm by their hysteresis; a table read gives the entries of right layout, armed while their value lies
short (R358, R359, R360; the writer stamp of a notify word is the model's choice, log 41). Model's readings and choices: units of time and the first sample (log
44), what the meters and the filler read (log 39), when the report of a package boundary counts (log 32), an entry of the
other page size is dropped where it overlaps (log 55), a PSLEW of 0 and which excursions count (log 57). -/
def Obligations.HostAndPower : Prop :=
  (
    ∀ (s : State),
      let x := s.arg 0
      let all := x / 2 ^ 13 % 2 = 1
      let big := x / 2 ^ 12 % 2 = 1
      let cid : BitVec 12 := BitVec.ofNat 12 x
      let va := x / 2 ^ 21 % 2 ^ 27
      let names (page n : Nat) : Prop := all ∨ (big ∧ va < page + n ∧ page < va + 512) ∨ (¬big ∧ va < page + n ∧ page < va + 1)
      let size (l : Bool) : Nat := if l then 512 else 1
      let start (l : Bool) (p : Nat) : Nat := if l then p - p % 512 else p
      let pinned : Prop := ∃ p ∈ s.pins, p.cid = cid ∧ p.page < 2 ^ 27 ∧ names p.page (size p.big)
      let odd : Prop := ¬all ∧ big ∧ x / 2 ^ 21 % 2 ^ 9 ≠ 0
      let q := s.arg 0
      let y : Dword := BitVec.ofNat 64 (s.arg 1)
      let logn := y.toNat / 4 % 16
      (s.regs.tinvBusy = true ∨ odd → exec .tinv s = .next s)
      ∧ (s.regs.tinvBusy = false → ¬odd → pinned → exec .tinv s = .next (s.modRegs fun g => { g with tinvPinned := true }))
      ∧ (s.regs.tinvBusy = false → ¬odd → (∀ p ∈ s.pins, p.page < 2 ^ 27) → ¬pinned → s.leads .tinv fun t =>
          t.regs.tinvBusy = true ∧ t.regs.tinvPinned = false ∧ t.mem = s.mem
          ∧ (∀ d : Fin 4, ∀ e ∈ s.mtu[d].tc, e.page < 2 ^ 27 →
              (e ∈ t.mtu[d].tc ↔ ¬(e.cid = cid ∧ names (start e.big e.page) (size e.big))))
          ∧ (∀ c : Fin 64, ∀ p ∈ (s.core c).plb, p.page < 2 ^ 27 →
              (p ∈ (t.core c).plb ↔ ¬((s.core c).vis.csr.cid = cid ∧ names (start p.big p.page) (size p.big))))
          ∧ (∀ c : Fin 64, ∀ i : Fin 3, ∀ p ∈ (s.core c).splb[i], p.page < 2 ^ 27 →
              (p ∈ (t.core c).splb[i] ↔ ¬((s.core c).vis.csr.cid = cid ∧ names (start p.big p.page) (size p.big))))
          ∧ ∀ c : Fin 64, (t.core c).vis = (s.core c).vis)
      ∧ ((∃ c : Fin 64, (s.core c).vis.csr.cid = cid ∧ (s.core c).accessBefore (s.arg 1) = true) →
          exec .tinvComplete s = .next (s.at_ (s.zc + 1) .tinvComplete s.ev))
      ∧ ((∀ c : Fin 64, (s.core c).vis.csr.cid = cid → (s.core c).accessBefore (s.arg 1) = false) →
          exec .tinvComplete s = .next (s.modRegs fun g => { g with tinvBusy := false }))
      ∧ (let d := frameIdx q
         Rising s.mtu[d].dirty → s.leads .dbfc fun t => t.regs.dbres = srd 0 q s.mtu[d].dirty ∧ t.mem = s.mem ∧ t.cores = s.cores
          ∧ ∀ f, srd 0 f t.mtu[d].dirty = if f = q then 0 else srd 0 f s.mtu[d].dirty)
      ∧ ((s.qp q).open_ = true ∨ logn < 2 ∨ 12 < logn → exec .qpctlOpen s = .next s)
      ∧ ((s.qp q).open_ = false → 2 ≤ logn → logn ≤ 12 → exec .qpctlOpen s = .next (s.setQp q { s.qp q with
          open_ := true, err := (s.qp q).err && !y.getLsbD 1, logn := logn, cid := BitVec.ofNat 12 (y.toNat / 2 ^ 6)
          rcid := BitVec.ofNat 12 (y.toNat / 2 ^ 18), tail := 0, ents := [] })))
  ∧ (
    ∀ (s : State),
      let g := s.regs
      let k := s.freeCtr
      let fed (d : Fin 8) : Nat := if s.fedSince d = true then Config.reading (16 + d.val) k else 0
      let work (d : Fin 8) : Nat := s.energy[d] + Config.reading d.val k + fed d
      let room := s.rampRoom k
      let total := (room.map (·.2)).sum
      let limits : Prop := g.pwctl.getLsbD 16 = true ∧ g.pwctl.toNat % 2 ^ 16 ≠ 0
      -- the window's current when ramp filler takes `e` mJ
      let mean (e : Nat) : Nat := Config.packageAmps k ((List.finRange 8).map fun d =>
        (work d + shareOf e room d + 2 ^ 32 * 2 - s.gov.base[d]) % 2 ^ 32)
      let least (e : Nat) : Prop := (¬limits → e = 0)
        ∧ (limits → (∀ i < e, mean i < s.gov.target) ∧ (e = total ∨ (e < total ∧ s.gov.target ≤ mean e)))
      let metered (e : Nat) (t : State) : Prop := (∀ d : Fin 8, t.energy[d] = (work d + shareOf e room d) % 2 ^ 32)
        ∧ t.fill = (s.fill + ((List.finRange 8).map fun d => fed d + shareOf e room d).sum) % 2 ^ 32
        ∧ t.gov.metered = s.zc ∧ t.gov.fed = Vector.replicate 8 0
      let ends : Prop := s.gov.windowAt ≤ s.time
      let due : Prop := g.tlctl.getLsbD 5 = true ∧ s.gov.sampleAt ≤ s.time
      let ns := (s.ptp + s.time / unitsPerNs).toNat
      let pslew := g.pwctl.toNat % 2 ^ 16
      let en := g.pwctl.getLsbD 16
      let lo := g.pwctl.toNat / 2 ^ 17 % 32
      let hi := g.pwctl.toNat / 2 ^ 22 % 32
      let rise (now : Nat) : Prop := pslew ≠ 0 ∧ pslew < 10 * (now - g.ipkg)
      let fall (now : Nat) : Prop := en = true ∧ pslew ≠ 0 ∧ pslew < 10 * (g.ipkg - now)
      let y := (s.gov.hot || decide (g.plim < s.gov.power)).toNat
      let cut := s.gov.excSince + y
      let want := if en = false then hi - y else if cut ≠ 0 then g.clk - cut
        else if pslew = 0 ∨ 250 * g.ipkg ≤ pslew * (400 + 25 * g.clk) then g.clk + 1 else g.clk
      let c := max lo (min hi want)
      let clear : State := { s with gov := { s.gov with excSince := 0 } }
      let n := s.arg 1
      let off : Int := if s.arg 0 = 1 then -(n : Int) else n
      (∃ t, exec .windowEnd s = .next t)
      ∧ (¬ends → exec .windowEnd s = .next s)
      ∧ (ends → (∀ d : Fin 8, s.gov.base[d] < 2 ^ 32) → s.gov.subs = [] → (∀ x ∈ s.gov.reads, s.zc < x.2.2) →
          ∃ e, least e ∧ s.leads .windowEnd fun t => metered e t ∧ (let now := t.regs.ipkg
            now = mean e
            ∧ t.regs.excr = (if rise now then g.excr + 1 else g.excr) ∧ t.regs.excf = (if fall now then g.excf + 1 else g.excf)
            ∧ t.gov.excSince = (if rise now then s.gov.excSince + 1 else s.gov.excSince)
            ∧ t.gov.target = (if en = true ∧ pslew ≠ 0 then now - pslew / 10 else 0))
          ∧ t.gov.base = t.energy ∧ t.gov.ramp = Vector.replicate 8 0 ∧ t.gov.stalled = false ∧ t.gov.windowZc = s.zc
          ∧ t.gov.windowAt = s.gov.windowAt + windowSpan ∧ t.gov.power = Config.reading 24 k
          ∧ (t.gov.hot = true ↔ ∃ i < 8, 100 < Config.reading (8 + i) k)
          ∧ t.gov.reads = s.gov.reads ∧ t.cores = s.cores ∧ t.mem = s.mem)
      ∧ (ends → ∃ (t : State) (m : Measure), exec .windowEnd s = .next (t.testSubs m)
          ∧ m.ipkg = t.regs.ipkg ∧ m.power = Config.reading 24 k ∧ (∀ d < 8, m.temps.getD d 0 = Config.reading (8 + d) k)
          ∧ m.room = pslew - 10 * ((m.ipkg - g.ipkg) + (g.ipkg - m.ipkg)) ∧ t.gov.subs = s.gov.subs ∧ t.gov.reads = s.gov.reads
          ∧ t.cores = s.cores ∧ t.mem = s.mem ∧ t.home = s.home ∧ t.zc = s.zc)
      -- what a die takes of the ramp filler: the places fill in order, none beyond its room, and only idle slots have any
      ∧ (∀ e, ((List.finRange 8).map (shareOf e room)).sum = min e total ∧ ∀ d : Fin 8, shareOf e room d ≠ 0 →
          (d.val < 6 ∧ s.idleSlots d ≠ 0) ∨ (d = 7 ∧ (s.gov.stalled = true ∨ s.collStall = true)))
      -- a report of a PHASE 2 that counts for a package boundary is known to the governor at it
      ∧ (∀ r ∈ s.gangsOn, s.regs.phto = 0 → ∀ c ∈ gangCores r.gang, (s.core c).run = r.id → ∀ n z,
          (s.core c).reports.find? (·.1 == r.bounds + 1) = some (n, z) → z + s.lat (zenithOf c) 7 ≤ s.boundaryAt)
      ∧ (s.ev.args = [] → s.boundary = false → exec .packagePhaseBoundary s = .next s)
      ∧ (s.ev.args = [] → s.boundary = true → s.leads .packagePhaseBoundary fun t => t.gov.lastB = s.boundaryAt
          ∧ t.agenda = insertAt ⟨s.boundaryAt, .packagePhaseBoundary, .nums [1]⟩ s.agenda ∧ t.cores = s.cores)
      ∧ (s.ev.args ≠ [] → s.gov.step.isSome = true ∨ c = g.clk → exec .packagePhaseBoundary s = .next clear)
      ∧ (s.ev.args ≠ [] → s.gov.step = none → c ≠ g.clk → exec .packagePhaseBoundary s = .next ({ clear with
          gov := { clear.gov with step := some (s.zc + 64, c) },
          agenda := insertAt ⟨s.zc + 64, .clockStep, .nums [c]⟩ s.agenda }))
      ∧ exec .clockStep s = .next { s with regs := { g with clk := s.arg 0 }, gov := { s.gov with step := none } }
      ∧ (¬due → exec .telemetrySample s = .next s)
      ∧ (due → ∃ e, (s.gov.base.toList.all (· < 2 ^ 32) = true → least e) ∧ s.leads .telemetrySample fun t => metered e t
          ∧ t.regs = { g with tlhead := g.tlhead + 1 } ∧ t.cores = s.cores
          ∧ t.gov.sampleAt = s.gov.sampleAt + g.tlctl.toNat / 2 ^ 8 % 2 ^ 20 * 1000 * unitsPerNs
          ∧ (∀ d : Fin 8, t.gov.ramp[d] = s.gov.ramp[d] + shareOf e room d)
          ∧ ∃ x, t.mem = s.mem.write (g.tlbase.toNat + 64 * (g.tlhead.toNat % 2 ^ (g.tlctl.toNat % 32))) x 64
            ∧ x % 2 ^ 48 = ns / 10 ^ 9 % 2 ^ 48 ∧ x / 2 ^ 64 % 2 ^ 30 = ns % 10 ^ 9
            ∧ (g.clk < 32 → x / 2 ^ 94 % 2 ^ 5 = g.clk ∧ x / 2 ^ 128 % 2 ^ 64 = s.zc % 2 ^ 64
              ∧ (∀ d : Fin 8, x / 2 ^ (192 + 32 * d.val) % 2 ^ 32 = t.energy[d]) ∧ x / 2 ^ 448 % 2 ^ 32 = t.fill
              ∧ x / 2 ^ 480 = g.tlhead.toNat))
      ∧ (s.leads .ptpSync fun t => t.cores = s.cores ∧ t.mem = s.mem
          ∧ t.regs.offs = (if s.arg 0 = 1 then -(BitVec.ofNat 32 n) else BitVec.ofNat 32 n)
          ∧ t.gov.syncAt = s.time ∧ t.ptp = (if 10 ^ 9 < n then s.ptp - off else s.ptp)
          ∧ (1000 < n → t.regs.lock = false ∧ t.gov.good = 0)
          ∧ (n ≤ 1000 → t.gov.good = s.gov.good + 1 ∧ (t.regs.lock = true ↔ g.lock = true ∨ 8 ≤ s.gov.good + 1)))
      ∧ (s.time < s.gov.syncAt + 4 * 10 ^ 9 * unitsPerNs → exec .ptpSyncTimeout s = .next s)
      ∧ (s.gov.syncAt + 4 * 10 ^ 9 * unitsPerNs ≤ s.time → exec .ptpSyncTimeout s
          = .next { s with regs := { g with lock := false }, gov := { s.gov with good := 0 } }))
  ∧ (
    ∀ (s w : State) (u : Sub) (m : Measure) (c : Fin 64) (base : Dword) (x z : Nat) (e : Nat × Nat),
      let value (u : Sub) : Nat :=
        if u.qty = 1 then m.power else if u.qty = 2 then m.ipkg else if u.qty = 3 then m.temps.getD u.die 0 else m.room
      let v := value u
      let fires : Prop := u.armed = true ∧ u.off = false ∧ (if u.fall then v ≤ u.thr else u.thr ≤ v)
      let rearms : Prop := u.off = false ∧ (if u.fall then u.thr + u.hyst < v else v < u.thr - u.hyst)
      let cid := (s.core u.core).vis.csr.cid
      let write := s.engineWrite cid u.naddr 8 (v % 2 ^ 32 + (u.seq + 1) % 2 ^ 16 * 2 ^ 32 + u.idx * 2 ^ 48)
        (stampOf cid u.core (s.core u.core).seqs[(3 : Fin 15)])
      -- entry i of the table `x`, where it is one: armed while its value lies short of its threshold
      let entry (i : Nat) (n : Sub) : Prop :=
        let d (j : Nat) : Nat := x / 2 ^ (256 * i + 64 * j) % 2 ^ 64
        d 0 / 2 ^ 7 = 0 ∧ d 1 / 2 ^ 48 = 0 ∧ d 2 / 2 ^ 48 = 0 ∧ d 3 = 0 ∧ d 2 % 8 = 0 ∧ 1 ≤ d 0 % 8 ∧ d 0 % 8 ≤ 4
        ∧ n = ⟨c, i, d 0 % 8, d 0 / 2 ^ 3 % 8, (d 0).testBit 6, d 1 % 2 ^ 32, d 1 / 2 ^ 32, d 2, n.armed, false, 0⟩
        ∧ (n.armed = true ↔ if n.fall then n.thr < value n else value n < n.thr)
      (fires → (write = (w, .inl z) → s.testSub m u = (w, { u with armed := false, seq := u.seq + 1 }))
        ∧ (write = (w, .inr e) → s.testSub m u = (s, { u with armed := false, off := true })))
      ∧ (¬fires → (rearms → s.testSub m u = (s, { u with armed := true })) ∧ (¬rearms → s.testSub m u = (s, u)))
      ∧ (base = 0 → s.readSubs m c base = { s with gov := { s.gov with subs := s.gov.subs.filter (·.core != c) } })
      ∧ (base ≠ 0 → s.engineRead (s.core c).vis.csr.cid base.toNat 256 = (w, .inl x) → ∃ l : List Sub,
          s.readSubs m c base = { w with gov := { w.gov with subs := s.gov.subs.filter (·.core != c) ++ l } }
          ∧ l.Pairwise (fun a b => a.idx < b.idx) ∧ ∀ n, n ∈ l ↔ ∃ i < 8, entry i n))
  ∧ (
    ∀ (s : State) (m : Measure) (us vs : List Sub) (w : Nat → State),
      let reads := s.gov.reads
      let t : State := { w us.length with gov := { (w us.length).gov with subs := vs, reads := reads.filter (s.zc < ·.2.2) } }
      s.gov.subs = us → vs.length = us.length → w 0 = s →
      (∀ i u v, us[i]? = some u → vs[i]? = some v → (w i).testSub m u = (w (i + 1), v)) →
      s.testSubs m = (reads.filter (·.2.2 ≤ s.zc)).foldl (fun t r => t.readSubs m r.1 r.2.1) t)

/-- Correctable errors count up to saturation; an uncorrectable one is recorded, the transfer it names delivers nothing, and a
PLB entry in error is dropped (R365, R366, R367). Sixteen bad flits in a row take a port down, and training takes it up and
sends what was held (R339, R340, R387). FUNCTION_READY sets its bit, of a channel only where its devices allow it, FW only where the stored
firmware verifies, and no PORT bit (R2, R372, R377). A die reset runs through its states in order, ignored out of order, serves
what was outstanding at its GO while it drains, transfers between its cores and their own stores included, discards what still
crosses when it is forced, and clears what stands on its die and nothing else (R370, R371). A device reset keeps device memory and
fuses and has the security root verify the stored firmware again, a staged image raising the fused minimum (R377, R379). Model's readings and choices: what a die
reset clears by placement (log 61), what a device reset keeps and that the image slots are emptied (log 33), and which
channels can report ready (log 80). -/
def Obligations.ErrorsAndResets : Prop :=
  ∀ (s : State),
    let g := s.regs
    let d := s.arg 0
    let die : Fin 8 := Fin.ofNat 8 d
    let p : Fin 12 := Fin.ofNat 12 (s.arg 0)
    let bit (n : Nat) : Dword := BitVec.ofNat 64 (2 ^ n)
    let store := s.arg 0
    let m := readyBits d
    let fn := s.arg 1 % 64
    let fence (forced : Bool) (t : State) : Prop := t.regs.drstState = 2 ∧ t.regs.drstForced = forced
      ∧ (forced = false → t.cores = s.cores)
      ∧ (∀ c : Fin 64, let k := s.core c
        ((∀ x ∈ k.cmds, x.started = true → x.crosses c d = false) → (∀ x ∈ k.syncs, x.crosses c d = false) →
          t.core c = { k with loads := (t.core c).loads, ustores := (t.core c).ustores, stts := (t.core c).stts
                              laccs := (t.core c).laccs, xpend := (t.core c).xpend })
        ∧ (forced = true → (zenithOf c).val = d ∨ (cumulusOf c).val = d → (t.core c).stts = [] ∧ (t.core c).laccs = []
            ∧ (∀ x ∈ (t.core c).loads, x.lines ≠ 0) ∧ ∀ x ∈ (t.core c).xpend, ∀ y ∈ x.writes, y.toStores = false)
        ∧ (forced = false ∨ ((zenithOf c).val ≠ d ∧ (cumulusOf c).val ≠ d) → (t.core c).stts = k.stts
            ∧ (t.core c).laccs = k.laccs ∧ (t.core c).xpend = k.xpend ∧ ∀ x ∈ k.loads, x.lines = 0 → x ∈ (t.core c).loads)
        ∧ (forced = true → (∀ x ∈ (t.core c).cmds, x ∈ k.cmds ∧ (x.started = true → x.crosses c d = false))
            ∧ ∀ x ∈ (t.core c).syncs, x ∈ k.syncs ∧ x.crosses c d = false)
        ∧ (t.core c).vis.g = k.vis.g ∧ (t.core c).v = k.v ∧ (t.core c).m = k.m ∧ (t.core c).acc = k.acc ∧ (t.core c).bc = k.bc
        ∧ (∀ x ∈ (t.core c).loads, x ∈ (s.core c).loads) ∧ (∀ x, x ∈ (t.core c).ustores ↔ x ∈ (s.core c).ustores
          ∧ (forced = false ∨ (if d = 1 then (zenithOf c).val ≠ 1 else (homeDie x.addr).val ≠ d))))
      ∧ t.msix = (s.msi 3).msix ∧ t.vecPend = (s.msi 3).vecPend ∧ ∃ n, t.agenda = insertAt ⟨n, .dieResetCleared, .nums [d, 0]⟩ s.agenda ∧ s.zc < n
    (s.leads .correctableError fun t => t.cores = s.cores ∧ t.mem = s.mem
        ∧ (s.ev.args.length ≤ 1 ∨ ¬(2 ≤ die.val ∧ die.val ≤ 5) → t.agenda = s.agenda)
        ∧ ∀ e : Fin 8, t.regs.cecnt[e] = if e = die ∧ g.cecnt[e] ≠ BitVec.allOnes 32 then g.cecnt[e] + 1 else g.cecnt[e])
    ∧ (s.leads .uncorrectableError fun t => t.regs.errhead = g.errhead + 1
        ∧ (s.arg 6 = 0 → store ≠ 8 → t.cores = s.cores)
        ∧ (∀ n, s.arg 6 = n + 1 → let q := t.core (Fin.ofNat 64 (s.arg 2))
            (∀ x ∈ q.loads, x.id ≠ n) ∧ (∀ x ∈ q.stts, x.id ≠ n) ∧ (∀ x ∈ q.laccs, x.id ≠ n) ∧ (∀ x ∈ q.cmds, x.id ≠ n)
            ∧ (∀ x ∈ q.ustores, x.id ≠ n) ∧ (∀ x ∈ q.xpend, x.id ≠ n) ∧ (∀ h : Fin 8, ∀ x ∈ q.shape[h].queue, x.id ≠ n)
            ∧ ∀ x ∈ q.syncs, x.id ≠ n)
        ∧ (∀ n, s.arg 7 = n + 1 → ∀ y ∈ t.qps, y.1 = n → ∀ x ∈ y.2.ents, x.id ≠ s.arg 8)
        ∧ ((t.regs.errrec[(Fin.ofNat 16 g.errhead.toNat)]).2.1.toNat = s.arg 4 % 2 ^ 48 / 128 * 128)
        ∧ (store = 11 → let k : Fin 64 := Fin.ofNat 64 (s.arg 2)
            (s.core k).st = .running → s.ending (s.core k).vis.csr.cid = false → s.over (s.core k).vis.csr.cid = false →
            t.ending (s.core k).vis.csr.cid = true)
        ∧ (store = 8 → (Fin.ofNat 8 (s.arg 1)).val < 2 → ∀ p ∈ (t.core (Fin.ofNat 64 (s.arg 2))).plb, p.page ≠ s.arg 4 / 2 ^ 21)
        ∧ (t.regs.errrec[(Fin.ofNat 16 g.errhead.toNat)]).1.toNat % 2 ^ 8 = store % 256
        ∧ (store = 8 → t.agenda = s.agenda))
    ∧ (s.arg 1 = 1 → exec .flitReceive s = .next { s with flits := s.flits.set p 0 })
    ∧ (s.arg 1 ≠ 1 → s.leads .flitReceive fun t => t.regs.portRetry[p] = g.portRetry[p] + 1 ∧ t.cores = s.cores
        ∧ (s.flits[p] < 15 → t.flits[p] = s.flits[p] + 1 ∧ t.regs.portUp = g.portUp)
        ∧ (15 ≤ s.flits[p] → t.flits[p] = 0 ∧ t.regs.portUp[p] = false ∧ t.regs.portDowns[p] = g.portDowns[p] + 1
          ∧ t.regs.ready0 = g.ready0 &&& ~~~bit (14 + p.val)))
    ∧ (s.leads .portTrained fun t => t.regs.portUp[p] = true ∧ t.flits[p] = 0 ∧ t.outbox = s.outbox ++ s.ackHeld ∧ t.ackHeld = []
        ∧ t.regs.ready0 = g.ready0 ||| bit (14 + p.val) ∧ t.cores = s.cores)
    ∧ (s.leads .functionReady fun t => t.cores = s.cores
        ∧ t.regs.ready1 = (if s.arg 0 ≠ 0 ∧ s.channelOk (Fin.ofNat 64 fn) = true then g.ready1 ||| bit fn else g.ready1)
        ∧ (∀ i < 27, ¬(14 ≤ i ∧ i ≤ 25) →
            t.regs.ready0.getLsbD i = (if s.arg 0 = 0 ∧ i = fn ∧ (i = 26 → s.trust.judge.2 = true) then true else g.ready0.getLsbD i))
        ∧ t.trust = (if s.arg 0 = 0 ∧ fn = 26 then s.trust.judge.1 else s.trust)
        ∧ (∀ i < 64, 31 ≤ i → t.regs.ready0.getLsbD i = g.ready0.getLsbD i)
        ∧ (∀ i < 12, t.regs.ready0.getLsbD (14 + i) = g.ready0.getLsbD (14 + i))
        ∧ (∀ i < 4, t.regs.ready0.getLsbD (27 + i) = true ↔ g.ready0.getLsbD (27 + i) = true
            ∨ ∀ j < 16, t.regs.ready1.getLsbD (16 * i + j) = true)
        ∧ (t.regs.drstState = if g.drstState = 4 ∧ t.regs.ready0 &&& (s.readyDue g.drstCur).1 = (s.readyDue g.drstCur).1
            ∧ t.regs.ready1 &&& (s.readyDue g.drstCur).2 = (s.readyDue g.drstCur).2 then 0 else g.drstState))
    ∧ (∀ v : Trust,
        (∀ b, v.passed = some b → v.judge = (v, b))
        ∧ (v.passed = none → (v.standby = none →
              v.judge = ({ v with passed := some (verified v.minSvn v.firmware) }, verified v.minSvn v.firmware))
          ∧ ∀ b, v.standby = some b →
            (verified v.minSvn (rlist b) = true → v.judge = (⟨some b, none, (fwSvnOf (rlist b)).toNat, some true⟩, true))
            ∧ (verified v.minSvn (rlist b) = false → v.judge = ({ v with standby := none, passed := some false }, false))))
    ∧ (∀ c : Fin 64, s.pop[c] = 0 → s.channelOk c = false ∧ (s.readyDue d).2.getLsbD c.val = false)
    ∧ (g.drstState ≠ 0 ∨ d = 0 ∨ 7 ≤ d → exec .dieResetGo s = .next s)
    ∧ (g.drstState = 0 → 1 ≤ d → d ≤ 6 → s.leads .dieResetGo fun t => t.regs.drstState = 1 ∧ t.regs.drstCur = d
        ∧ t.regs.drstMark = s.nextId ∧ t.regs.drstForced = false ∧ t.regs.ready0 = g.ready0 &&& ~~~m.1 ∧ t.regs.ready1 = g.ready1 &&& ~~~m.2 ∧ t.cores = s.cores
        ∧ ∀ cid ∈ s.contexts, s.usesDie cid d = true → t.ending cid = true ∨ s.over cid = true)
    ∧ (∀ (i : Instr) (t : State), i ∈ [.ldacqComplete, .verchkComplete, .strelComplete, .amoPerformed, .slotTransferComplete] →
        s.drains → exec i { s with regs := { g with drstState := 0, ready0 := g.ready0 ||| bit (25 + g.drstCur) } } = .next t →
        exec i s = .next { t with regs := { t.regs with drstState := 1, ready0 := g.ready0 } })
    ∧ (¬(g.drstState = 1 ∧ g.drstCur = d) → exec .dieResetFenced s = .next s ∧ exec .dieResetDeadline s = .next s)
    ∧ (g.drstState = 1 → g.drstCur = d → s.leads .dieResetDeadline (fence true)
        ∧ (s.crossing d (s.arg 1) = false → s.leads .dieResetFenced (fence false))
        ∧ (s.crossing d (s.arg 1) = true → exec .dieResetFenced s = .next (s.at_ (s.zc + 1) .dieResetFenced s.ev))
        ∧ ∀ c : Fin 64, (zenithOf c).val = d ∨ (cumulusOf c).val = d →
            (∃ x ∈ (s.core c).stts, x.id < s.arg 1) ∨ (∃ x ∈ (s.core c).laccs, x.id < s.arg 1)
              ∨ (∃ x ∈ (s.core c).loads, x.id < s.arg 1 ∧ x.lines = 0) → s.crossing d (s.arg 1) = true)
    ∧ (s.arg 1 = 0 → ¬(g.drstState = 2 ∧ g.drstCur = d) → exec .dieResetCleared s = .next s)
    ∧ (s.arg 1 = 0 → g.drstState = 2 → g.drstCur = d → s.leads .dieResetCleared fun t => t.regs.drstState = 3 ∧ t.mem = s.mem
        ∧ ∀ c : Fin 64, (2 ≤ d → d ≤ 5 → (cumulusOf c).val = d → (t.core c).acc = [] ∧ (t.core c).tile = [] ∧ (t.core c).basis = [])
          ∧ (d = 1 → (zenithOf c).val = 1 → (t.core c).st = .idle ∧ (t.core c).vis = Vis.reset ∧ (t.core c).acc = (s.core c).acc
            ∧ (t.core c).tile = (s.core c).tile ∧ (t.core c).basis = (s.core c).basis ∧ (t.core c).shape = (s.core c).shape)
          ∧ ((zenithOf c).val ≠ d → (cumulusOf c).val ≠ d → t.core c = s.core c))
    ∧ (s.arg 1 ≠ 0 → ¬(g.drstState = 3 ∧ g.drstCur = d) → exec .dieResetCleared s = .next s)
    ∧ (s.arg 1 ≠ 0 → g.drstState = 3 → g.drstCur = d → s.leads .dieResetCleared fun t => t.regs.drstState = 4 ∧ t.cores = s.cores
        ∧ ∀ i < 64, (i < 27 → (s.readyDue d).1.getLsbD i = true → ∃ n, ⟨n, .functionReady, .nums [0, i]⟩ ∈ t.agenda)
          ∧ ((s.readyDue d).2.getLsbD i = true → ∃ n, ⟨n, .functionReady, .nums [1, i]⟩ ∈ t.agenda))
    ∧ (s.leads .deviceReset fun t => t.mem = s.mem ∧ t.latt = s.latt ∧ t.dev = s.dev ∧ t.pop = s.pop ∧ t.zc = 0 ∧ t.cores = State.reset.cores
        ∧ t.mail = State.reset.mail ∧ t.runs = [] ∧ t.home = State.reset.home ∧ t.regs = State.reset.regs ∧ t.images = []
        ∧ (let v := Trust.judge { s.trust with passed := none }
           t.trust = v.1 ∧ (v.2 = false → t.agenda = []) ∧ (v.2 = true → ∃ n, t.agenda = [⟨n, .functionReady, .nums [0, 26]⟩])))
    ∧ exec .hostPortLinkDown s = .next { s with regs := { g with hostUp := false } }

/-- The management commands and BAR2 (R297, R306, R315, R374, R375, R376, R377, R378, R381, R382): each command ends with its
result at a later count, its output performed at memory; arguments out of range are a bad argument (the model's reading, log 31);
a slot is loaded only from an image of the right form, with the image's digest; FWSTAGE keeps an image that verifies; ATTEST
writes the report field by field (the signature and verdict functions are open, log 35; SHA3-256 is that of
FIPS 202, log 91); a masked vector waits and is sent when its mask clears (the table's place is the model's, log 83); BAR2 answers or refuses, and refuses memory whose MEM bit
is 0 (the model's choice, log 80); what the host and the management controller write has stamp 0 (the model's choice, log 41). -/
def Obligations.Management : Prop :=
  ∀ (s w : State) (x : Nat) (e : Nat × Nat),
    let g := s.regs
    let a (i : Fin 3) : Nat := g.marg[i].toNat
    let fw := g.ready0.getLsbD 26
    let ends (base : State) (code : Nat) (i : Instr) : Prop := ∃ n, s.zc < n ∧ exec i s = .next { base with
      agenda := insertAt ⟨n, .mgmtCommandComplete, .nums [code]⟩ base.agenda, choices := base.choices.tail }
    let bytes := rof (natBytes (a 2) x)
    let keep (cid : BitVec 12) (m : Mtu) : Mtu := { m with late := m.late.filter fun e => BitVec.ofNat 12 e.line.stamp.toNat != cid }
    let live := s.mem.read (g.ctxbase.toNat + 16 * a 0) 1 % 2 = 1 ∧ s.ended.contains (BitVec.ofNat 12 (a 0)) = false
    let dst := s.arg 0
    let n := s.arg 1
    let bad : Prop := 2 ^ 48 < dst + n ∨ ∃ p ∈ pagesOf dst n,
      g.ready0.getLsbD (homeDie (p * 2 ^ 21)).val = false ∨ g.ready0.getLsbD (25 + (homeDie (p * 2 ^ 21)).val) = false
    (a 0 % 4096 ≠ 0 → ends s 1 .resync)
    ∧ (a 0 % 4096 = 0 → a 0 + 4096 ≤ 2 ^ 48 → s.engineWrite 0 (a 0) 4096 s.summary 0 = (w, .inl x) → w.zc = s.zc →
        ends (w.hostSettle (a 0) 4096) 0 .resync
        ∧ ∀ la ∈ linesOf (a 0) 4096, (lineOr (w.hostSettle (a 0) 4096).home 0 la).dirty = 0)
    ∧ (fw = false → ends s 2 .loadimg ∧ ends s 2 .unloadimg ∧ ends s 2 .ackend ∧ ends s 2 .clrarr ∧ ends s 2 .attest)
    ∧ (fw = true → 64 ≤ a 0 → ends s 1 .loadimg ∧ ends s 1 .unloadimg)
    ∧ (fw = true → a 0 < 64 → (sget (a 0) s.images).isSome = true ∨ 2 ^ 26 < a 2 → ends s 2 .loadimg)
    ∧ (fw = true → a 0 < 64 → sget (a 0) s.images = none → a 2 ≤ 2 ^ 26 → a 1 + a 2 ≤ 2 ^ 48 →
        s.engineRead 0 (a 1) (a 2) = (w, .inl x) → w.zc = s.zc →
        (imageOk bytes = false → ends w 2 .loadimg)
        ∧ (imageOk bytes = true →
            ends { w with images := sput (a 0) ⟨bytes, digestOf (natBytes (a 2) x)⟩ w.images } 0 .loadimg))
    ∧ (fw = true → a 0 < 64 → s.slotUsed (a 0) = true → ends s 2 .unloadimg)
    ∧ (fw = true → a 0 < 64 → s.slotUsed (a 0) = false → ends { s with images := sdel (a 0) s.images } 0 .unloadimg)
    ∧ (fw = true → 4096 ≤ a 0 → ends s 1 .ackend)
    ∧ (fw = true → a 0 < 4096 → live → ends s 2 .ackend)
    ∧ (fw = true → a 0 < 4096 → ¬live → ends { s with mtu := vmap (keep (BitVec.ofNat 12 (a 0))) s.mtu } 0 .ackend)
    ∧ (fw = true → 2 ^ 16 ≤ a 0 → ends s 1 .clrarr)
    ∧ (fw = true → a 0 < 2 ^ 16 → ends { s with arrivals := s.arrivals.filter fun y => y.1 != BitVec.ofNat 16 (a 0) } 0 .clrarr)
    ∧ (a 1 < 2484 → ends s 3 .fwstage)
    ∧ (2484 ≤ a 1 → a 0 + a 1 ≤ 2 ^ 48 → s.engineRead 0 (a 0) (a 1) = (w, .inl x) → w.zc = s.zc →
        let b := natBytes (a 1) x
        let head := b.take 64
        let ok : Prop := Config.fwMagic head = true ∧ a 1 = 64 + Config.fwBody head + 2420
          ∧ Config.fwSigned (digestOf (b.take (a 1 - 2420))) (b.drop (a 1 - 2420)) = true ∧ w.trust.minSvn ≤ (Config.fwSvn head).toNat
        (¬ok → ends w 3 .fwstage) ∧ (ok → ends { w with trust := { w.trust with standby := some (rof b) } } 0 .fwstage))
    ∧ (fw = true → a 0 + 32 ≤ 2 ^ 48 → s.engineRead 0 (a 0) 32 = (w, .inr e) → w.zc = s.zc → ends w 1 .attest)
    ∧ (fw = true → 2 ^ 48 < a 0 + 32 → ends s 1 .attest)
    ∧ (∀ (v : State) (r : Nat ⊕ (Nat × Nat)), fw = true → a 0 + 32 ≤ 2 ^ 48 → a 1 + 4564 ≤ 2 ^ 48 →
        s.engineRead 0 (a 0) 32 = (w, .inl x) → w.zc = s.zc →
        ({ w with freeCtr := w.freeCtr + 1 } : State).engineWrite 0 (a 1) 4564 (w.report x) 0 = (v, r) → v.zc = s.zc →
        ends (v.hostSettle (a 1) 4564) (if r.isLeft then 0 else 1) .attest)
    ∧ (∀ nonce : Nat, nonce < 2 ^ 256 → Rising s.images → (∀ y ∈ s.images, y.1 < 64 ∧ y.2.digest.length = 32) →
        let R := s.report nonce
        let f (o n : Nat) : Nat := R / 2 ^ (8 * o) % 2 ^ (8 * n)
        let fwb := s.trust.firmware
        f 0x000 8 = 0x544154534A565A46 ∧ f 0x008 32 = nonce ∧ f 0x028 32 = bytesNat (digestOf (fwb.take (fwb.length - 2420)))
        ∧ f 0x048 4 = (Config.fwSvn (fwb.take 64)).toNat ∧ f 0x04C 4 = 0
        ∧ (∀ i < 64, (f 0x050 8).testBit i = (sget i s.images).isSome
            ∧ f (0x058 + 32 * i) 32 = ((sget i s.images).map fun y => bytesNat y.digest).getD 0)
        ∧ f 0x858 8 = s.zc % 2 ^ 64
        ∧ ∀ i < 2420, f (0x860 + i) 1 = (Config.signature s.freeCtr (digestOf (natBytes 0x860 (R % 2 ^ (8 * 0x860)))) i).toNat)
    ∧ (∀ v < 2048, let bit := (s.arg 1).testBit 32
        (s.vecMask.getLsbD v = false → s.msi v = { s with msix := s.msix ++ [v] })
        ∧ (s.vecMask.getLsbD v = true → ∃ p, s.msi v = { s with vecPend := p }
            ∧ ∀ i < 2048, p.getLsbD i = (decide (i = v) || s.vecPend.getLsbD i))
        ∧ (g.hostUp = true → s.arg 0 = 2 ^ 26 + 16 * v + 8 → s.leads .registerWrite fun t =>
            t.vecMask.getLsbD v = bit ∧ (∀ i < 2048, i ≠ v → t.vecMask.getLsbD i = s.vecMask.getLsbD i)
            ∧ (bit = true → t.msix = s.msix ∧ t.vecPend = s.vecPend)
            ∧ (bit = false → t.msix = (if s.vecPend.getLsbD v then s.msix ++ [v] else s.msix)
              ∧ ∀ i < 2048, t.vecPend.getLsbD i = (decide (i ≠ v) && s.vecPend.getLsbD i))))
    ∧ exec .mgmtCommandComplete s
        = .next (({ s with regs := { g with mbusy := false, mresult := BitVec.ofNat 8 (s.arg 0) } } : State).msi 2)
    ∧ (g.hostUp = false → exec .bar2Read s = .next s ∧ exec .bar2Write s = .next s)
    ∧ (g.hostUp = true → bad → (s.leads .bar2Read fun t => t.replies = s.replies ++ [none] ∧ t.regs.errhead = g.errhead + 1 ∧ t.mem = s.mem)
        ∧ s.leads .bar2Write fun t => t.regs.errhead = g.errhead + 1 ∧ t.mem = s.mem ∧ t.home = s.home)
    ∧ (g.hostUp = true → ¬bad → s.engineRead 0 dst n = (w, .inl x) → exec .bar2Read s = .next { w with replies := w.replies ++ [some x] })
    ∧ (g.hostUp = true → ¬bad → s.engineWrite 0 dst n (bytesNat (rlist s.ev.data)) 0 = (w, .inl x) → exec .bar2Write s = .next (w.entriesWritten dst n))

/-- After reset (R14-R31, R228, R288, R292, R302, R351, R366, R370, R374, R379) the count is 0, every core is idle with its
registers at their Reset values, every mailbox is EMPTY, and every BAR0 register holds its Reset value. (SCRATCH, the vector
registers and device memory have none: that they read 0 is the model's choice, logs 6, 7 and 3.) The invariants of the machine
hold at reset. -/
def Obligations.ResetState : Prop :=
  (
    let s := State.reset
    s.zc = 0 ∧ s.mem = [] ∧ s.agenda = [] ∧ s.runs = [] ∧ s.pins = [] ∧ s.images = []
    ∧ (∀ c : Fin 64, let k := s.core c
        k.st = .idle ∧ (∀ r : Fin 64, k.vis.rg r = 0) ∧ (∀ j : Fin 64, k.vis.tok[j].image = 0) ∧ (∀ j : Fin 8, k.vis.ring[j] = 0)
        ∧ (∀ h : Fin 8, k.vis.sh[h] = .free) ∧ k.rs = [] ∧ k.dq = [] ∧ k.shadow = none ∧ k.frozen = 0
        ∧ k.vis.csr.retrylim = 2 ∧ k.vis.csr.haloctl = 3 ∧ k.vis.csr.accmask = 0 ∧ k.vis.csr.trapvec = 0 ∧ k.vis.csr.fflags = 0
        ∧ k.vis.csr.zbase = 0 ∧ k.vis.csr.preempt = 0 ∧ k.vis.csr.trapcause = 0 ∧ k.vis.csr.errinj = 0
        ∧ s.mail[c].st = .empty ∧ (s.mail[c].read 3).toNat / 2 ^ 17 % 2 ^ 16 = 0xFFFF)
    ∧ s.regRead 0x200 = 0x1000000 ∧ s.regRead 0x300 = 0 ∧ s.regRead 0x308 = 0 ∧ s.regRead 0x328 = 0 ∧ s.regRead 0x338 = 0
    ∧ s.regRead 0x348 = 0x1000000 ∧ s.regRead 0x350 = 0 ∧ (s.regRead 0x800).toNat / 2 ^ 48 = 256
    ∧ (s.regRead 0x800).toNat / 2 ^ 22 % 32 = 16 ∧ (s.regRead 0x808).toNat % 32 = 16
    ∧ (s.regRead 0x818).toNat / 2 ^ 8 % 2 ^ 20 = 1000 ∧ s.regRead 0x900 = 0 ∧ s.regRead 0x908 = 0x100000
    ∧ s.regRead 0x1020 = 0 ∧ s.regRead 0x100 = 0 ∧ s.regRead 0x118 = 0)
  ∧ (
    Memory.wf State.reset.mem = true ∧ (∀ c : Fin 64, (State.reset.core c).lanesFull) ∧ State.reset.tablesRise)

/-- A few words of each map written out from their encodings (R75, R82-R86, R128) decode to what they stand for. -/
def Obligations.DecodeSamples : Prop :=
  let h (link : Link) (ic : Fin 8) : Header := ⟨false, link, ic⟩
  let n : Link := ⟨false, false, false, false⟩
  -- C: ADD g1, g2, g3 is major 4 with minor 0; TRAP 5; WAITK in any of C, L and W
  decode .c 0b00000_000100_000001_000010_000011_000#32 = some (h n 0, .add 1 2 3)
  ∧ decode .c 0b10000_000100_000001_000010_000011_001#32 = some (⟨true, n, 0⟩, .sub 1 2 3)
  ∧ decode .l 0b00000_000011_000101_000000000000000#32 = some (h n 0, .waitk 5)
  -- X: the words of R128
  ∧ decode .x 0x001D0488#32 = some (h n 0, .vfma 4 1 2 1 0)
  ∧ decode .x 0x0035A562#32 = some (h n 0, .vcmpLt 3 5 6 1 false)
  ∧ decode .x 0x0059C648#32 = some (h n 0, .vcvts 7 1 9 2)
  ∧ decode .x 0x00820D80#32 = some (h n 0, .vmom1 8 3 6 0 0)
  ∧ decode .x 0x00948230#32 = some (h n 0, .mlogAnd 1 2 3)
  ∧ decode .x 0x009804A2#32 = some (h n 0, .dqpush 1 2 4 2)
  ∧ decode .x 0x00A08D00#32 = some (h n 0, .vaccrd 2 3 4 0 0)
  ∧ decode .x 0x02943520#32 = none
  ∧ decode .x 0x02944520#32 = some (h n 2, .mlogPopc 5 2)
  -- an unlisted CSR number and an LBREAK with reserved bits are illegal (R26, R87)
  ∧ decode .c 0xFFFFFFFF#32 = none

/-- DECODE AFTER ENCODE (R75, R77, R82-R87): every well-formed instruction of a cluster's map, under every header its words can
carry, has a word, and the cluster reads exactly that instruction and header from it. -/
def Obligations.DecodeOfEncode : Prop :=
  ∀ (cl : Cl) (h : Header) (i : Instr), cl.reads i = true → i.wf = true → (cl = .x ∨ h.ic = 0) →
    ∃ w, encode h i = some w ∧ decode cl w = some (h, i)

/-- ENCODE AFTER DECODE (R82-R87): what a cluster reads from a word is a well-formed instruction of its map, and its encoding is
that word: no two words stand for one instruction under one header, and no bit of a word is ignored. -/
def Obligations.EncodeOfDecode : Prop :=
  ∀ (cl : Cl) (h : Header) (i : Instr) (w : Word), decode cl w = some (h, i) →
    cl.reads i = true ∧ i.wf = true ∧ encode h i = some w

/-- No step stops: from every state a step answers a next state. Every exception of this hardware is taken (R317-R326). -/
def Obligations.EveryStepGoesOn : Prop :=
 ∀ s : State, s.goesOn

/-- Every step keeps the canonical form of memory. -/
def Obligations.MemoryStaysCanonical : Prop :=
  ∀ s t : State, Memory.wf s.mem = true → step s = .next t → Memory.wf t.mem = true

/-- Every step keeps the registers, and every value on its way to one, at 6144 lanes (R14). Every step keeps the tables of the
package rising. -/
def Obligations.LanesAndTables : Prop :=
  (
    ∀ s t : State, (∀ c : Fin 64, (s.core c).lanesFull) → step s = .next t → ∀ c : Fin 64, (t.core c).lanesFull)
  ∧ (
    ∀ s t : State, s.tablesRise → step s = .next t → t.tablesRise)

/-- A word changes no core but its own: what another core holds it does not touch (R4, R16). -/
def Obligations.WordsTouchOneCore : Prop :=
  ∀ (s t : State) (i : Instr) (c : Fin 64), s.turn.cl.reads i = true → exec i s = .next t → c ≠ s.turn.core → t.core c = s.core c

/-- Integer elements (R46, R131, R133): VADD, VSUB and VMUL form the exact result, limited to the nearer limit with OF and NX; VMIN
and VMAX compare as signed; NEG and ABS limit the most negative value. Floating minimum and maximum (R130): a NaN gives the canonical NaN
with no flag, −0 lies below +0. The special operands of R134. -/
def Obligations.ElementNumbers : Prop :=
  (∀ (c : Nat) (a b : Nat), c = 9 ∨ c = 15 → let w := if c = 9 then 8 else 32
    a < 2 ^ w → b < 2 ^ w →
    let num (x : Nat) : Int := if x < 2 ^ (w - 1) then x else x - 2 ^ w
    let lim (y : Int) : Int := max (-2 ^ (w - 1)) (min (2 ^ (w - 1) - 1) y)
    let out (y : Int) : Nat × Flags := ((lim y % 2 ^ w).toNat, if lim y = y then 0 else 20)
    elAdd c a b = out (num a + num b) ∧ elSub c a b = out (num a - num b) ∧ elMul c a b = out (num a * num b)
    ∧ elNeg c a = out (-num a) ∧ elAbs c a = out |num a|
    ∧ elPick true c a b = ((min (num a) (num b) % 2 ^ w).toNat, 0) ∧ elPick false c a b = ((max (num a) (num b) % 2 ^ w).toNat, 0))
  ∧ ∀ (c w inf nan one half : Nat), (c, w, inf, nan, one, half) ∈
      [(0, 32, 0x7F800000, 0x7FC00000, 0x3F800000, 0x3F000000), (1, 32, 0x7F800000, 0x7FC00000, 0x3F800000, 0x3F000000),
       (2, 16, 0x7F80, 0x7FC0, 0x3F80, 0x3F00), (3, 16, 0x7C00, 0x7E00, 0x3C00, 0x3800)] →
    let sg := 2 ^ (w - 1)
    let low := if c = 1 then 2 ^ 13 else 1
    let f (g : FFmt → FV → Nat × Flags) (x : Nat) : Nat × Flags := elFun g c x
    (f recip 0 = (inf, 2) ∧ f recip sg = (sg + inf, 2) ∧ f recip inf = (0, 0) ∧ f recip (sg + inf) = (sg, 0))
    ∧ (f rsqrtF 0 = (inf, 2) ∧ f rsqrtF sg = (sg + inf, 2) ∧ f rsqrtF inf = (0, 0) ∧ f rsqrtF (sg + inf) = (nan, 1))
    ∧ (f sqrtF 0 = (0, 0) ∧ f sqrtF sg = (sg, 0) ∧ f sqrtF inf = (inf, 0) ∧ f sqrtF (sg + inf) = (nan, 1))
    ∧ (f exp2F 0 = (one, 0) ∧ f exp2F sg = (one, 0) ∧ f exp2F inf = (inf, 0) ∧ f exp2F (sg + inf) = (0, 0))
    ∧ (f log2F 0 = (sg + inf, 2) ∧ f log2F sg = (sg + inf, 2) ∧ f log2F inf = (inf, 0) ∧ f log2F (sg + inf) = (nan, 1))
    ∧ (f tanhF 0 = (0, 0) ∧ f tanhF sg = (sg, 0) ∧ f tanhF inf = (one, 0) ∧ f tanhF (sg + inf) = (sg + one, 0))
    ∧ (f sigmF 0 = (half, 0) ∧ f sigmF sg = (half, 0) ∧ f sigmF inf = (one, 0) ∧ f sigmF (sg + inf) = (0, 0))
    ∧ (∀ x, sg + low ≤ x → x < sg + inf → f rsqrtF x = (nan, 1) ∧ f sqrtF x = (nan, 1) ∧ f log2F x = (nan, 1))
    ∧ (∀ x, x < 2 ^ w → inf + low ≤ x % sg → f recip x = (nan, 0) ∧ f rsqrtF x = (nan, 0) ∧ f sqrtF x = (nan, 0)
        ∧ f exp2F x = (nan, 0) ∧ f log2F x = (nan, 0) ∧ f tanhF x = (nan, 0) ∧ f sigmF x = (nan, 0)
        ∧ ∀ y, elPick true c x y = (nan, 0) ∧ elPick false c y x = (nan, 0) ∧ (elAdd c x y).1 = nan ∧ (elMul c y x).1 = nan)
    ∧ elPick true c 0 sg = (sg, 0) ∧ elPick true c sg 0 = (sg, 0) ∧ elPick false c 0 sg = (0, 0) ∧ elPick false c sg 0 = (0, 0)
    ∧ elAdd c 0 sg = (0, 0) ∧ elAdd c sg sg = (sg, 0) ∧ elSub c sg 0 = (sg, 0) ∧ elAdd c inf (sg + inf) = (nan, 1)
    ∧ elMul c 0 inf = (nan, 1) ∧ elFma false false c 0 inf one = (nan, 1)

/-- ROUNDING IS TO NEAREST (R34, R41, R46): of the four formats of vector arithmetic, an exact magnitude that rounds without
overflow rounds to a value of the format as near as any, keeps its sign, and raises NX exactly when the value changes. -/
def Obligations.RoundsToNearest : Prop :=
  ∀ (f : FFmt) (n : Bool) (m : Nat) (e : Int), f = fp32 ∨ f = fp19 ∨ f = bf16 ∨ f = fp16 →
    let r := f.ofFV (.fin n m e)
    r.2.getLsbD 2 = false → ∃ (m' : Nat) (e' : Int), f.decode r.1 = .fin n m' e'
      ∧ (r.2.getLsbD 4 = true ↔ finValue m' e' ≠ finValue m e)
      ∧ ∀ (x : Nat) (n'' : Bool) (m'' : Nat) (e'' : Int), f.decode x = .fin n'' m'' e'' →
          |finValue m' e' - finValue m e| ≤ |finValue m'' e'' - finValue m e|
end

