-- ==== Sys2Proof/Laws/State.lean ====
section
/-!
SUPPORT. The small laws of the state's updates: what each leaves as it was, field by field, and what it sets.
-/

namespace Sys2Proof.Machine

/-! ## Cores -/

@[simp] theorem State.core_setCore (s : State) (c : Fin 64) (k : Core) : (s.setCore c k).core c = k := by
  simp [State.setCore, State.core]

theorem State.core_setCore_ne (s : State) (c d : Fin 64) (k : Core) (h : d ≠ c) : (s.setCore c k).core d = s.core d := by
  have : c.val ≠ d.val := fun e => h (Fin.ext e.symm)
  simp [State.setCore, State.core, this]

@[simp] theorem State.core_modCore (s : State) (c : Fin 64) (f : Core → Core) : (s.modCore c f).core c = f (s.core c) := by
  simp [State.modCore]

theorem State.core_modCore_ne (s : State) (c d : Fin 64) (f : Core → Core) (h : d ≠ c) : (s.modCore c f).core d = s.core d :=
  s.core_setCore_ne c d _ h

@[simp] theorem State.me_modMe (s : State) (f : Core → Core) : (s.modMe f).me = f s.me := by
  simp [State.modMe, State.me, State.modCore, State.setCore, State.core]

@[simp] theorem State.core_modMe (s : State) (f : Core → Core) : (s.modMe f).core s.turn.core = f s.me := s.me_modMe f

theorem State.core_modMe_ne (s : State) (f : Core → Core) (c : Fin 64) (h : c ≠ s.turn.core) : (s.modMe f).core c = s.core c :=
  s.core_modCore_ne _ _ _ h

@[simp] theorem State.setCore_core (s : State) (c : Fin 64) : s.setCore c (s.core c) = s := by
  have : s.cores.set c.val s.cores[c.val] = s.cores := by simp
  unfold State.setCore State.core
  exact congrArg (fun v => ({ s with cores := v } : State)) this

@[simp] theorem State.modMe_id (s : State) (f : Core → Core) (h : f s.me = s.me) : s.modMe f = s := by
  unfold State.modMe State.modCore
  rw [show f (s.core s.turn.core) = s.core s.turn.core from h]
  exact s.setCore_core _

/-! ## What changing a core leaves as it was -/

@[simp] theorem State.setCore_zc (s : State) (c : Fin 64) (k : Core) : (s.setCore c k).zc = s.zc := rfl
@[simp] theorem State.setCore_latt (s : State) (c : Fin 64) (k : Core) : (s.setCore c k).latt = s.latt := rfl
@[simp] theorem State.setCore_dev (s : State) (c : Fin 64) (k : Core) : (s.setCore c k).dev = s.dev := rfl
@[simp] theorem State.setCore_mem (s : State) (c : Fin 64) (k : Core) : (s.setCore c k).mem = s.mem := rfl
@[simp] theorem State.setCore_home (s : State) (c : Fin 64) (k : Core) : (s.setCore c k).home = s.home := rfl
@[simp] theorem State.setCore_rdc (s : State) (c : Fin 64) (k : Core) : (s.setCore c k).rdc = s.rdc := rfl
@[simp] theorem State.setCore_cells (s : State) (c : Fin 64) (k : Core) : (s.setCore c k).cells = s.cells := rfl
@[simp] theorem State.setCore_allocAt (s : State) (c : Fin 64) (k : Core) : (s.setCore c k).allocAt = s.allocAt := rfl
@[simp] theorem State.setCore_view (s : State) (c : Fin 64) (k : Core) : (s.setCore c k).view = s.view := rfl
@[simp] theorem State.setCore_mtu (s : State) (c : Fin 64) (k : Core) : (s.setCore c k).mtu = s.mtu := rfl
@[simp] theorem State.setCore_regs (s : State) (c : Fin 64) (k : Core) : (s.setCore c k).regs = s.regs := rfl
@[simp] theorem State.setCore_mail (s : State) (c : Fin 64) (k : Core) : (s.setCore c k).mail = s.mail := rfl
@[simp] theorem State.setCore_runs (s : State) (c : Fin 64) (k : Core) : (s.setCore c k).runs = s.runs := rfl
@[simp] theorem State.setCore_pins (s : State) (c : Fin 64) (k : Core) : (s.setCore c k).pins = s.pins := rfl
@[simp] theorem State.setCore_images (s : State) (c : Fin 64) (k : Core) : (s.setCore c k).images = s.images := rfl
@[simp] theorem State.setCore_qps (s : State) (c : Fin 64) (k : Core) : (s.setCore c k).qps = s.qps := rfl
@[simp] theorem State.setCore_cnts (s : State) (c : Fin 64) (k : Core) : (s.setCore c k).cnts = s.cnts := rfl
@[simp] theorem State.setCore_ranks (s : State) (c : Fin 64) (k : Core) : (s.setCore c k).ranks = s.ranks := rfl
@[simp] theorem State.setCore_helds (s : State) (c : Fin 64) (k : Core) : (s.setCore c k).helds = s.helds := rfl
@[simp] theorem State.setCore_ended (s : State) (c : Fin 64) (k : Core) : (s.setCore c k).ended = s.ended := rfl
@[simp] theorem State.setCore_arrivals (s : State) (c : Fin 64) (k : Core) : (s.setCore c k).arrivals = s.arrivals := rfl
@[simp] theorem State.setCore_gov (s : State) (c : Fin 64) (k : Core) : (s.setCore c k).gov = s.gov := rfl
@[simp] theorem State.setCore_filler (s : State) (c : Fin 64) (k : Core) : (s.setCore c k).filler = s.filler := rfl
@[simp] theorem State.setCore_trust (s : State) (c : Fin 64) (k : Core) : (s.setCore c k).trust = s.trust := rfl
@[simp] theorem State.setCore_flits (s : State) (c : Fin 64) (k : Core) : (s.setCore c k).flits = s.flits := rfl
@[simp] theorem State.setCore_msix (s : State) (c : Fin 64) (k : Core) : (s.setCore c k).msix = s.msix := rfl
@[simp] theorem State.setCore_vecMask (s : State) (c : Fin 64) (k : Core) : (s.setCore c k).vecMask = s.vecMask := rfl
@[simp] theorem State.setCore_vecPend (s : State) (c : Fin 64) (k : Core) : (s.setCore c k).vecPend = s.vecPend := rfl
@[simp] theorem State.setCore_outbox (s : State) (c : Fin 64) (k : Core) : (s.setCore c k).outbox = s.outbox := rfl
@[simp] theorem State.setCore_ackHeld (s : State) (c : Fin 64) (k : Core) : (s.setCore c k).ackHeld = s.ackHeld := rfl
@[simp] theorem State.setCore_replies (s : State) (c : Fin 64) (k : Core) : (s.setCore c k).replies = s.replies := rfl
@[simp] theorem State.setCore_turn (s : State) (c : Fin 64) (k : Core) : (s.setCore c k).turn = s.turn := rfl
@[simp] theorem State.setCore_ev (s : State) (c : Fin 64) (k : Core) : (s.setCore c k).ev = s.ev := rfl
@[simp] theorem State.setCore_todo (s : State) (c : Fin 64) (k : Core) : (s.setCore c k).todo = s.todo := rfl
@[simp] theorem State.setCore_agenda (s : State) (c : Fin 64) (k : Core) : (s.setCore c k).agenda = s.agenda := rfl
@[simp] theorem State.setCore_inbox (s : State) (c : Fin 64) (k : Core) : (s.setCore c k).inbox = s.inbox := rfl
@[simp] theorem State.setCore_choices (s : State) (c : Fin 64) (k : Core) : (s.setCore c k).choices = s.choices := rfl
@[simp] theorem State.setCore_freeCtr (s : State) (c : Fin 64) (k : Core) : (s.setCore c k).freeCtr = s.freeCtr := rfl
@[simp] theorem State.setCore_nextId (s : State) (c : Fin 64) (k : Core) : (s.setCore c k).nextId = s.nextId := rfl
@[simp] theorem State.setCore_nbDepth (s : State) (c : Fin 64) (k : Core) : (s.setCore c k).nbDepth = s.nbDepth := rfl
@[simp] theorem State.setCore_nbView (s : State) (c : Fin 64) (k : Core) : (s.setCore c k).nbView = s.nbView := rfl
@[simp] theorem State.setCore_time (s : State) (c : Fin 64) (k : Core) : (s.setCore c k).time = s.time := rfl
@[simp] theorem State.setCore_ptp (s : State) (c : Fin 64) (k : Core) : (s.setCore c k).ptp = s.ptp := rfl
@[simp] theorem State.setCore_sent (s : State) (c : Fin 64) (k : Core) : (s.setCore c k).sent = s.sent := rfl
@[simp] theorem State.setCore_energy (s : State) (c : Fin 64) (k : Core) : (s.setCore c k).energy = s.energy := rfl
@[simp] theorem State.setCore_fill (s : State) (c : Fin 64) (k : Core) : (s.setCore c k).fill = s.fill := rfl
@[simp] theorem State.setCore_work (s : State) (c : Fin 64) (k : Core) : (s.setCore c k).work = s.work := rfl
@[simp] theorem State.setCore_pop (s : State) (c : Fin 64) (k : Core) : (s.setCore c k).pop = s.pop := rfl
@[simp] theorem State.modCore_zc (s : State) (c : Fin 64) (f : Core → Core) : (s.modCore c f).zc = s.zc := rfl
@[simp] theorem State.modCore_latt (s : State) (c : Fin 64) (f : Core → Core) : (s.modCore c f).latt = s.latt := rfl
@[simp] theorem State.modCore_dev (s : State) (c : Fin 64) (f : Core → Core) : (s.modCore c f).dev = s.dev := rfl
@[simp] theorem State.modCore_mem (s : State) (c : Fin 64) (f : Core → Core) : (s.modCore c f).mem = s.mem := rfl
@[simp] theorem State.modCore_home (s : State) (c : Fin 64) (f : Core → Core) : (s.modCore c f).home = s.home := rfl
@[simp] theorem State.modCore_rdc (s : State) (c : Fin 64) (f : Core → Core) : (s.modCore c f).rdc = s.rdc := rfl
@[simp] theorem State.modCore_cells (s : State) (c : Fin 64) (f : Core → Core) : (s.modCore c f).cells = s.cells := rfl
@[simp] theorem State.modCore_allocAt (s : State) (c : Fin 64) (f : Core → Core) : (s.modCore c f).allocAt = s.allocAt := rfl
@[simp] theorem State.modCore_view (s : State) (c : Fin 64) (f : Core → Core) : (s.modCore c f).view = s.view := rfl
@[simp] theorem State.modCore_mtu (s : State) (c : Fin 64) (f : Core → Core) : (s.modCore c f).mtu = s.mtu := rfl
@[simp] theorem State.modCore_regs (s : State) (c : Fin 64) (f : Core → Core) : (s.modCore c f).regs = s.regs := rfl
@[simp] theorem State.modCore_mail (s : State) (c : Fin 64) (f : Core → Core) : (s.modCore c f).mail = s.mail := rfl
@[simp] theorem State.modCore_runs (s : State) (c : Fin 64) (f : Core → Core) : (s.modCore c f).runs = s.runs := rfl
@[simp] theorem State.modCore_pins (s : State) (c : Fin 64) (f : Core → Core) : (s.modCore c f).pins = s.pins := rfl
@[simp] theorem State.modCore_images (s : State) (c : Fin 64) (f : Core → Core) : (s.modCore c f).images = s.images := rfl
@[simp] theorem State.modCore_qps (s : State) (c : Fin 64) (f : Core → Core) : (s.modCore c f).qps = s.qps := rfl
@[simp] theorem State.modCore_cnts (s : State) (c : Fin 64) (f : Core → Core) : (s.modCore c f).cnts = s.cnts := rfl
@[simp] theorem State.modCore_ranks (s : State) (c : Fin 64) (f : Core → Core) : (s.modCore c f).ranks = s.ranks := rfl
@[simp] theorem State.modCore_helds (s : State) (c : Fin 64) (f : Core → Core) : (s.modCore c f).helds = s.helds := rfl
@[simp] theorem State.modCore_ended (s : State) (c : Fin 64) (f : Core → Core) : (s.modCore c f).ended = s.ended := rfl
@[simp] theorem State.modCore_arrivals (s : State) (c : Fin 64) (f : Core → Core) : (s.modCore c f).arrivals = s.arrivals := rfl
@[simp] theorem State.modCore_gov (s : State) (c : Fin 64) (f : Core → Core) : (s.modCore c f).gov = s.gov := rfl
@[simp] theorem State.modCore_filler (s : State) (c : Fin 64) (f : Core → Core) : (s.modCore c f).filler = s.filler := rfl
@[simp] theorem State.modCore_trust (s : State) (c : Fin 64) (f : Core → Core) : (s.modCore c f).trust = s.trust := rfl
@[simp] theorem State.modCore_flits (s : State) (c : Fin 64) (f : Core → Core) : (s.modCore c f).flits = s.flits := rfl
@[simp] theorem State.modCore_msix (s : State) (c : Fin 64) (f : Core → Core) : (s.modCore c f).msix = s.msix := rfl
@[simp] theorem State.modCore_vecMask (s : State) (c : Fin 64) (f : Core → Core) : (s.modCore c f).vecMask = s.vecMask := rfl
@[simp] theorem State.modCore_vecPend (s : State) (c : Fin 64) (f : Core → Core) : (s.modCore c f).vecPend = s.vecPend := rfl
@[simp] theorem State.modCore_outbox (s : State) (c : Fin 64) (f : Core → Core) : (s.modCore c f).outbox = s.outbox := rfl
@[simp] theorem State.modCore_ackHeld (s : State) (c : Fin 64) (f : Core → Core) : (s.modCore c f).ackHeld = s.ackHeld := rfl
@[simp] theorem State.modCore_replies (s : State) (c : Fin 64) (f : Core → Core) : (s.modCore c f).replies = s.replies := rfl
@[simp] theorem State.modCore_turn (s : State) (c : Fin 64) (f : Core → Core) : (s.modCore c f).turn = s.turn := rfl
@[simp] theorem State.modCore_ev (s : State) (c : Fin 64) (f : Core → Core) : (s.modCore c f).ev = s.ev := rfl
@[simp] theorem State.modCore_todo (s : State) (c : Fin 64) (f : Core → Core) : (s.modCore c f).todo = s.todo := rfl
@[simp] theorem State.modCore_agenda (s : State) (c : Fin 64) (f : Core → Core) : (s.modCore c f).agenda = s.agenda := rfl
@[simp] theorem State.modCore_inbox (s : State) (c : Fin 64) (f : Core → Core) : (s.modCore c f).inbox = s.inbox := rfl
@[simp] theorem State.modCore_choices (s : State) (c : Fin 64) (f : Core → Core) : (s.modCore c f).choices = s.choices := rfl
@[simp] theorem State.modCore_freeCtr (s : State) (c : Fin 64) (f : Core → Core) : (s.modCore c f).freeCtr = s.freeCtr := rfl
@[simp] theorem State.modCore_nextId (s : State) (c : Fin 64) (f : Core → Core) : (s.modCore c f).nextId = s.nextId := rfl
@[simp] theorem State.modCore_nbDepth (s : State) (c : Fin 64) (f : Core → Core) : (s.modCore c f).nbDepth = s.nbDepth := rfl
@[simp] theorem State.modCore_nbView (s : State) (c : Fin 64) (f : Core → Core) : (s.modCore c f).nbView = s.nbView := rfl
@[simp] theorem State.modCore_time (s : State) (c : Fin 64) (f : Core → Core) : (s.modCore c f).time = s.time := rfl
@[simp] theorem State.modCore_ptp (s : State) (c : Fin 64) (f : Core → Core) : (s.modCore c f).ptp = s.ptp := rfl
@[simp] theorem State.modCore_sent (s : State) (c : Fin 64) (f : Core → Core) : (s.modCore c f).sent = s.sent := rfl
@[simp] theorem State.modCore_energy (s : State) (c : Fin 64) (f : Core → Core) : (s.modCore c f).energy = s.energy := rfl
@[simp] theorem State.modCore_fill (s : State) (c : Fin 64) (f : Core → Core) : (s.modCore c f).fill = s.fill := rfl
@[simp] theorem State.modCore_work (s : State) (c : Fin 64) (f : Core → Core) : (s.modCore c f).work = s.work := rfl
@[simp] theorem State.modCore_pop (s : State) (c : Fin 64) (f : Core → Core) : (s.modCore c f).pop = s.pop := rfl
@[simp] theorem State.modMe_zc (s : State) (f : Core → Core) : (s.modMe f).zc = s.zc := rfl
@[simp] theorem State.modMe_latt (s : State) (f : Core → Core) : (s.modMe f).latt = s.latt := rfl
@[simp] theorem State.modMe_dev (s : State) (f : Core → Core) : (s.modMe f).dev = s.dev := rfl
@[simp] theorem State.modMe_mem (s : State) (f : Core → Core) : (s.modMe f).mem = s.mem := rfl
@[simp] theorem State.modMe_home (s : State) (f : Core → Core) : (s.modMe f).home = s.home := rfl
@[simp] theorem State.modMe_rdc (s : State) (f : Core → Core) : (s.modMe f).rdc = s.rdc := rfl
@[simp] theorem State.modMe_cells (s : State) (f : Core → Core) : (s.modMe f).cells = s.cells := rfl
@[simp] theorem State.modMe_allocAt (s : State) (f : Core → Core) : (s.modMe f).allocAt = s.allocAt := rfl
@[simp] theorem State.modMe_view (s : State) (f : Core → Core) : (s.modMe f).view = s.view := rfl
@[simp] theorem State.modMe_mtu (s : State) (f : Core → Core) : (s.modMe f).mtu = s.mtu := rfl
@[simp] theorem State.modMe_regs (s : State) (f : Core → Core) : (s.modMe f).regs = s.regs := rfl
@[simp] theorem State.modMe_mail (s : State) (f : Core → Core) : (s.modMe f).mail = s.mail := rfl
@[simp] theorem State.modMe_runs (s : State) (f : Core → Core) : (s.modMe f).runs = s.runs := rfl
@[simp] theorem State.modMe_pins (s : State) (f : Core → Core) : (s.modMe f).pins = s.pins := rfl
@[simp] theorem State.modMe_images (s : State) (f : Core → Core) : (s.modMe f).images = s.images := rfl
@[simp] theorem State.modMe_qps (s : State) (f : Core → Core) : (s.modMe f).qps = s.qps := rfl
@[simp] theorem State.modMe_cnts (s : State) (f : Core → Core) : (s.modMe f).cnts = s.cnts := rfl
@[simp] theorem State.modMe_ranks (s : State) (f : Core → Core) : (s.modMe f).ranks = s.ranks := rfl
@[simp] theorem State.modMe_helds (s : State) (f : Core → Core) : (s.modMe f).helds = s.helds := rfl
@[simp] theorem State.modMe_ended (s : State) (f : Core → Core) : (s.modMe f).ended = s.ended := rfl
@[simp] theorem State.modMe_arrivals (s : State) (f : Core → Core) : (s.modMe f).arrivals = s.arrivals := rfl
@[simp] theorem State.modMe_gov (s : State) (f : Core → Core) : (s.modMe f).gov = s.gov := rfl
@[simp] theorem State.modMe_filler (s : State) (f : Core → Core) : (s.modMe f).filler = s.filler := rfl
@[simp] theorem State.modMe_trust (s : State) (f : Core → Core) : (s.modMe f).trust = s.trust := rfl
@[simp] theorem State.modMe_flits (s : State) (f : Core → Core) : (s.modMe f).flits = s.flits := rfl
@[simp] theorem State.modMe_msix (s : State) (f : Core → Core) : (s.modMe f).msix = s.msix := rfl
@[simp] theorem State.modMe_vecMask (s : State) (f : Core → Core) : (s.modMe f).vecMask = s.vecMask := rfl
@[simp] theorem State.modMe_vecPend (s : State) (f : Core → Core) : (s.modMe f).vecPend = s.vecPend := rfl
@[simp] theorem State.modMe_outbox (s : State) (f : Core → Core) : (s.modMe f).outbox = s.outbox := rfl
@[simp] theorem State.modMe_ackHeld (s : State) (f : Core → Core) : (s.modMe f).ackHeld = s.ackHeld := rfl
@[simp] theorem State.modMe_replies (s : State) (f : Core → Core) : (s.modMe f).replies = s.replies := rfl
@[simp] theorem State.modMe_turn (s : State) (f : Core → Core) : (s.modMe f).turn = s.turn := rfl
@[simp] theorem State.modMe_ev (s : State) (f : Core → Core) : (s.modMe f).ev = s.ev := rfl
@[simp] theorem State.modMe_todo (s : State) (f : Core → Core) : (s.modMe f).todo = s.todo := rfl
@[simp] theorem State.modMe_agenda (s : State) (f : Core → Core) : (s.modMe f).agenda = s.agenda := rfl
@[simp] theorem State.modMe_inbox (s : State) (f : Core → Core) : (s.modMe f).inbox = s.inbox := rfl
@[simp] theorem State.modMe_choices (s : State) (f : Core → Core) : (s.modMe f).choices = s.choices := rfl
@[simp] theorem State.modMe_freeCtr (s : State) (f : Core → Core) : (s.modMe f).freeCtr = s.freeCtr := rfl
@[simp] theorem State.modMe_nextId (s : State) (f : Core → Core) : (s.modMe f).nextId = s.nextId := rfl
@[simp] theorem State.modMe_nbDepth (s : State) (f : Core → Core) : (s.modMe f).nbDepth = s.nbDepth := rfl
@[simp] theorem State.modMe_nbView (s : State) (f : Core → Core) : (s.modMe f).nbView = s.nbView := rfl
@[simp] theorem State.modMe_time (s : State) (f : Core → Core) : (s.modMe f).time = s.time := rfl
@[simp] theorem State.modMe_ptp (s : State) (f : Core → Core) : (s.modMe f).ptp = s.ptp := rfl
@[simp] theorem State.modMe_sent (s : State) (f : Core → Core) : (s.modMe f).sent = s.sent := rfl
@[simp] theorem State.modMe_energy (s : State) (f : Core → Core) : (s.modMe f).energy = s.energy := rfl
@[simp] theorem State.modMe_fill (s : State) (f : Core → Core) : (s.modMe f).fill = s.fill := rfl
@[simp] theorem State.modMe_work (s : State) (f : Core → Core) : (s.modMe f).work = s.work := rfl
@[simp] theorem State.modMe_pop (s : State) (f : Core → Core) : (s.modMe f).pop = s.pop := rfl

/-! ## Changes of what the same-cycle rule governs (R16) -/

@[simp] theorem Core.modVis_st (k : Core) (f : Vis → Vis) : (k.modVis f).st = k.st := rfl
@[simp] theorem Core.modVis_idleAt (k : Core) (f : Vis → Vis) : (k.modVis f).idleAt = k.idleAt := rfl
@[simp] theorem Core.modVis_phase (k : Core) (f : Vis → Vis) : (k.modVis f).phase = k.phase := rfl
@[simp] theorem Core.modVis_launch (k : Core) (f : Vis → Vis) : (k.modVis f).launch = k.launch := rfl
@[simp] theorem Core.modVis_old (k : Core) (f : Vis → Vis) : (k.modVis f).old = k.old := rfl
@[simp] theorem Core.modVis_clus (k : Core) (f : Vis → Vis) : (k.modVis f).clus = k.clus := rfl
@[simp] theorem Core.modVis_la (k : Core) (f : Vis → Vis) : (k.modVis f).la = k.la := rfl
@[simp] theorem Core.modVis_wa (k : Core) (f : Vis → Vis) : (k.modVis f).wa = k.wa := rfl
@[simp] theorem Core.modVis_v (k : Core) (f : Vis → Vis) : (k.modVis f).v = k.v := rfl
@[simp] theorem Core.modVis_m (k : Core) (f : Vis → Vis) : (k.modVis f).m = k.m := rfl
@[simp] theorem Core.modVis_b (k : Core) (f : Vis → Vis) : (k.modVis f).b = k.b := rfl
@[simp] theorem Core.modVis_rs (k : Core) (f : Vis → Vis) : (k.modVis f).rs = k.rs := rfl
@[simp] theorem Core.modVis_sc (k : Core) (f : Vis → Vis) : (k.modVis f).sc = k.sc := rfl
@[simp] theorem Core.modVis_ft (k : Core) (f : Vis → Vis) : (k.modVis f).ft = k.ft := rfl
@[simp] theorem Core.modVis_acc (k : Core) (f : Vis → Vis) : (k.modVis f).acc = k.acc := rfl
@[simp] theorem Core.modVis_shape (k : Core) (f : Vis → Vis) : (k.modVis f).shape = k.shape := rfl
@[simp] theorem Core.modVis_dq (k : Core) (f : Vis → Vis) : (k.modVis f).dq = k.dq := rfl
@[simp] theorem Core.modVis_dn (k : Core) (f : Vis → Vis) : (k.modVis f).dn = k.dn := rfl
@[simp] theorem Core.modVis_lda (k : Core) (f : Vis → Vis) : (k.modVis f).lda = k.lda := rfl
@[simp] theorem Core.modVis_imem (k : Core) (f : Vis → Vis) : (k.modVis f).imem = k.imem := rfl
@[simp] theorem Core.modVis_tile (k : Core) (f : Vis → Vis) : (k.modVis f).tile = k.tile := rfl
@[simp] theorem Core.modVis_tag (k : Core) (f : Vis → Vis) : (k.modVis f).tag = k.tag := rfl
@[simp] theorem Core.modVis_basis (k : Core) (f : Vis → Vis) : (k.modVis f).basis = k.basis := rfl
@[simp] theorem Core.modVis_bc (k : Core) (f : Vis → Vis) : (k.modVis f).bc = k.bc := rfl
@[simp] theorem Core.modVis_plb (k : Core) (f : Vis → Vis) : (k.modVis f).plb = k.plb := rfl
@[simp] theorem Core.modVis_splb (k : Core) (f : Vis → Vis) : (k.modVis f).splb = k.splb := rfl
@[simp] theorem Core.modVis_blocks (k : Core) (f : Vis → Vis) : (k.modVis f).blocks = k.blocks := rfl
@[simp] theorem Core.modVis_cpend (k : Core) (f : Vis → Vis) : (k.modVis f).cpend = k.cpend := rfl
@[simp] theorem Core.modVis_xpend (k : Core) (f : Vis → Vis) : (k.modVis f).xpend = k.xpend := rfl
@[simp] theorem Core.modVis_loads (k : Core) (f : Vis → Vis) : (k.modVis f).loads = k.loads := rfl
@[simp] theorem Core.modVis_stts (k : Core) (f : Vis → Vis) : (k.modVis f).stts = k.stts := rfl
@[simp] theorem Core.modVis_ustores (k : Core) (f : Vis → Vis) : (k.modVis f).ustores = k.ustores := rfl
@[simp] theorem Core.modVis_laccs (k : Core) (f : Vis → Vis) : (k.modVis f).laccs = k.laccs := rfl
@[simp] theorem Core.modVis_cmds (k : Core) (f : Vis → Vis) : (k.modVis f).cmds = k.cmds := rfl
@[simp] theorem Core.modVis_units (k : Core) (f : Vis → Vis) : (k.modVis f).units = k.units := rfl
@[simp] theorem Core.modVis_syncs (k : Core) (f : Vis → Vis) : (k.modVis f).syncs = k.syncs := rfl
@[simp] theorem Core.modVis_was (k : Core) (f : Vis → Vis) : (k.modVis f).was = k.was := rfl
@[simp] theorem Core.modVis_run (k : Core) (f : Vis → Vis) : (k.modVis f).run = k.run := rfl
@[simp] theorem Core.modVis_marks (k : Core) (f : Vis → Vis) : (k.modVis f).marks = k.marks := rfl
@[simp] theorem Core.modVis_seqs (k : Core) (f : Vis → Vis) : (k.modVis f).seqs = k.seqs := rfl
@[simp] theorem Core.modVis_phases (k : Core) (f : Vis → Vis) : (k.modVis f).phases = k.phases := rfl
@[simp] theorem Core.modVis_doms (k : Core) (f : Vis → Vis) : (k.modVis f).doms = k.doms := rfl
@[simp] theorem Core.modVis_switch (k : Core) (f : Vis → Vis) : (k.modVis f).switch = k.switch := rfl
@[simp] theorem Core.modVis_shadow (k : Core) (f : Vis → Vis) : (k.modVis f).shadow = k.shadow := rfl
@[simp] theorem Core.modVis_frozen (k : Core) (f : Vis → Vis) : (k.modVis f).frozen = k.frozen := rfl
@[simp] theorem Core.modVis_trap (k : Core) (f : Vis → Vis) : (k.modVis f).trap = k.trap := rfl
@[simp] theorem Core.modVis_replay (k : Core) (f : Vis → Vis) : (k.modVis f).replay = k.replay := rfl
@[simp] theorem Core.modVis_deadln (k : Core) (f : Vis → Vis) : (k.modVis f).deadln = k.deadln := rfl
@[simp] theorem Core.modVis_vis (k : Core) (f : Vis → Vis) : (k.modVis f).vis = f k.vis := rfl

/-! ## Pending steps and identifiers -/

@[simp] theorem State.at_cores (s : State) (t : Nat) (i : Instr) (e : Ev) : (s.at_ t i e).cores = s.cores := rfl
@[simp] theorem State.at_core (s : State) (t : Nat) (i : Instr) (e : Ev) (c : Fin 64) : (s.at_ t i e).core c = s.core c := rfl
@[simp] theorem State.at_me (s : State) (t : Nat) (i : Instr) (e : Ev) : (s.at_ t i e).me = s.me := rfl
@[simp] theorem State.at_turn (s : State) (t : Nat) (i : Instr) (e : Ev) : (s.at_ t i e).turn = s.turn := rfl
@[simp] theorem State.at_mem (s : State) (t : Nat) (i : Instr) (e : Ev) : (s.at_ t i e).mem = s.mem := rfl
@[simp] theorem State.first_core (s : State) (t : Nat) (i : Instr) (e : Ev) (c : Fin 64) : (s.first t i e).core c = s.core c := rfl
@[simp] theorem State.first_me (s : State) (t : Nat) (i : Instr) (e : Ev) : (s.first t i e).me = s.me := rfl
@[simp] theorem State.first_turn (s : State) (t : Nat) (i : Instr) (e : Ev) : (s.first t i e).turn = s.turn := rfl
@[simp] theorem State.first_mem (s : State) (t : Nat) (i : Instr) (e : Ev) : (s.first t i e).mem = s.mem := rfl
@[simp] theorem State.later_core (s : State) (a b : Nat) (i : Instr) (e : Ev) (c : Fin 64) : (s.later a b i e).core c = s.core c := rfl
@[simp] theorem State.later_me (s : State) (a b : Nat) (i : Instr) (e : Ev) : (s.later a b i e).me = s.me := rfl
@[simp] theorem State.later_turn (s : State) (a b : Nat) (i : Instr) (e : Ev) : (s.later a b i e).turn = s.turn := rfl
@[simp] theorem State.later_mem (s : State) (a b : Nat) (i : Instr) (e : Ev) : (s.later a b i e).mem = s.mem := rfl
@[simp] theorem State.bump_core (s : State) (c : Fin 64) : s.bump.core c = s.core c := rfl
@[simp] theorem State.bump_me (s : State) : s.bump.me = s.me := rfl
@[simp] theorem State.bump_turn (s : State) : s.bump.turn = s.turn := rfl
@[simp] theorem State.bump_mem (s : State) : s.bump.mem = s.mem := rfl
@[simp] theorem State.chosen_core (s : State) (c : Fin 64) : s.chosen.core c = s.core c := rfl
@[simp] theorem State.chosen_me (s : State) : s.chosen.me = s.me := rfl
@[simp] theorem State.chosen_turn (s : State) : s.chosen.turn = s.turn := rfl
@[simp] theorem State.addCmd_me (s : State) (c : Cmd) : (s.addCmd c).me = { s.me with cmds := s.me.cmds ++ [c] } := by
  simp [State.addCmd]
@[simp] theorem State.addCmd_turn (s : State) (c : Cmd) : (s.addCmd c).turn = s.turn := rfl

/-! ## Registers (R14, R16) -/

@[simp] theorem Vis.rg_zero (v : Vis) : v.rg 0 = 0 := rfl
@[simp] theorem Vis.wg_zero (v : Vis) (x : Dword) : v.wg 0 x = v := rfl

theorem Vis.rg_wg (v : Vis) (d r : Fin 64) (x : Dword) : (v.wg d x).rg r = if r = d ∧ d ≠ 0 then x else v.rg r := by
  by_cases hd : d = 0
  · subst hd; simp
  · by_cases hr : r = d
    · subst hr; simp [Vis.rg, Vis.wg, hd]
    · have : d.val ≠ r.val := fun e => hr (Fin.ext e.symm)
      simp [Vis.rg, Vis.wg, hd, hr, this]

@[simp] theorem State.wg_me (s : State) (d : Fin 64) (x : Dword) : (s.wg d x).me = s.me.modVis (·.wg d x) := s.me_modMe _
@[simp] theorem State.wg_turn (s : State) (d : Fin 64) (x : Dword) : (s.wg d x).turn = s.turn := rfl
@[simp] theorem State.wg_mem (s : State) (d : Fin 64) (x : Dword) : (s.wg d x).mem = s.mem := rfl

/-- A word of this cycle reads what stood at its start (R16). -/
@[simp] theorem State.wg_rg (s : State) (d r : Fin 64) (x : Dword) : (s.wg d x).rg r = s.rg r := by simp [State.rg]

end Sys2Proof.Machine
end

