-- ==== Sys2Proof/Laws/Issue.lean ====
section
/-!
SUPPORT. What issuing a word does, said once: the state it answers, and what that state keeps.
-/

namespace Sys2Proof.Machine

@[simp] theorem State.clu_modMe (s : State) (f : Core → Core) : (s.modMe f).clu = (f s.me).clus[clIx s.turn.cl] := by
  simp [State.clu]

@[simp] theorem State.csr_modMe (s : State) (f : Core → Core) : (s.modMe f).csr = (f s.me).old.csr := by simp [State.csr]

@[simp] theorem State.rg_modMe (s : State) (f : Core → Core) (r : Fin 64) : (s.modMe f).rg r = (f s.me).old.rg r := by
  simp [State.rg]

/-- A word whose effect leaves its cluster and what it reads alone issues with that effect. -/
theorem State.issued_of (s : State) (u : Cluster) (f : State → State) (h : s.goesTo u) (hc : (f s).clu = s.clu)
    (hr : (f s).csr = s.csr) : s.issued f = (f s).settle u 0 := by
  unfold State.issued State.issuedFrom
  rw [hc, hr, h]

/-- A word that changes its own core alone, and of it neither the clusters nor what stood at the start of the cycle. -/
theorem State.issued_modMe (s : State) (u : Cluster) (f : Core → Core) (h : s.goesTo u) (hc : (f s.me).clus = s.me.clus)
    (ho : (f s.me).old = s.me.old) : s.issued (·.modMe f) = (s.modMe f).settle u 0 :=
  s.issued_of u _ h (by simp [hc, State.clu]) (by simp [ho, State.csr])

/-- A word with no effect of its own. -/
theorem State.issued_id (s : State) (u : Cluster) (h : s.goesTo u) : s.issued id = s.settle u 0 :=
  s.issued_of u id h rfl rfl

/-- A word whose one effect is a result for gd (R93). -/
theorem alu_next (s : State) (u : Cluster) (d : Fin 64) (x : Dword) (h : s.goesTo u) :
    alu d x s = .next ((s.wg d x).settle u 0) := by
  unfold alu
  rw [s.issued_of u _ h (by simp [State.clu]) (by simp [State.csr])]

/-- Past word 0xFFFF a word traps and has no effect (R12). -/
theorem State.issued_none (s : State) (f : State → State) (h : (f s).clu.next (f s).csr.req = none) :
    s.issued f = s.illegal := by
  unfold State.issued State.issuedFrom
  rw [h]

/-- Issuing sets the link counters, the cluster and the queue's count of the issuing core. -/
theorem State.settle_me (s : State) (u : Cluster) (n : Nat) : (s.settle u n).me =
    { s.me with
      vis := linkApply s.turn.hdr.link s.turn.cl s.me.vis
      clus := s.me.clus.set (clIx s.turn.cl) { u with nextAt := s.zc + 1 + n }
      seqs := s.me.seqs.set (clIx s.turn.cl).val (s.me.seqs[(clIx s.turn.cl).val] + 1) } := by
  simp [State.settle]

theorem State.settle_core_ne (s : State) (u : Cluster) (n : Nat) (c : Fin 64) (h : c ≠ s.turn.core) :
    (s.settle u n).core c = s.core c := s.core_modMe_ne _ c h

@[simp] theorem State.settle_mem (s : State) (u : Cluster) (n : Nat) : (s.settle u n).mem = s.mem := rfl
@[simp] theorem State.settle_turn (s : State) (u : Cluster) (n : Nat) : (s.settle u n).turn = s.turn := rfl
@[simp] theorem State.settle_agenda (s : State) (u : Cluster) (n : Nat) : (s.settle u n).agenda = s.agenda := rfl

/-- The link bits change ring counters alone (R78). -/
theorem linkApply_ring (l : Link) (cl : Cl) (v : Vis) (r : Vector (BitVec 4) 8) (h : r = v.ring) :
    { linkApply l cl v with ring := r } = v := by
  subst h; rfl

end Sys2Proof.Machine
end

