-- ==== Sys2Proof/Laws/Memory.lean ====
section
/-!
SUPPORT. The laws of sparse tables and of device memory: a read after a write, what a write leaves alone, and that every
operation keeps the canonical form; the lengths of byte lists and digests.
-/

namespace Sys2Proof.Machine

/-! ## Sparse tables -/

/-- Every key of a table is at least `k`. -/
def From {α : Type} (k : Nat) (m : Sparse α) : Prop := ∀ x ∈ m, k ≤ x.1

theorem rising_tail {α : Type} {x : Nat × α} {m : Sparse α} (h : Rising (x :: m)) : Rising m := by
  unfold Rising at *; exact (List.pairwise_cons.1 h).2

theorem rising_head {α : Type} {x : Nat × α} {m : Sparse α} (h : Rising (x :: m)) : From (x.1 + 1) m := by
  unfold Rising at h; exact fun y hy => (List.pairwise_cons.1 h).1 y hy

theorem rising_cons {α : Type} {x : Nat × α} {m : Sparse α} (h : From (x.1 + 1) m) (r : Rising m) : Rising (x :: m) := by
  unfold Rising at *; exact List.pairwise_cons.2 ⟨fun y hy => h y hy, r⟩

/-- A key below every key of a table is absent. -/
theorem sget_below {α : Type} {k : Nat} {m : Sparse α} (h : From (k + 1) m) : sget k m = none := by
  cases m with
  | nil => rfl
  | cons x r =>
    have := h x (by simp)
    simp [sget, show x.1 ≠ k by omega, show k < x.1 by omega]

/-- A key that was set reads as what was put there. -/
theorem sget_sput {α : Type} (k : Nat) (v : α) (m : Sparse α) : sget k (sput k v m) = some v := by
  induction m with
  | nil => simp [sput, sget]
  | cons x r ih =>
    by_cases h : x.1 < k
    · simp [sput, sget, h, ih, show x.1 ≠ k by omega, show ¬k < x.1 by omega]
    · by_cases e : x.1 = k <;> simp [sput, sget, h, e]

/-- Setting a key leaves every other key alone. -/
theorem sget_sput_ne {α : Type} {j k : Nat} (v : α) (m : Sparse α) (h : j ≠ k) : sget j (sput k v m) = sget j m := by
  induction m with
  | nil => by_cases l : j < k <;> simp [sput, sget, h.symm, l]
  | cons x r ih =>
    by_cases l : x.1 < k
    · simp [sput, sget, l, ih]
    · by_cases e : x.1 = k
      · simp [sput, sget, e, h.symm]
      · by_cases q : j < k
        · simp [sput, sget, l, e, h.symm, q, show x.1 ≠ j by omega, show j < x.1 by omega]
        · simp [sput, sget, l, e, h.symm, q]

theorem from_sput {α : Type} {j k : Nat} {v : α} {m : Sparse α} (h : From j m) (hk : j ≤ k) : From j (sput k v m) := by
  induction m with
  | nil => intro x hx; simp [sput] at hx; subst hx; exact hk
  | cons x r ih =>
    have hr : From j r := fun y hy => h y (by simp [hy])
    intro y hy
    unfold sput at hy
    split at hy
    · rcases List.mem_cons.1 hy with rfl | hy
      · exact h _ (by simp)
      · exact ih hr y hy
    · split at hy
      · rcases List.mem_cons.1 hy with rfl | hy
        · exact hk
        · exact hr y hy
      · rcases List.mem_cons.1 hy with rfl | hy
        · exact hk
        · exact h y hy

/-- Setting a key keeps the keys rising. -/
theorem rising_sput {α : Type} {k : Nat} {v : α} {m : Sparse α} (h : Rising m) : Rising (sput k v m) := by
  induction m with
  | nil => simp [sput, Rising]
  | cons x r ih =>
    have hx := rising_head h
    have hr := rising_tail h
    unfold sput
    split
    · exact rising_cons (from_sput hx (by omega)) (ih hr)
    · split
      · next e => exact rising_cons (by rw [← e]; exact hx) hr
      · refine rising_cons (fun y hy => ?_) h
        rcases List.mem_cons.1 hy with rfl | hy
        · show k + 1 ≤ _; omega
        · have := hx y hy; show k + 1 ≤ _; omega

theorem sdel_sublist {α : Type} (k : Nat) (m : Sparse α) : (sdel k m).Sublist m := by
  induction m with
  | nil => exact List.Sublist.slnil
  | cons x r ih =>
    unfold sdel
    split
    · exact List.sublist_cons_self x r
    · exact ih.cons_cons x

/-- Removing a key keeps the keys rising. -/
theorem rising_sdel {α : Type} {k : Nat} {m : Sparse α} (h : Rising m) : Rising (sdel k m) := by
  unfold Rising at *; exact h.sublist (sdel_sublist k m)

/-- A removed key is absent. -/
theorem sget_sdel {α : Type} {k : Nat} {m : Sparse α} (h : Rising m) : sget k (sdel k m) = none := by
  induction m with
  | nil => rfl
  | cons x r ih =>
    unfold sdel
    split
    · next e => exact sget_below (by rw [← e]; exact rising_head h)
    · next e =>
      unfold sget
      rw [if_neg e]
      split
      · rfl
      · exact ih (rising_tail h)

/-- Removing a key leaves every other key alone. -/
theorem sget_sdel_ne {α : Type} {j k : Nat} {m : Sparse α} (h : Rising m) (hj : j ≠ k) : sget j (sdel k m) = sget j m := by
  induction m with
  | nil => rfl
  | cons x r ih =>
    unfold sdel
    split
    · next e =>
      have hx := rising_head h
      by_cases l : j < x.1
      · rw [sget_below fun y hy => by have := hx y hy; omega]
        simp [sget, l, show x.1 ≠ j by omega]
      · simp [sget, l, show x.1 ≠ j by omega]
    · simp [sget, ih (rising_tail h)]

/-- Setting a key of a table with a blank keeps the keys rising. -/
theorem rising_sset {α : Type} [DecidableEq α] {z : α} {k : Nat} {v : α} {m : Sparse α} (h : Rising m) :
    Rising (sset z k v m) := by
  unfold sset; split
  · exact rising_sdel h
  · exact rising_sput h

/-- A key that was set reads as what was put there. -/
theorem srd_sset {α : Type} [DecidableEq α] {z : α} {k : Nat} {v : α} {m : Sparse α} (h : Rising m) :
    srd z k (sset z k v m) = v := by
  unfold srd sset; split
  · next e => simp [sget_sdel h, e]
  · simp [sget_sput]

/-- Setting a key leaves what every other key reads as. -/
theorem srd_sset_ne {α : Type} [DecidableEq α] {z : α} {j k : Nat} {v : α} {m : Sparse α} (h : Rising m) (hj : j ≠ k) :
    srd z j (sset z k v m) = srd z j m := by
  unfold srd sset; split
  · rw [sget_sdel_ne h hj]
  · rw [sget_sput_ne v m hj]

theorem mem_sput {α : Type} {k : Nat} {v : α} {m : Sparse α} {x : Nat × α} (h : x ∈ sput k v m) : x = (k, v) ∨ x ∈ m := by
  induction m with
  | nil => simpa [sput] using h
  | cons y r ih =>
    unfold sput at h
    split at h
    · rcases List.mem_cons.1 h with rfl | h
      · simp
      · rcases ih h with h | h <;> simp [h]
    · split at h <;> rcases List.mem_cons.1 h with h | h <;> simp_all

/-! ## Memory -/

/-- The canonical form: addresses rise, and no entry equals what an unlisted address reads as. -/
theorem Memory.wf_iff (m : Memory) : Memory.wf m = true ↔ Rising m ∧ ∀ c ∈ m, c.2 ≠ Memory.blank := by
  induction m with
  | nil => simp [Memory.wf, Rising]
  | cons c r ih =>
    cases r with
    | nil => simp [Memory.wf, Rising]
    | cons d r =>
      simp only [Memory.wf, Bool.and_eq_true, bne_iff_ne, decide_eq_true_eq, ih]
      constructor
      · rintro ⟨⟨hc, hl⟩, hr, hb⟩
        refine ⟨rising_cons (fun y hy => ?_) hr, ?_⟩
        · rcases List.mem_cons.1 hy with rfl | hy
          · exact hl
          · have := rising_head hr y hy; show c.1 + 1 ≤ y.1; omega
        · intro x hx
          rcases List.mem_cons.1 hx with rfl | hx
          · exact hc
          · exact hb x hx
      · rintro ⟨hr, hb⟩
        exact ⟨⟨hb c (by simp), rising_head hr d (by simp)⟩, rising_tail hr, fun x hx => hb x (by simp [List.mem_cons.1 hx])⟩

theorem Memory.rising {m : Memory} (h : Memory.wf m = true) : Rising m := ((Memory.wf_iff m).1 h).1

/-- Writing a byte keeps the canonical form. -/
theorem Memory.wf_setByte {m : Memory} (a : Nat) (b : Byte) (h : Memory.wf m = true) : Memory.wf (m.setByte a b) = true := by
  rw [Memory.wf_iff] at *
  refine ⟨rising_sset h.1, ?_⟩
  intro c hc
  unfold Memory.setByte sset at hc
  split at hc
  · exact h.2 c ((sdel_sublist a m).subset hc)
  · next e =>
    rcases mem_sput hc with rfl | hc
    · exact e
    · exact h.2 c hc

/-- A byte written reads as the value written. -/
theorem Memory.byte_setByte {m : Memory} (a : Nat) (b : Byte) (h : Memory.wf m = true) : (m.setByte a b).byte a = b :=
  srd_sset (Memory.rising h)

/-- Writing a byte leaves every other byte alone. -/
theorem Memory.byte_setByte_ne {m : Memory} {x a : Nat} (b : Byte) (h : Memory.wf m = true) (hx : x ≠ a) :
    (m.setByte a b).byte x = m.byte x := srd_sset_ne (Memory.rising h) hx

/-- Writing bytes keeps the canonical form. -/
theorem Memory.wf_write {m : Memory} (a x n : Nat) (h : Memory.wf m = true) : Memory.wf (m.write a x n) = true := by
  induction n generalizing m a x with
  | zero => exact h
  | succ n ih => exact ih _ _ (Memory.wf_setByte _ _ h)

/-- Writing bytes leaves every byte outside them alone. -/
theorem Memory.byte_write_ne {m : Memory} {y : Nat} (a x n : Nat) (h : Memory.wf m = true) (hy : y < a ∨ a + n ≤ y) :
    (m.write a x n).byte y = m.byte y := by
  induction n generalizing m a x with
  | zero => rfl
  | succ n ih =>
    rw [Memory.write, ih _ _ (Memory.wf_setByte _ _ h) (by omega), Memory.byte_setByte_ne _ h (by omega)]

/-- Writing under a mask keeps the canonical form. -/
theorem Memory.wf_writeMask {m : Memory} (a x k n : Nat) (h : Memory.wf m = true) :
    Memory.wf (m.writeMask a x k n) = true := by
  induction n generalizing m a x k with
  | zero => exact h
  | succ n ih =>
    rw [Memory.writeMask]
    exact ih _ _ _ (by split; exacts [Memory.wf_setByte _ _ h, h])

/-- Writing under a mask leaves every byte outside the range alone. -/
theorem Memory.byte_writeMask_ne {m : Memory} {y : Nat} (a x k n : Nat) (h : Memory.wf m = true)
    (hy : y < a ∨ a + n ≤ y) : (m.writeMask a x k n).byte y = m.byte y := by
  induction n generalizing m a x k with
  | zero => rfl
  | succ n ih =>
    rw [Memory.writeMask, ih _ _ _ (by split; exacts [Memory.wf_setByte _ _ h, h]) (by omega)]
    split
    · exact Memory.byte_setByte_ne _ h (by omega)
    · rfl

/-- What was written reads back. -/
theorem Memory.read_write {m : Memory} (a x n : Nat) (h : Memory.wf m = true) : (m.write a x n).read a n = x % 256 ^ n := by
  suffices H : ∀ (n : Nat) (m : Memory) (a x : Nat), Memory.wf m = true →
      ∀ m' : Memory, (∀ y, a ≤ y → y < a + n → m'.byte y = (m.write a x n).byte y) → m'.read a n = x % 256 ^ n by
    exact H n m a x h _ fun _ _ _ => rfl
  intro n
  induction n with
  | zero => intros; simp [Memory.read, Nat.mod_one]
  | succ n ih =>
    intro m a x h m' hm
    have h1 := Memory.wf_setByte a (BitVec.ofNat 8 x) h
    have hb : m'.byte a = BitVec.ofNat 8 x := by
      rw [hm a le_rfl (by omega), Memory.write, Memory.byte_write_ne _ _ _ h1 (by omega), Memory.byte_setByte _ _ h]
    rw [Memory.read, hb, ih _ (a + 1) (x / 256) h1 m' fun y l u => by rw [hm y (by omega) (by omega), Memory.write]]
    rw [BitVec.toNat_ofNat, pow_succ' 256 n, Nat.mod_mul]

/-- The bytes of a number are as many as asked for. -/
@[simp] theorem natBytes_length (n x : Nat) : (natBytes n x).length = n := by
  induction n generalizing x with
  | zero => rfl
  | succ n ih => simp [natBytes, ih]

/-- A digest has 32 bytes (R376). -/
@[simp] theorem digestOf_length (b : List Byte) : (digestOf b).length = 32 := natBytes_length 32 _

/-- Memory after reset is in canonical form. -/
theorem reset_memory_wf : Memory.wf State.reset.mem = true := rfl

end Sys2Proof.Machine
end

