-- ==== Sys2Proof/Laws/Paths.lean ====
section
/-!
SUPPORT. What the operations on translations, home and memory may do, said once: each keeps every core, the turn and the count,
and the canonical form of memory.
-/

namespace Sys2Proof.Machine

/-- What a memory path keeps: the cores, the turn, the count, the launches and the canonical form of memory. -/
structure PathKeeps (s t : State) : Prop where
  cores : t.cores = s.cores
  turn : t.turn = s.turn
  zc : t.zc = s.zc
  ev : t.ev = s.ev
  runs : t.runs = s.runs
  wf : Memory.wf s.mem = true → Memory.wf t.mem = true

theorem PathKeeps.refl (s : State) : PathKeeps s s := ⟨rfl, rfl, rfl, rfl, rfl, id⟩

theorem PathKeeps.trans {s t u : State} (h : PathKeeps s t) (g : PathKeeps t u) : PathKeeps s u :=
  ⟨g.cores.trans h.cores, g.turn.trans h.turn, g.zc.trans h.zc, g.ev.trans h.ev, g.runs.trans h.runs, g.wf ∘ h.wf⟩

theorem PathKeeps.core {s t : State} (h : PathKeeps s t) (c : Fin 64) : t.core c = s.core c := by
  unfold State.core; rw [h.cores]

theorem PathKeeps.me {s t : State} (h : PathKeeps s t) : t.me = s.me := by
  unfold State.me; rw [h.turn, h.core]

/-- A fold of memory paths is one. -/
theorem PathKeeps.fold {α β : Type} (f : State × β → α → State × β) (h : ∀ x a, PathKeeps x.1 (f x a).1) (l : List α)
    (x : State × β) : PathKeeps x.1 (l.foldl f x).1 := by
  induction l generalizing x with
  | nil => exact .refl _
  | cons a r ih => exact (h x a).trans (ih _)

theorem modMtu_keeps (s : State) (d : Fin 4) (f : Mtu → Mtu) : PathKeeps s (s.modMtu d f) := ⟨rfl, rfl, rfl, rfl, rfl, id⟩

theorem mem_keeps (s : State) (m : Memory) (h : Memory.wf s.mem = true → Memory.wf m = true) :
    PathKeeps s { s with mem := m } := ⟨rfl, rfl, rfl, rfl, rfl, h⟩

theorem regs_keeps (s : State) (g : HostRegs) : PathKeeps s { s with regs := g } := ⟨rfl, rfl, rfl, rfl, rfl, id⟩

/-- A vector is sent or waits (R382). -/
theorem msi_keeps (s : State) (v : Nat) : PathKeeps s (s.msi v) := by
  unfold State.msi
  split <;> exact ⟨rfl, rfl, rfl, rfl, rfl, id⟩

theorem home_keeps (s : State) (ls : List Line) : PathKeeps s { s with home := ls } := ⟨rfl, rfl, rfl, rfl, rfl, id⟩

theorem at_keeps (s : State) (t : Nat) (i : Instr) (e : Ev) : PathKeeps s (s.at_ t i e) := ⟨rfl, rfl, rfl, rfl, rfl, id⟩

theorem setOwner_keeps (s : State) (f : Nat) (o : Owner) : PathKeeps s (s.setOwner f o) := modMtu_keeps _ _ _

theorem installLeaf_keeps {s t : State} {cid : BitVec 12} {page : Nat} {l : Leaf} (h : s.installLeaf cid page l = some t) :
    PathKeeps s t := by
  unfold State.installLeaf at h
  suffices H : ∀ (xs : List (Nat × Nat)) (u : State), PathKeeps s u →
      xs.foldl (fun acc x => acc.bind fun t : State =>
        (Owner.install (t.owner x.1) cid x.2 l.w l.unc).map fun o => t.setOwner x.1 o) (some u) = some t → PathKeeps s t by
    exact H _ s (.refl s) h
  intro xs
  induction xs with
  | nil => intro u hu e; simp at e; subst e; exact hu
  | cons x r ih =>
    intro u hu e
    rw [List.foldl_cons] at e
    cases o : Owner.install (u.owner x.1) cid x.2 l.w l.unc with
    | none =>
      simp only [Option.bind_some, o, Option.map_none] at e
      have : ∀ ys : List (Nat × Nat), ys.foldl (fun acc x => acc.bind fun t : State =>
        (Owner.install (t.owner x.1) cid x.2 l.w l.unc).map fun o => t.setOwner x.1 o) none = none := by
        intro ys; induction ys with
        | nil => rfl
        | cons y q ih => simpa using ih
      rw [this] at e; simp at e
    | some o' =>
      simp only [Option.bind_some, o, Option.map_some] at e
      exact ih _ (hu.trans (setOwner_keeps _ _ _)) e

/-- A translation changes MTU state alone (R308, R310). -/
theorem xlate_keeps (s : State) (cid : BitVec 12) (page : Nat) : PathKeeps s (s.xlate cid page).1 := by
  unfold State.xlate
  dsimp only
  split
  · exact .refl s
  · split
    · exact .refl s
    · split
      · exact .refl s
      · next h =>
        refine (installLeaf_keeps h).trans ?_
        dsimp only
        exact modMtu_keeps _ _ _

/-- A record is written to memory, and the ring's registers step (R312). -/
theorem record_keeps (s : State) (r : Rec) : PathKeeps s (s.record r) := by
  unfold State.record
  dsimp only
  split
  · split
    · exact ⟨rfl, rfl, rfl, rfl, rfl, id⟩
    · refine PathKeeps.trans ?_ (msi_keeps _ 0)
      exact ⟨rfl, rfl, rfl, rfl, rfl, fun h => Memory.wf_write _ _ _ h⟩
  · exact .refl s

/-- The end of a context is put on the agenda (R316). -/
theorem endCtxNote_keeps (s : State) (cid : BitVec 12) (code : Nat) (die : Fin 8) (note : List Nat) :
    PathKeeps s (s.endCtxNote cid code die note) := by
  unfold State.endCtxNote
  dsimp only
  split
  · exact .refl s
  · exact (at_keeps _ _ _ _).trans (at_keeps _ _ _ _)

theorem lateFault_keeps (s : State) (l : Line) : PathKeeps s (s.lateFault l) := by
  unfold State.lateFault
  dsimp only
  refine PathKeeps.trans ?_ (endCtxNote_keeps _ _ _ _ _)
  refine PathKeeps.trans ?_ (record_keeps _ _)
  split
  · exact modMtu_keeps _ _ _
  · exact .refl s

theorem markDirty_keeps (s : State) (frame va : Nat) : PathKeeps s (s.markDirty frame va) := modMtu_keeps _ _ _

/-- A write-back reaches memory or parks (R268, R315). -/
theorem writeBack_keeps (s : State) (l : Line) : PathKeeps s (s.writeBack l) := by
  unfold State.writeBack
  dsimp only
  have h := xlate_keeps s l.cid (l.la * 128 / 2 ^ 21)
  split
  · next e =>
    rw [e] at h
    refine h.trans (PathKeeps.trans ?_ (markDirty_keeps _ _ _))
    exact mem_keeps _ _ fun h => Memory.wf_writeMask _ _ _ _ h
  · next e =>
    rw [e] at h
    exact h.trans (lateFault_keeps _ _)

theorem evictHome_keeps (s : State) (cid : BitVec 12) (la : Nat) : PathKeeps s (s.evictHome cid la) := by
  unfold State.evictHome
  split
  · exact .refl s
  · dsimp only
    split
    · exact home_keeps s _
    · exact (home_keeps s _).trans (writeBack_keeps _ _)

theorem chosen_keeps (s : State) : PathKeeps s s.chosen := ⟨rfl, rfl, rfl, rfl, rfl, id⟩

/-- A copy put at home may make another leave (R266, R268). -/
theorem putHome_keeps (s : State) (l : Line) : PathKeeps s (s.putHome l) := by
  unfold State.putHome
  dsimp only
  split
  · exact home_keeps s _
  · exact (home_keeps s _).trans ((chosen_keeps _).trans (evictHome_keeps _ _ _))

theorem mergeHome_keeps (s : State) (l : Line) : PathKeeps s (s.mergeHome l) := putHome_keeps _ _

/-- Reading home fills a copy and translates (R266, R308). -/
theorem homeLine_keeps (s : State) (cid : BitVec 12) (la : Nat) (need : BitVec 128) :
    PathKeeps s (s.homeLine cid la need).1 := by
  unfold State.homeLine
  dsimp only
  have h := xlate_keeps s cid (la * 128 / 2 ^ 21)
  split
  · exact .refl s
  · split
    · next e =>
      rw [e] at h
      split
      · exact h
      · exact h.trans (putHome_keeps _ _)
    · next e =>
      rw [e] at h
      exact h

theorem homeWrite_keeps (s : State) (cid : BitVec 12) (la o k x : Nat) (stamp : BitVec 48) :
    PathKeeps s (s.homeWrite cid la o k x stamp) := putHome_keeps _ _

theorem enginePage_keeps (s : State) (cid : BitVec 12) (va : Nat) (wr : Bool) :
    PathKeeps s (s.enginePage cid va wr).1 := by
  unfold State.enginePage
  have h := xlate_keeps s cid (va / 2 ^ 21)
  split
  · exact .refl s
  · split
    · exact .refl s
    · split
      · next e => rw [e] at h; split <;> split <;> exact h
      · next e => rw [e] at h; exact h
      · next e => rw [e] at h; exact h

/-- An engine's read keeps every core and memory's form (R218). -/
theorem engineRead_keeps (s : State) (cid : BitVec 12) (a n : Nat) : PathKeeps s (s.engineRead cid a n).1 := by
  unfold State.engineRead
  refine PathKeeps.fold _ (fun x p => ?_) _ (s, Sum.inl 0)
  obtain ⟨u, e | e⟩ := x
  · obtain ⟨la, o, k, b⟩ := p
    dsimp only
    have h := enginePage_keeps u cid (la * 128) false
    split
    · next e => rw [e] at h; exact h
    · next e =>
      rw [e] at h
      split
      · exact h
      · split
        all_goals
          next q =>
            refine h.trans ?_
            have g := congrArg Prod.fst q
            exact g ▸ homeLine_keeps _ cid la (spanMask o k)
  · exact .refl u

/-- An engine's write keeps every core and memory's form (R218). -/
theorem engineWrite_keeps (s : State) (cid : BitVec 12) (a n x : Nat) (stamp : BitVec 48) :
    PathKeeps s (s.engineWrite cid a n x stamp).1 := by
  unfold State.engineWrite
  refine PathKeeps.fold _ (fun y p => ?_) _ (s, Sum.inl 0)
  obtain ⟨u, e | e⟩ := y
  · obtain ⟨la, o, k, b⟩ := p
    dsimp only
    have h := enginePage_keeps u cid (la * 128) true
    split
    · next e => rw [e] at h; exact h
    · next e =>
      rw [e] at h
      split
      · exact h.trans (mem_keeps _ _ fun h => Memory.wf_write _ _ _ h)
      · exact h.trans (homeWrite_keeps _ _ _ _ _ _ _)
  · exact .refl u

/-! ## The caches of a core -/

/-- What a path through the caches of core `c` keeps: every other core, the turn, the count, the launches and the canonical form
of memory. -/
structure CacheKeeps (c : Fin 64) (s t : State) : Prop where
  others : ∀ d, d ≠ c → t.core d = s.core d
  turn : t.turn = s.turn
  zc : t.zc = s.zc
  ev : t.ev = s.ev
  runs : t.runs = s.runs
  wf : Memory.wf s.mem = true → Memory.wf t.mem = true

theorem PathKeeps.cache {s t : State} (h : PathKeeps s t) (c : Fin 64) : CacheKeeps c s t :=
  ⟨fun d _ => h.core d, h.turn, h.zc, h.ev, h.runs, h.wf⟩

theorem CacheKeeps.refl (c : Fin 64) (s : State) : CacheKeeps c s s := (PathKeeps.refl s).cache c

theorem CacheKeeps.trans {c : Fin 64} {s t u : State} (h : CacheKeeps c s t) (g : CacheKeeps c t u) : CacheKeeps c s u :=
  ⟨fun d hd => (g.others d hd).trans (h.others d hd), g.turn.trans h.turn, g.zc.trans h.zc, g.ev.trans h.ev,
    g.runs.trans h.runs, g.wf ∘ h.wf⟩

theorem modCore_cache (s : State) (c : Fin 64) (f : Core → Core) : CacheKeeps c s (s.modCore c f) :=
  ⟨fun d hd => s.core_modCore_ne c d f hd, rfl, rfl, rfl, rfl, id⟩

theorem setRdc_keeps (s : State) (z : Fin 2) (ls : List Line) : PathKeeps s (s.setRdc z ls) :=
  ⟨rfl, rfl, rfl, rfl, rfl, id⟩

theorem cleanRdc_keeps (s : State) (z : Fin 2) (cid : BitVec 12) (la : Nat) : PathKeeps s (s.cleanRdc z cid la) := by
  unfold State.cleanRdc
  split
  · exact .refl s
  · dsimp only
    split
    · exact .refl s
    · exact (mergeHome_keeps _ _).trans (setRdc_keeps _ _ _)

theorem dropRdc_keeps (s : State) (z : Fin 2) (cid : BitVec 12) (la : Nat) : PathKeeps s (s.dropRdc z cid la) :=
  setRdc_keeps _ _ _

/-- A copy put in an RDC may make another leave (R266, R268). -/
theorem putRdc_keeps (s : State) (z : Fin 2) (l : Line) : PathKeeps s (s.putRdc z l) := by
  unfold State.putRdc
  dsimp only
  split
  · exact setRdc_keeps _ _ _
  · exact (setRdc_keeps _ _ _).trans ((chosen_keeps _).trans ((cleanRdc_keeps _ _ _ _).trans (dropRdc_keeps _ _ _ _)))

theorem mergeRdc_keeps (s : State) (z : Fin 2) (l : Line) : PathKeeps s (s.mergeRdc z l) := putRdc_keeps _ _ _

/-- A clean of the block cache touches its core and what lies below (R176). -/
theorem cleanBlock_cache (s : State) (c : Fin 64) (cid : BitVec 12) (la : Nat) : CacheKeeps c s (s.cleanBlock c cid la) := by
  unfold State.cleanBlock
  split
  · exact .refl c s
  · split
    · exact .refl c s
    · exact ((mergeRdc_keeps _ _ _).cache c).trans (modCore_cache _ _ _)

theorem dropBlock_cache (s : State) (c : Fin 64) (cid : BitVec 12) (la : Nat) : CacheKeeps c s (s.dropBlock c cid la) :=
  modCore_cache _ _ _

/-- A fold of paths through the caches of a core is one. -/
theorem CacheKeeps.fold {α : Type} {c : Fin 64} (f : State → α → State) (h : ∀ s a, CacheKeeps c s (f s a)) (l : List α)
    (s : State) : CacheKeeps c s (l.foldl f s) := by
  induction l generalizing s with
  | nil => exact .refl c s
  | cons a r ih => exact (h s a).trans (ih _)

theorem evictBlock_cache (s : State) (c : Fin 64) (b : Block) : CacheKeeps c s (s.evictBlock c b) := by
  unfold State.evictBlock
  dsimp only
  exact (CacheKeeps.fold _ (fun s i => (cleanBlock_cache s c _ _).trans (dropBlock_cache _ _ _ _)) _ _).trans
    (modCore_cache _ _ _)

theorem evictLine_cache (s : State) (c : Fin 64) (cid : BitVec 12) (la : Nat) : CacheKeeps c s (s.evictLine c cid la) := by
  unfold State.evictLine
  split
  · exact evictBlock_cache _ _ _
  · exact (cleanBlock_cache _ _ _ _).trans (dropBlock_cache _ _ _ _)

/-- A line that takes a way may make another leave (R168, R266). -/
theorem makeRoom_cache (s : State) (c : Fin 64) (cid : BitVec 12) (la : Nat) :
    CacheKeeps c s (s.makeRoom c cid la) := by
  unfold State.makeRoom
  dsimp only
  split
  · exact .refl c s
  · exact ((chosen_keeps s).cache c).trans (evictLine_cache _ _ _ _)

theorem putBlock_cache (s : State) (c : Fin 64) (l : Line) : CacheKeeps c s (s.putBlock c l) :=
  (modCore_cache _ _ _).trans (makeRoom_cache _ _ _ _)

theorem cleanHome_keeps (s : State) (cid : BitVec 12) (la : Nat) : PathKeeps s (s.cleanHome cid la) := by
  unfold State.cleanHome
  split
  · exact .refl s
  · split
    · exact .refl s
    · have h := xlate_keeps s cid (la * 128 / 2 ^ 21)
      split
      · next e => rw [e] at h; exact h.trans ((home_keeps _ _).trans (writeBack_keeps _ _))
      · next e => rw [e] at h; exact h.trans ((home_keeps _ _).trans (lateFault_keeps _ _))

theorem passHome_cache (s : State) (c : Fin 64) (cid : BitVec 12) (la : Nat) : CacheKeeps c s (s.passHome c cid la) := by
  unfold State.passHome
  split
  · exact .refl c s
  · dsimp only
    split
    · exact .refl c s
    · refine CacheKeeps.trans (PathKeeps.cache ?_ c) (modCore_cache _ _ _)
      split
      · exact mergeHome_keeps _ _
      · exact (mergeHome_keeps _ _).trans (setRdc_keeps _ _ _)

theorem cleanToHome_cache (s : State) (c : Fin 64) (cid : BitVec 12) (la : Nat) : CacheKeeps c s (s.cleanToHome c cid la) := by
  unfold State.cleanToHome
  split
  · exact passHome_cache _ _ _ _
  · exact (cleanBlock_cache _ _ _ _).trans ((cleanRdc_keeps _ _ _ _).cache c)

/-- A store touches its core's block cache and what lines that leave it reach (R160, R268). -/
theorem storeBytes_cache (s : State) (c : Fin 64) (cid : BitVec 12) (a n x : Nat) (stamp : BitVec 48) :
    CacheKeeps c s (s.storeBytes c cid a n x stamp) :=
  CacheKeeps.fold _ (fun s _ => putBlock_cache s c _) _ s

theorem madeWhole_keeps (s : State) (cid : BitVec 12) (la : Nat) (l : Line) (lv : Level) :
    PathKeeps s (s.madeWhole cid la l lv).1 := by
  unfold State.madeWhole
  split
  · exact .refl s
  · have h := homeLine_keeps s cid la fullMask
    split
    · next e => rw [e] at h; exact h
    · exact .refl s

theorem homeServe_keeps (s : State) (cid : BitVec 12) (la : Nat) (need : BitVec 128) :
    PathKeeps s (s.homeServe cid la need).1 := by
  unfold State.homeServe
  have h := homeLine_keeps s cid la need
  split
  · next e => rw [e] at h; exact h.trans (madeWhole_keeps _ _ _ _ _)
  · exact h

/-- A read below the block cache touches no core (R160, R268). -/
theorem belowLine_keeps (s : State) (c : Fin 64) (cid : BitVec 12) (la : Nat) (need : BitVec 128) :
    PathKeeps s (s.belowLine c cid la need).1 := by
  unfold State.belowLine
  dsimp only
  split
  · exact madeWhole_keeps _ _ _ _ _
  · have h := homeServe_keeps s cid la (need &&& ~~~(lineOr (s.rdcOf (zIdx c)) cid la).valid)
    split
    · next e =>
      rw [e] at h
      dsimp only
      split
      · exact h.trans (putRdc_keeps _ _ _)
      · exact h
    · next e => rw [e] at h; exact h

/-- A load's fill touches its core's block cache and what lies below (R160, R268). -/
theorem loadLine_cache (s : State) (c : Fin 64) (cid : BitVec 12) (la : Nat) (need : BitVec 128) (unc : Bool) :
    CacheKeeps c s (s.loadLine c cid la need unc).1 := by
  unfold State.loadLine
  split
  · have h := xlate_keeps s cid (la * 128 / 2 ^ 21)
    split
    · next e => rw [e] at h; exact h.cache c
    · next e => rw [e] at h; exact h.cache c
  · dsimp only
    split
    · exact .refl c s
    · have h := belowLine_keeps s c cid la (need &&& ~~~(lineOr (s.core c).bc cid la).valid)
      split
      · next e =>
        rw [e] at h
        dsimp only
        split
        · exact (h.cache c).trans (putBlock_cache _ _ _)
        · exact h.cache c
      · next e => rw [e] at h; exact h.cache c

/-! ## What a die reset serves while it drains (R370) -/

/-- An item that was not outstanding at the GO of a reset that drains acts as ever. -/
theorem State.served_calm (s : State) (f : State → Host.Outcome State Fault Refusal) (h : ¬s.drains) : s.served f = f s :=
  if_neg h

/-- One that was acts as if the die were ready, and the registers of the reset stay. -/
theorem State.served_drains (s t : State) (f : State → Host.Outcome State Fault Refusal) (h : s.drains)
    (hf : f { s with regs := { s.regs with
      drstState := 0, ready0 := s.regs.ready0 ||| BitVec.twoPow 64 (27 + (s.regs.drstCur - 2)) } } = .next t) :
    s.served f = .next { t with regs := { t.regs with drstState := s.regs.drstState, ready0 := s.regs.ready0 } } := by
  unfold State.served
  simp only [if_pos (show s.regs.drstState = 1 ∧ 2 ≤ s.regs.drstCur ∧ s.ev.id < s.regs.drstMark from h), hf]

end Sys2Proof.Machine
end

