-- ==== Sys2Proof/Laws/Power.lean ====
section
/-!
SUPPORT. What the places of ramp filler take (R353).
-/

namespace Sys2Proof.Machine

/-- A die that is no place takes nothing. -/
theorem shareOf_absent (e : Nat) (l : List (Fin 8 × Nat)) (d : Fin 8) (h : ∀ p ∈ l, p.1 ≠ d) : shareOf e l d = 0 := by
  induction l generalizing e with
  | nil => rfl
  | cons p r ih =>
    obtain ⟨x, m⟩ := p
    simp only [shareOf, if_neg (h _ (List.mem_cons_self ..))]
    exact ih _ fun q hq => h q (List.mem_cons_of_mem _ hq)

/-- A die takes no more than its place holds. -/
theorem shareOf_le (e : Nat) (l : List (Fin 8 × Nat)) (d : Fin 8) (h : shareOf e l d ≠ 0) :
    ∃ m, (d, m) ∈ l ∧ shareOf e l d ≤ m := by
  induction l generalizing e with
  | nil => exact absurd rfl h
  | cons p r ih =>
    obtain ⟨x, m⟩ := p
    simp only [shareOf] at h ⊢
    split at h
    · next hx => subst hx; simp only [if_pos]; exact ⟨m, List.mem_cons_self .., Nat.min_le_right ..⟩
    · next hx =>
      obtain ⟨m', hm, hle⟩ := ih _ h
      simp only [if_neg hx]
      exact ⟨m', List.mem_cons_of_mem _ hm, hle⟩

end Sys2Proof.Machine
end

