-- ==== Sys2Proof/Laws/Waits.lean ====
section
/-!
SUPPORT. What holds a line or a store back, and the verdict on the stored firmware, said once (R164, R168, R377).
-/

namespace Sys2Proof.Machine

/-- A block is found at a line exactly where it lies over it and the line is of the core's context (R168, R266). -/
theorem mem_blocksAt {k : Core} {cid : BitVec 12} {la : Nat} {b : Block} :
    b ∈ k.blocksAt cid la ↔ cid = k.vis.csr.cid ∧ b ∈ k.blocks ∧ b.line ≤ la ∧ la < b.line + b.n := by
  unfold Core.blocksAt Core.blocksOn
  split <;> simp [*]

/-- A line is held exactly by a pending fill of the core's context over it (R168). -/
theorem fillHolds_iff {k : Core} {cid : BitVec 12} {la : Nat} :
    k.fillHolds cid la = true ↔ ∃ b ∈ k.blocksAt cid la, b.fill = true := by
  simp only [mem_blocksAt, Core.fillHolds, Core.filling, Bool.and_eq_true, beq_iff_eq, List.any_eq_true, decide_eq_true_eq]
  tauto

/-- A store to an UNCACHED page waits exactly for an earlier one that shares a byte with it (R164). -/
theorem storeBefore_iff {k : Core} {u : UStore} :
    k.storeBefore u = true ↔ ∃ v ∈ k.ustores, v.id < u.id ∧ v.addr < u.addr + rlen u.bytes ∧ u.addr < v.addr + rlen v.bytes := by
  simp [Core.storeBefore, and_assoc]

/-- The oldest store waits for none. -/
theorem storeBefore_oldest {k : Core} {u : UStore} (h : ∀ v ∈ k.ustores, u.id ≤ v.id) : k.storeBefore u = false := by
  rw [Bool.eq_false_iff, ne_eq, storeBefore_iff]
  rintro ⟨v, hv, hlt, -⟩
  exact absurd hlt (Nat.not_lt.2 (h v hv))

/-- The verdict stands once it is reached (R377). -/
theorem judge_passed (t : Trust) : t.judge.1.passed = some t.judge.2 := by
  unfold Trust.judge
  split <;> simp [*]

/-- A second reading of the verdict changes nothing and answers the same. -/
theorem judge_judge (t : Trust) : t.judge.1.judge = t.judge := by
  rw [Trust.judge.eq_1 t.judge.1, judge_passed]

end Sys2Proof.Machine
end

