-- ==== Sys2Proof/Tests/Slice0.lean ====
section
/-!
SUPPORT. The model's own tests: decoded words, refused terms, one-step results, and for every statement states that meet
its hypotheses.
-/

namespace Sys2Proof.Tests

set_option Elab.async false

open Sys2Proof Sys2Proof.Machine

/-! ## Decoding: words put together from the spec's opcode table and its encodings (R75, R82-R86) -/

/-- A header with no bit set. -/
def plain : Header := ⟨false, ⟨false, false, false, false⟩, 0⟩

/-- Words of the words of every cluster, and of X. -/
theorem test_decode_common :
  decode .c 0b0_0000_000000000000000000000000000#32 = some (plain, .nop)
  ∧ decode .c 0b0_0000_000001_1_1_101101_0_100110100101#32 = some (plain, .loop 1 true 45 2469)
  ∧ decode .c 0b0_0000_000010_1_0_010110_0000000000000#32 = some (plain, .lbreak 1 22)
  ∧ decode .c 0b0_0000_000010_1_10000000000000000000#32 = some (plain, .lbreakA 1)
  ∧ decode .c 0b0_0000_000011_100001_000000000000000#32 = some (plain, .waitk 33)
  ∧ decode .x 0b0_0000_000_000000000000000000000000#32 = some (plain, .nopX)
  ∧ decode .x 0b0_0000_000_000001_1_1_1101_001_100101010#32 = some (plain, .loopX 1 true 13 1 298)
  ∧ decode .x 0b0_0000_000_000010_1_0_0110_000000000000#32 = some (plain, .lbreakX 1 6)
  ∧ decode .x 0b0_0000_000_000010_1_10000000000000000#32 = some (plain, .lbreakAX 1)
  ∧ decode .x 0b0_0000_000_000011_100001_000000000000#32 = some (plain, .waitkX 33) := by
  refine ⟨?_, ?_, ?_, ?_, ?_, ?_, ?_, ?_, ?_, ?_⟩ <;> rfl

/-- Words of integer arithmetic of C. -/
theorem test_decode_integer :
  decode .c 0b0_0000_000100_100001_010110_101101_000#32 = some (plain, .add 33 22 45)
  ∧ decode .c 0b0_0000_000100_100001_010110_101101_001#32 = some (plain, .sub 33 22 45)
  ∧ decode .c 0b0_0000_000100_100001_010110_101101_010#32 = some (plain, .and 33 22 45)
  ∧ decode .c 0b0_0000_000100_100001_010110_101101_011#32 = some (plain, .or 33 22 45)
  ∧ decode .c 0b0_0000_000100_100001_010110_101101_100#32 = some (plain, .xor 33 22 45)
  ∧ decode .c 0b0_0000_000100_100001_010110_101101_101#32 = some (plain, .andn 33 22 45)
  ∧ decode .c 0b0_0000_000100_100001_010110_101101_110#32 = some (plain, .shl 33 22 45)
  ∧ decode .c 0b0_0000_000100_100001_010110_101101_111#32 = some (plain, .shr 33 22 45)
  ∧ decode .c 0b0_0000_000101_100001_010110_101101_000#32 = some (plain, .sha 33 22 45)
  ∧ decode .c 0b0_0000_000101_100001_010110_101101_001#32 = some (plain, .rol 33 22 45)
  ∧ decode .c 0b0_0000_000101_100001_010110_101101_010#32 = some (plain, .min 33 22 45)
  ∧ decode .c 0b0_0000_000101_100001_010110_101101_011#32 = some (plain, .max 33 22 45)
  ∧ decode .c 0b0_0000_000101_100001_010110_101101_100#32 = some (plain, .minn 33 22 45)
  ∧ decode .c 0b0_0000_000101_100001_010110_101101_101#32 = some (plain, .maxn 33 22 45)
  ∧ decode .c 0b0_0000_000101_100001_010110_101101_110#32 = some (plain, .mul 33 22 45)
  ∧ decode .c 0b0_0000_000101_100001_010110_101101_111#32 = some (plain, .mulh 33 22 45)
  ∧ decode .c 0b0_0000_000110_100001_010110_101101_000#32 = some (plain, .mulhn 33 22 45)
  ∧ decode .c 0b0_0000_000110_100001_010110_101101_001#32 = some (plain, .div 33 22 45)
  ∧ decode .c 0b0_0000_000110_100001_010110_101101_010#32 = some (plain, .divn 33 22 45)
  ∧ decode .c 0b0_0000_000110_100001_010110_101101_011#32 = some (plain, .rem 33 22 45)
  ∧ decode .c 0b0_0000_000110_100001_010110_101101_100#32 = some (plain, .remn 33 22 45)
  ∧ decode .c 0b0_0000_000110_100001_010110_000000101#32 = some (plain, .clz 33 22)
  ∧ decode .c 0b0_0000_000110_100001_010110_000000110#32 = some (plain, .ctz 33 22)
  ∧ decode .c 0b0_0000_000110_100001_010110_000000111#32 = some (plain, .popc 33 22)
  ∧ decode .c 0b0_0000_000111_100001_010110_101101_000#32 = some (plain, .sext 33 22 45)
  ∧ decode .c 0b0_0000_000111_100001_010110_101101_001#32 = some (plain, .zext 33 22 45)
  ∧ decode .c 0b0_0000_000111_100001_010110_101101_010#32 = some (plain, .addsh 33 22 45)
  ∧ decode .c 0b0_0000_000111_100001_010110_101101_011#32 = some (plain, .sel 33 22 45) := by
  refine ⟨?_, ?_, ?_, ?_, ?_, ?_, ?_, ?_, ?_, ?_, ?_, ?_, ?_, ?_, ?_, ?_, ?_, ?_, ?_, ?_, ?_, ?_, ?_, ?_, ?_, ?_, ?_, ?_⟩ <;> rfl

/-- Words of immediates and compares. -/
theorem test_decode_immediate :
  decode .c 0b0_0000_001000_100001_010110_100101011#32 = some (plain, .addi 33 22 299)
  ∧ decode .c 0b0_0000_001001_100001_010110_100101011#32 = some (plain, .andi 33 22 299)
  ∧ decode .c 0b0_0000_001010_100001_010110_100101011#32 = some (plain, .ori 33 22 299)
  ∧ decode .c 0b0_0000_001011_100001_010110_100101011#32 = some (plain, .xori 33 22 299)
  ∧ decode .c 0b0_0000_001100_100001_010110_000_101101#32 = some (plain, .shli 33 22 45)
  ∧ decode .c 0b0_0000_001101_100001_010110_000_101101#32 = some (plain, .shri 33 22 45)
  ∧ decode .c 0b0_0000_001110_100001_010110_000_101101#32 = some (plain, .shai 33 22 45)
  ∧ decode .c 0b0_0000_001111_100001_101101000111011#32 = some (plain, .li 33 23099)
  ∧ decode .c 0b0_0000_010000_100001_101101000111011#32 = some (plain, .lih 33 23099)
  ∧ decode .c 0b0_0000_010001_100001_010110_101101_000#32 = some (plain, .cmpEq 33 22 45)
  ∧ decode .c 0b0_0000_010001_100001_010110_101101_001#32 = some (plain, .cmpNe 33 22 45)
  ∧ decode .c 0b0_0000_010001_100001_010110_101101_010#32 = some (plain, .cmpLt 33 22 45)
  ∧ decode .c 0b0_0000_010001_100001_010110_101101_011#32 = some (plain, .cmpLe 33 22 45)
  ∧ decode .c 0b0_0000_010001_100001_010110_101101_100#32 = some (plain, .cmpLtn 33 22 45)
  ∧ decode .c 0b0_0000_010001_100001_010110_101101_101#32 = some (plain, .cmpLen 33 22 45)
  ∧ decode .c 0b0_0000_010010_100001_010110_101101_000#32 = some (plain, .cmpiEq 33 22 45)
  ∧ decode .c 0b0_0000_010010_100001_010110_101101_001#32 = some (plain, .cmpiNe 33 22 45)
  ∧ decode .c 0b0_0000_010010_100001_010110_101101_010#32 = some (plain, .cmpiLt 33 22 45)
  ∧ decode .c 0b0_0000_010010_100001_010110_101101_011#32 = some (plain, .cmpiLe 33 22 45)
  ∧ decode .c 0b0_0000_010010_100001_010110_101101_100#32 = some (plain, .cmpiLtn 33 22 45)
  ∧ decode .c 0b0_0000_010010_100001_010110_101101_101#32 = some (plain, .cmpiLen 33 22 45) := by
  refine ⟨?_, ?_, ?_, ?_, ?_, ?_, ?_, ?_, ?_, ?_, ?_, ?_, ?_, ?_, ?_, ?_, ?_, ?_, ?_, ?_, ?_⟩ <;> rfl

/-- Words of branches, traps and special registers. -/
theorem test_decode_control :
  decode .c 0b0_0000_010100_101_101010010111000011#32 = some (plain, .pbr 5 173507)
  ∧ decode .c 0b0_0000_010101_101_010110_000000000000#32 = some (plain, .pbrg 5 22)
  ∧ decode .c 0b0_0000_010110_101_010110_000000000001#32 = some (plain, .brT 5 22)
  ∧ decode .c 0b0_0000_010110_101_010110_000000000010#32 = some (plain, .brZ 5 22)
  ∧ decode .c 0b0_0000_010110_101_000000000000000011#32 = some (plain, .brA 5)
  ∧ decode .c 0b0_0000_010111_101_000000000000000000#32 = some (plain, .call 5)
  ∧ decode .c 0b0_0000_011000000000000000000000000#32 = some (plain, .ret)
  ∧ decode .c 0b0_0000_011001000000000000_100101011#32 = some (plain, .trap 299)
  ∧ decode .c 0b0_0000_011010000000000000000000000#32 = some (plain, .rett)
  ∧ decode .c 0b0_0000_011011_100001_000_000001000011#32 = some (plain, .csrr 33 67)
  ∧ decode .c 0b0_0000_011100_100001_000_000001000011#32 = some (plain, .csrw 33 67)
  ∧ decode .c 0b0_0000_011101_100001_000_000001000011#32 = some (plain, .csrs 33 67)
  ∧ decode .c 0b0_0000_011101_100001_001_000001000011#32 = some (plain, .csrc 33 67) := by
  refine ⟨?_, ?_, ?_, ?_, ?_, ?_, ?_, ?_, ?_, ?_, ?_, ?_, ?_⟩ <;> rfl

/-- Words of the rest of C. -/
theorem test_decode_system :
  decode .c 0b0_0000_0111100000000000000_10100101#32 = some (plain, .yield 165)
  ∧ decode .c 0b0_0000_011111_100001_010110_000000_1_01#32 = some (plain, .probeR 33 22 true)
  ∧ decode .c 0b0_0000_011111_100001_010110_000000_1_10#32 = some (plain, .probeW 33 22 true)
  ∧ decode .c 0b0_0000_011111_100001_010110_000000_1_11#32 = some (plain, .probeRw 33 22 true)
  ∧ decode .c 0b0_0000_100000_100001_010110_000000000#32 = some (plain, .unpin 33 22)
  ∧ decode .c 0b0_0000_100001000000_100001_000000000#32 = some (plain, .realign 33)
  ∧ decode .c 0b0_0000_1000100000000000000000000_10#32 = some (plain, .phase 2)
  ∧ decode .c 0b0_0000_1000110000000000000000000_10#32 = some (plain, .domsync 2)
  ∧ decode .c 0b0_0000_100100000000000000000000000#32 = some (plain, .stepadv)
  ∧ decode .c 0b0_0000_100101000000_010100_000_010110#32 = some (plain, .klaunch 20 22)
  ∧ decode .c 0b0_0000_100110000000000000000000000#32 = some (plain, .kend) := by
  refine ⟨?_, ?_, ?_, ?_, ?_, ?_, ?_, ?_, ?_, ?_, ?_⟩ <;> rfl

/-- Words of tokens, shapes, blocks and slots. -/
theorem test_decode_tokens :
  decode .c 0b0_0000_100111_100001_000000000000000#32 = some (plain, .tkZero 33)
  ∧ decode .c 0b0_0000_100111_100001_010110_101101_001#32 = some (plain, .tkJoin 33 22 45)
  ∧ decode .c 0b0_0000_100111_100001_010110_000000010#32 = some (plain, .tkTest 33 22)
  ∧ decode .c 0b0_0000_101000_100001_010110_000_110_000#32 = some (plain, .shapeAlloc 33 22 6)
  ∧ decode .c 0b0_0000_101000_100001_000000000_011_001#32 = some (plain, .shapeFree 33 3)
  ∧ decode .c 0b0_0000_101000_100001_010110_110_001_010#32 = some (plain, .shapeCut 33 22 6 1)
  ∧ decode .c 0b0_0000_101000_100001_000000_011_110_011#32 = some (plain, .shapeChain 33 3 6)
  ∧ decode .c 0b0_0000_101000_100001_000000000_011_100#32 = some (plain, .shapeQry 33 3)
  ∧ decode .c 0b0_0000_101001_001001_010110_000000_110#32 = some (plain, .cbset 9 22 6)
  ∧ decode .c 0b0_0000_101010_001001_000000000000000#32 = some (plain, .cbclr 9)
  ∧ decode .c 0b0_0000_101011_001001_010110_000_101101#32 = some (plain, .hbload 9 22 45)
  ∧ decode .c 0b0_0000_101100_001001_010110_000_101101#32 = some (plain, .hbstore 9 22 45)
  ∧ decode .c 0b0_0000_101101_001001_010110_000000000#32 = some (plain, .hseed 9 22)
  ∧ decode .c 0b0_0000_101110_100001_010100_00000_1101#32 = some (plain, .nbqr 33 20 13)
  ∧ decode .c 0b0_0000_101111_100001_010100_00000_1101#32 = some (plain, .nbrot 33 20 13)
  ∧ decode .c 0b0_0000_110000_100001_010100_0000_1_0011#32 = some (plain, .nbcarry 33 20 true 3)
  ∧ decode .c 0b0_0000_110001_100001_010100_00000_1101#32 = some (plain, .nbswitch 33 20 13) := by
  refine ⟨?_, ?_, ?_, ?_, ?_, ?_, ?_, ?_, ?_, ?_, ?_, ?_, ?_, ?_, ?_, ?_, ?_⟩ <;> rfl

/-- Words of loads of L. -/
theorem test_decode_loads :
  decode .l 0b0_0000_000100_1001_0110_1001000110101#32 = some (plain, .ld 9 6 4661)
  ∧ decode .l 0b0_0000_000101_1001_010110_110_10100101#32 = some (plain, .lds 9 22 .ws 165)
  ∧ decode .l 0b0_0000_000110_1001_0110_101101_0000000#32 = some (plain, .ldgStride 9 6 45)
  ∧ decode .l 0b0_0000_000110_1001_0110_101101_001_0011#32 = some (plain, .ldgGather 9 6 45 3)
  ∧ decode .l 0b0_0000_000111_1001_0110_101101_00_10011#32 = some (plain, .lda 9 6 45 19)
  ∧ decode .l 0b0_0000_001000_1001_0110_101101_00_10011#32 = some (plain, .chka 9 6 45 19)
  ∧ decode .l 0b0_0000_001001_1001_010110_00000_101101#32 = some (plain, .ldb 9 22 45)
  ∧ decode .l 0b0_0000_001010_1001_010110_110_00_000111#32 = some (plain, .lsg 9 22 .ws 7)
  ∧ decode .l 0b0_0000_001011_1001_010110_011_0_1_101000#32 = some (plain, .ldacq 9 22 .package true 40)
  ∧ decode .l 0b0_0000_001100_1001_0110_101101_000000_1#32 = some (plain, .ltv 9 6 45 1)
  ∧ decode .l 0b0_0000_001101000000000000000000000#32 = some (plain, .markL)
  ∧ decode .l 0b0_0000_0011100000_1001_0000000_010110#32 = some (plain, .laSet 9 22)
  ∧ decode .l 0b0_0000_0011100001_1001_1001000110101#32 = some (plain, .laAdd 9 4661)
  ∧ decode .l 0b0_0000_0011100010_1001_0000000_010110#32 = some (plain, .laAddg 9 22)
  ∧ decode .l 0b0_0000_001111_1001_010110_00000000000#32 = some (plain, .verchk 9 22) := by
  refine ⟨?_, ?_, ?_, ?_, ?_, ?_, ?_, ?_, ?_, ?_, ?_, ?_, ?_, ?_, ?_⟩ <;> rfl

/-- Words of the engines of L. -/
theorem test_decode_copies :
  decode .l 0b0_0000_010000_100001_101000_000000000#32 = some (plain, .cpCopy 33 40)
  ∧ decode .l 0b0_0000_010001_100001_101000_0000000_1_0#32 = some (plain, .cpSumFold 33 40 true)
  ∧ decode .l 0b0_0000_010001_100001_101000_0000000_1_1#32 = some (plain, .cpSumCrc 33 40 true)
  ∧ decode .l 0b0_0000_010010_100001_101000_0000000_10#32 = some (plain, .cpFill 33 40 .w)
  ∧ decode .l 0b0_0000_010011_100001_101000_000000000#32 = some (plain, .cpLink 33 40)
  ∧ decode .l 0b0_0000_010011_100001_101000_000000_1_01#32 = some (plain, .cpLinkFold 33 40 true)
  ∧ decode .l 0b0_0000_010011_100001_101000_000000_1_11#32 = some (plain, .cpLinkCrc 33 40 true)
  ∧ decode .l 0b0_0000_010100_100001_101000_0000000_1_0#32 = some (plain, .cpTileTo 33 40 1)
  ∧ decode .l 0b0_0000_010100_100001_101000_0000000_1_1#32 = some (plain, .cpTileFrom 33 40 1) := by
  refine ⟨?_, ?_, ?_, ?_, ?_, ?_, ?_, ?_, ?_⟩ <;> rfl

/-- Words of stores and maintenance of W. -/
theorem test_decode_stores :
  decode .w 0b0_0000_000100_1001_0110_1001000110101#32 = some (plain, .st 9 6 4661)
  ∧ decode .w 0b0_0000_000101_1001_010110_0_10_10100101#32 = some (plain, .sts 9 22 .w 165)
  ∧ decode .w 0b0_0000_000110_1001_0110_101101_0000000#32 = some (plain, .stxStride 9 6 45)
  ∧ decode .w 0b0_0000_000110_1001_0110_101101_001_0011#32 = some (plain, .stxScatter 9 6 45 3)
  ∧ decode .w 0b0_0000_000111_1001_0110_101101_000000_1#32 = some (plain, .stt 9 6 45 1)
  ∧ decode .w 0b0_0000_001000_1001_010110_0_10_00_000111#32 = some (plain, .ssg 9 22 .w 7)
  ∧ decode .w 0b0_0000_001001_1001_010110_011_0_1_101000#32 = some (plain, .strel 9 22 .package true 40)
  ∧ decode .w 0b0_0000_001010000000000000000000000#32 = some (plain, .markW)
  ∧ decode .w 0b0_0000_0010110000000000_011_00000000#32 = some (plain, .fence .package)
  ∧ decode .w 0b0_0000_001100_1001_010110_001_000111_00#32 = some (plain, .cmoClean 9 22 .home 7)
  ∧ decode .w 0b0_0000_001100_1001_010110_001_000111_01#32 = some (plain, .cmoInv 9 22 .home 7)
  ∧ decode .w 0b0_0000_001100_1001_010110_001_000111_10#32 = some (plain, .cmoClinv 9 22 .home 7) := by
  refine ⟨?_, ?_, ?_, ?_, ?_, ?_, ?_, ?_, ?_, ?_, ?_, ?_⟩ <;> rfl

/-- Words of atomics and queues of W. -/
theorem test_decode_atomics :
  decode .w 0b0_0000_0011010000_1001_010010_1_000111#32 = some (plain, .amoAdd 9 18 true 7)
  ∧ decode .w 0b0_0000_0011010001_1001_010010_1_000111#32 = some (plain, .amoMin 9 18 true 7)
  ∧ decode .w 0b0_0000_0011010010_1001_010010_1_000111#32 = some (plain, .amoMax 9 18 true 7)
  ∧ decode .w 0b0_0000_0011010011_1001_010010_1_000111#32 = some (plain, .amoOr 9 18 true 7)
  ∧ decode .w 0b0_0000_0011010100_1001_010010_1_000111#32 = some (plain, .amoAnd 9 18 true 7)
  ∧ decode .w 0b0_0000_0011010101_1001_010010_1_000111#32 = some (plain, .amoXchg 9 18 true 7)
  ∧ decode .w 0b0_0000_0011010110_1001_010010_1_000111#32 = some (plain, .amoCas 9 18 true 7)
  ∧ decode .w 0b0_0000_001110_100001_101000_00000_1_000#32 = some (plain, .amorAdd 33 40 true)
  ∧ decode .w 0b0_0000_001110_100001_101000_00000_1_001#32 = some (plain, .amorMin 33 40 true)
  ∧ decode .w 0b0_0000_001110_100001_101000_00000_1_010#32 = some (plain, .amorMax 33 40 true)
  ∧ decode .w 0b0_0000_001110_100001_101000_00000_1_011#32 = some (plain, .amorOr 33 40 true)
  ∧ decode .w 0b0_0000_001110_100001_101000_00000_1_100#32 = some (plain, .amorAnd 33 40 true)
  ∧ decode .w 0b0_0000_001110_100001_101000_00000_1_101#32 = some (plain, .amorXchg 33 40 true)
  ∧ decode .w 0b0_0000_001110_100001_101000_00000_1_110#32 = some (plain, .amorCas 33 40 true)
  ∧ decode .w 0b0_0000_0011110000_1001_0000000_010110#32 = some (plain, .waSet 9 22)
  ∧ decode .w 0b0_0000_0011110001_1001_1001000110101#32 = some (plain, .waAdd 9 4661)
  ∧ decode .w 0b0_0000_0011110010_1001_0000000_010110#32 = some (plain, .waAddg 9 22)
  ∧ decode .w 0b0_0000_010000_100001_101000_000000000#32 = some (plain, .cqPost 33 40)
  ∧ decode .w 0b0_0000_010001_100001_101000_000000000#32 = some (plain, .cqArm 33 40)
  ∧ decode .w 0b0_0000_010010_100001_101000_000000000#32 = some (plain, .cntAdd 33 40)
  ∧ decode .w 0b0_0000_010011_100001_101000_000000000#32 = some (plain, .cntWait 33 40)
  ∧ decode .w 0b0_0000_010100_100001_101000_000000000#32 = some (plain, .rlInv 33 40) := by
  refine ⟨?_, ?_, ?_, ?_, ?_, ?_, ?_, ?_, ?_, ?_, ?_, ?_, ?_, ?_, ?_, ?_, ?_, ?_, ?_, ?_, ?_, ?_⟩ <;> rfl

/-- Words of arithmetic of X. -/
theorem test_decode_vector :
  decode .x 0b0_0000_000_000100_1001_0110_1101_001_010#32 = some (plain, .vadd 9 6 13 1 2)
  ∧ decode .x 0b0_0000_000_000101_1001_0110_1101_001_010#32 = some (plain, .vsub 9 6 13 1 2)
  ∧ decode .x 0b0_0000_000_000110_1001_0110_1101_001_010#32 = some (plain, .vmul 9 6 13 1 2)
  ∧ decode .x 0b0_0000_000_000111_1001_0110_1101_001_010#32 = some (plain, .vfma 9 6 13 1 2)
  ∧ decode .x 0b0_0000_000_001000_1001_0110_1101_001_010#32 = some (plain, .vfms 9 6 13 1 2)
  ∧ decode .x 0b0_0000_000_001001_1001_0110_1101_001_010#32 = some (plain, .vfnma 9 6 13 1 2)
  ∧ decode .x 0b0_0000_000_001010_1001_0110_1101_001_010#32 = some (plain, .vmin 9 6 13 1 2)
  ∧ decode .x 0b0_0000_000_001011_1001_0110_1101_001_010#32 = some (plain, .vmax 9 6 13 1 2)
  ∧ decode .x 0b0_0000_000_001100_1001_0110_0000_110_001#32 = some (plain, .vunNeg 9 6 6 1)
  ∧ decode .x 0b0_0000_000_001100_1001_0110_0001_110_001#32 = some (plain, .vunAbs 9 6 6 1)
  ∧ decode .x 0b0_0000_000_001100_1001_0110_0010_110_001#32 = some (plain, .vunRcp 9 6 6 1)
  ∧ decode .x 0b0_0000_000_001100_1001_0110_0011_110_001#32 = some (plain, .vunRsq 9 6 6 1)
  ∧ decode .x 0b0_0000_000_001100_1001_0110_0100_110_001#32 = some (plain, .vunSqrt 9 6 6 1)
  ∧ decode .x 0b0_0000_000_001100_1001_0110_0101_110_001#32 = some (plain, .vunExp2 9 6 6 1)
  ∧ decode .x 0b0_0000_000_001100_1001_0110_0110_110_001#32 = some (plain, .vunLog2 9 6 6 1)
  ∧ decode .x 0b0_0000_000_001100_1001_0110_0111_110_001#32 = some (plain, .vunTanh 9 6 6 1)
  ∧ decode .x 0b0_0000_000_001100_1001_0110_1000_110_001#32 = some (plain, .vunSigm 9 6 6 1)
  ∧ decode .x 0b0_0000_000_001100_1001_0110_1001_110_001#32 = some (plain, .vunNot 9 6 6 1) := by
  refine ⟨?_, ?_, ?_, ?_, ?_, ?_, ?_, ?_, ?_, ?_, ?_, ?_, ?_, ?_, ?_, ?_, ?_, ?_⟩ <;> rfl

/-- Words of compares, logic and conversions of X. -/
theorem test_decode_vector_logic :
  decode .x 0b0_0000_000_001101_101_000_0110_1101_001_1#32 = some (plain, .vcmpEq 5 6 13 1 true)
  ∧ decode .x 0b0_0000_000_001101_101_001_0110_1101_001_1#32 = some (plain, .vcmpNe 5 6 13 1 true)
  ∧ decode .x 0b0_0000_000_001101_101_010_0110_1101_001_1#32 = some (plain, .vcmpLt 5 6 13 1 true)
  ∧ decode .x 0b0_0000_000_001101_101_011_0110_1101_001_1#32 = some (plain, .vcmpLe 5 6 13 1 true)
  ∧ decode .x 0b0_0000_000_001101_101_100_0110_1101_001_1#32 = some (plain, .vcmpGt 5 6 13 1 true)
  ∧ decode .x 0b0_0000_000_001101_101_101_0110_1101_001_1#32 = some (plain, .vcmpGe 5 6 13 1 true)
  ∧ decode .x 0b0_0000_000_001101_101_110_0110_1101_001_1#32 = some (plain, .vcmpUo 5 6 13 1 true)
  ∧ decode .x 0b0_0000_000_001110_1001_0110_1101_001_010#32 = some (plain, .vsel 9 6 13 1 2)
  ∧ decode .x 0b0_0000_000_001111_1001_0110_1101_001_010#32 = some (plain, .vand 9 6 13 1 2)
  ∧ decode .x 0b0_0000_000_010000_1001_0110_1101_001_010#32 = some (plain, .vor 9 6 13 1 2)
  ∧ decode .x 0b0_0000_000_010001_1001_0110_1101_001_010#32 = some (plain, .vxor 9 6 13 1 2)
  ∧ decode .x 0b0_0000_000_010010_1001_0110_1101_001_010#32 = some (plain, .vshl 9 6 13 1 2)
  ∧ decode .x 0b0_0000_000_010011_1001_0110_1101_001_010#32 = some (plain, .vshr 9 6 13 1 2)
  ∧ decode .x 0b0_0000_000_010100_1001_0110_1101_001_010#32 = some (plain, .vsha 9 6 13 1 2)
  ∧ decode .x 0b0_0000_000_010101_1001_0110_0010_001_010#32 = some (plain, .vcvt 9 6 2 1 2)
  ∧ decode .x 0b0_0000_000_010110_1001_0110_1101_0011_00#32 = some (plain, .vcvts 9 6 13 3)
  ∧ decode .x 0b0_0000_000_010111_1001_0110_1101_001_000#32 = some (plain, .vcadd 9 6 13 1)
  ∧ decode .x 0b0_0000_000_011000_1001_0110_0000_110_000#32 = some (plain, .vcsplit 9 6 6)
  ∧ decode .x 0b0_0000_000_011001_1001_0110_1101_000_001#32 = some (plain, .vqdx 9 6 13 1)
  ∧ decode .x 0b0_0000_000_011010_1001_0110_1101_000_001#32 = some (plain, .vdqdx 9 6 13 1) := by
  refine ⟨?_, ?_, ?_, ?_, ?_, ?_, ?_, ?_, ?_, ?_, ?_, ?_, ?_, ?_, ?_, ?_, ?_, ?_, ?_, ?_⟩ <;> rfl

/-- Words of reductions and moves of X. -/
theorem test_decode_vector_move :
  decode .x 0b0_0000_000_011011_1001_0110_0000_110_001#32 = some (plain, .vredSum 9 6 6 1)
  ∧ decode .x 0b0_0000_000_011011_1001_0110_0001_110_001#32 = some (plain, .vredMax 9 6 6 1)
  ∧ decode .x 0b0_0000_000_011011_1001_0110_0010_110_001#32 = some (plain, .vredMin 9 6 6 1)
  ∧ decode .x 0b0_0000_000_011100_1001_0110_1101_001_010#32 = some (plain, .vperm 9 6 13 1 2)
  ∧ decode .x 0b0_0000_000_011101_1001_0110_1101_001_010#32 = some (plain, .vrote 9 6 13 1 2)
  ∧ decode .x 0b0_0000_000_011110_1001_0110_0000_110_001#32 = some (plain, .vbcast 9 6 6 1)
  ∧ decode .x 0b0_0000_000_011111_1001_00000000_011_110#32 = some (plain, .viota 9 3 6)
  ∧ decode .x 0b0_0000_000_100000_1001_0110_1101_001_010#32 = some (plain, .vmom1 9 6 13 1 2)
  ∧ decode .x 0b0_0000_000_100001_1001_0110_1101_001_010#32 = some (plain, .vmom2 9 6 13 1 2)
  ∧ decode .x 0b0_0000_000_100010_1001_0110_1101_001_010#32 = some (plain, .vadstep 9 6 13 1 2)
  ∧ decode .x 0b0_0000_000_100011_1001_0110_0000_110_000#32 = some (plain, .vrng 9 6 6)
  ∧ decode .x 0b0_0000_000_100100_1001_0110_1101_001_010#32 = some (plain, .vscalex 9 6 13 1 2) := by
  refine ⟨?_, ?_, ?_, ?_, ?_, ?_, ?_, ?_, ?_, ?_, ?_, ?_⟩ <;> rfl

/-- Words of masks, queues, ports and products of X. -/
theorem test_decode_vector_port :
  decode .x 0b0_0000_000_100101_101_0000_011_0_110_0000#32 = some (plain, .mlogAnd 5 3 6)
  ∧ decode .x 0b0_0000_000_100101_101_0010_011_0_110_0000#32 = some (plain, .mlogOr 5 3 6)
  ∧ decode .x 0b0_0000_000_100101_101_0100_011_0_110_0000#32 = some (plain, .mlogXor 5 3 6)
  ∧ decode .x 0b0_0000_000_100101_101_0110_011_00000000#32 = some (plain, .mlogNot 5 3)
  ∧ decode .x 0b0_0000_000_100101000100_1001_0_011_0000#32 = some (plain, .mlogPopc 9 3)
  ∧ decode .x 0b0_0000_000_1001100000_1001_0110_110_001#32 = some (plain, .dqpush 9 6 6 1)
  ∧ decode .x 0b0_0000_000_100111_1001_0110_1101_000000#32 = some (plain, .dqdrain 9 6 13)
  ∧ decode .x 0b0_0000_000_101000_1001_0110_1101_001_010#32 = some (plain, .vaccrd 9 6 13 1 2)
  ∧ decode .x 0b0_0000_000_101001_1001_0110_1101_001_000#32 = some (plain, .vaccwr 9 6 13 1)
  ∧ decode .x 0b0_0000_000_101010_1001_011_1_0000_000111#32 = some (plain, .mxMma 9 3 true 7)
  ∧ decode .x 0b0_0000_000_101011_1001_011_1_0000_000111#32 = some (plain, .mxMmat 9 3 true 7)
  ∧ decode .x 0b0_0000_000_101100_1001_011_1_0000_000111#32 = some (plain, .mxMmac 9 3 true 7)
  ∧ decode .x 0b0_0000_000_10110100000000000000_1001#32 = some (plain, .mxZero 9)
  ∧ decode .x 0b0_0000_000_1011100000_101_00000000000#32 = some (plain, .mxDrain 5)
  ∧ decode .x 0b0_0000_000_101111_1001_00000000000000#32 = some (plain, .mxLacc 9) := by
  refine ⟨?_, ?_, ?_, ?_, ?_, ?_, ?_, ?_, ?_, ?_, ?_, ?_, ?_, ?_, ?_⟩ <;> rfl

/-! ## Ill-formed terms, refused by each check (R26, R81-R86, R103) -/

/-- A LOOP of no words; an X body whose length its stages do not divide (R102, R103). -/
theorem test_wf_loop : (Instr.loop 0 false 1 0).wf = false ∧ (Instr.loopX 0 false 1 0 0).wf = false
    ∧ (Instr.loopX 0 false 1 2 4).wf = false ∧ (Instr.loopX 0 false 1 2 6).wf = true := by decide

/-- A CSR number that R26 does not list. -/
theorem test_wf_csr : (Instr.csrr 1 0x005).wf = false ∧ (Instr.csrw 1 0x038).wf = false ∧ (Instr.csrs 1 0x058).wf = false
    ∧ (Instr.csrc 1 0x1FF).wf = false ∧ (Instr.csrr 1 0x057).wf = true := by decide

/-- A quad that starts at g0 or runs past g63 (R81). -/
theorem test_wf_quad : (Instr.klaunch 0 5).wf = false ∧ (Instr.nbqr 5 61 0).wf = false ∧ (Instr.nbrot 5 0 0).wf = false
    ∧ (Instr.nbcarry 5 61 false 0).wf = false ∧ (Instr.nbswitch 5 61 0).wf = false ∧ (Instr.cpCopy 5 61).wf = false
    ∧ (Instr.cpSumFold 5 0 true).wf = false ∧ (Instr.cpSumCrc 5 0 true).wf = false ∧ (Instr.cpFill 5 61 .b).wf = false
    ∧ (Instr.cpLink 5 61).wf = false ∧ (Instr.cpLinkFold 5 0 true).wf = false ∧ (Instr.cpLinkCrc 5 0 true).wf = false
    ∧ (Instr.cpTileTo 5 61 0).wf = false ∧ (Instr.cpTileFrom 5 61 0).wf = false ∧ (Instr.cqPost 5 61).wf = false
    ∧ (Instr.cqArm 5 0).wf = false ∧ (Instr.cntAdd 5 61).wf = false ∧ (Instr.cntWait 5 0).wf = false
    ∧ (Instr.rlInv 5 61).wf = false ∧ (Instr.cpCopy 5 60).wf = true := by decide

/-- The quad of an AMOR (R81). -/
theorem test_wf_amor : (Instr.amorAdd 5 61 false).wf = false ∧ (Instr.amorMin 5 0 false).wf = false
    ∧ (Instr.amorMax 5 61 false).wf = false ∧ (Instr.amorOr 5 0 false).wf = false ∧ (Instr.amorAnd 5 61 false).wf = false
    ∧ (Instr.amorXchg 5 0 false).wf = false ∧ (Instr.amorCas 5 61 false).wf = false ∧ (Instr.amorCas 5 1 false).wf = true := by
  decide

/-- A pair that starts at g0 or at g63, and an unused pair field that is not zero (R81, R84). -/
theorem test_wf_pair : (Instr.amoCas 0 63 false 5).wf = false ∧ (Instr.amoCas 0 0 false 5).wf = false
    ∧ (Instr.ldacq 0 1 .core true 63).wf = false ∧ (Instr.strel 0 1 .core true 0).wf = false
    ∧ (Instr.ldacq 0 1 .core false 4).wf = false ∧ (Instr.strel 0 1 .core false 4).wf = false
    ∧ (Instr.ldacq 0 1 .core true 62).wf = true := by decide

/-- Element formats, ranks, tiles and tokens out of range (R81, R86). -/
theorem test_wf_x : (Instr.vcvt 1 2 11 0 0).wf = false ∧ (Instr.vcvt 1 2 13 0 0).wf = false ∧ (Instr.vcvts 1 2 3 0).wf = false
    ∧ (Instr.vcvts 1 2 3 9).wf = false ∧ (Instr.dqpush 1 2 3 3).wf = false ∧ (Instr.vaccrd 1 12 3 0 0).wf = false
    ∧ (Instr.vaccwr 12 1 2 3).wf = false ∧ (Instr.mxZero 12).wf = false ∧ (Instr.mxMma 0 0 false 1).wf = false
    ∧ (Instr.mxMmat 0 0 false 1).wf = false ∧ (Instr.mxMmac 0 0 false 1).wf = false ∧ (Instr.mxZero 11).wf = true := by decide

/-- The words of ill-formed terms, and reserved majors, minors and operand bits, decode to nothing (R83-R87). -/
theorem test_decode_refuses :
    -- LOOP with len 0; CSRR of 0x005; KLAUNCH of the quad at g61; the reserved C majors 0x13, 0x32 and 0x3F
    decode .c 0b0_0000_000001_0_0_000001_0_000000000000#32 = none ∧ decode .c 0b0_0000_011011_000001_000_000000000101#32 = none
    ∧ decode .c 0b0_0000_100101_000000_111101_000000101#32 = none ∧ decode .c 0x02600000#32 = none
    ∧ decode .c 0x06400000#32 = none ∧ decode .c 0x07E00000#32 = none
    -- NOP with an operand bit; a reserved minor of CMP; PROBE with mode 0
    ∧ decode .c 0x00000001#32 = none ∧ decode .c 0b0_0000_010001_000001_000010_000011_110#32 = none
    ∧ decode .c 0b0_0000_011111_000001_000010_000000000#32 = none
    -- LDS of size 7, LDACQ of scope 5, the L major 0x15; STS of size 4, the W major 0x15
    ∧ decode .l 0b0_0000_000101_0001_000010_111_00000000#32 = none ∧ decode .l 0b0_0000_001011_0001_000010_101_00000000#32 = none
    ∧ decode .l 0x02A00000#32 = none ∧ decode .w 0b0_0000_000101_0001_000010_100_00000000#32 = none
    ∧ decode .w 0x02A00000#32 = none := by
  refine ⟨?_, ?_, ?_, ?_, ?_, ?_, ?_, ?_, ?_, ?_, ?_, ?_, ?_, ?_⟩ <;> rfl

/-- The bits every word carries: S, the link bits of each ring and an X word's idle count (R75, R77, R79); words of the spec's
own listings (R128, R163, R166). -/
theorem test_decode_headers :
    decode .c 0x80000000#32 = some (⟨true, ⟨false, false, false, false⟩, 0⟩, .nop)
    ∧ decode .l 0b0_1010_000000_000000000000000000000#32 = some (⟨false, ⟨true, false, true, false⟩, 0⟩, .nop)
    ∧ decode .x 0b1_0001_111_000000_000000000000000000#32 = some (⟨true, ⟨false, false, false, true⟩, 7⟩, .nopX)
    ∧ decode .l 0x00EA2483#32 = some (plain, .lda 5 1 9 3) ∧ decode .l 0x010A2483#32 = some (plain, .chka 5 1 9 3)
    ∧ decode .l 0x01A00000#32 = some (plain, .markL) ∧ decode .w 0x008E4000#32 = some (plain, .st 7 2 0)
    ∧ decode .w 0x01400000#32 = some (plain, .markW) := by
  refine ⟨?_, ?_, ?_, ?_, ?_, ?_, ?_, ?_⟩ <;> rfl

/-- The words of the tables of R65 (ADDI, VADD, VMAX, NOP) and of R157 (LD, ST, LDS.D). -/
theorem test_decode_tables :
    decode .c 0x01028BFF#32 = some (plain, .addi 5 5 (-1))
    ∧ decode .x 0x8A10C480#32 = some (⟨true, ⟨false, false, false, true⟩, 2⟩, .vadd 3 1 2 0 0)
    ∧ decode .x 0x402DDC11#32 = some (⟨false, ⟨true, false, false, false⟩, 0⟩, .vmax 7 7 0 2 1)
    ∧ decode .c 0x00000000#32 = some (plain, .nop) ∧ decode .c 0x80000000#32 = some ({ plain with sync := true }, .nop)
    ∧ decode .l 0x00842080#32 = some (plain, .ld 2 1 128) ∧ decode .w 0x00842080#32 = some (plain, .st 2 1 128)
    ∧ decode .l 0x00A03302#32 = some (plain, .lds 0 6 .d 2) := by
  refine ⟨?_, ?_, ?_, ?_, ?_, ?_, ?_, ?_⟩ <;> rfl

/-! ## Small states -/

/-- Change core 0 of the state after reset. -/
def on0 (f : Core → Core) : State := State.reset.modCore 0 f

/-- g registers as words of this cycle read them, and as later ones will. -/
def gs (l : List (Fin 64 × Dword)) (k : Core) : Core :=
  { k with
    old := { k.old with g := l.foldl (fun g p => g.set p.1 p.2) k.old.g }
    vis := { k.vis with g := l.foldl (fun g p => g.set p.1 p.2) k.vis.g } }

/-- A token as words of this cycle read it. -/
def tk (j : Fin 64) (t : Token) (k : Core) : Core := { k with old := { k.old with tok := k.old.tok.set j t } }

/-- A handle's state as words of this cycle read it. -/
def hs (h : Fin 8) (x : ShSt) (k : Core) : Core :=
  { k with old := { k.old with sh := k.old.sh.set h x }, vis := { k.vis with sh := k.vis.sh.set h x } }

/-- The issuing cluster, with S. -/
def turnOf (cl : Cl) (sync : Bool) (s : State) : State := { s with turn := ⟨0, cl, ⟨sync, ⟨false, false, false, false⟩, 0⟩⟩ }

/-- A cluster one word on. -/
def at1 : Cluster := { Cluster.reset with pc := 1 }

/-- Every page below 1 GiB is mapped one to one for context 0, readable and writable, in every translation cache and in core
0's permission buffers, and the memory of every die is ready. -/
def mapped (s : State) : State :=
  { s with
    regs := { s.regs with ready0 := s.regs.ready0 ||| 0x78000000 }
    mtu := Vector.replicate 4 { Mtu.reset with tc := [⟨0, 0, true, true, true, false, 0⟩] }
    cores := s.cores.set 0 { s.cores[(0 : Fin 64)] with
      plb := [⟨0, true, .page true true false⟩]
      splb := Vector.replicate 3 [⟨0, true, .page true true false⟩] } }

/-- Context 0 maps its page 0 to frame 0, which another context writes (R303-R305, R310). -/
def shared (s : State) : State :=
  { s with
    mem := Memory.write (Memory.write (Memory.write (Memory.write [] 0 0x1001 16) 0x1000 0x2001 8) 0x2000 0x3001 8) 0x3000 0xF 8
    mtu := s.mtu.set (frameIdx 0) { s.mtu[(frameIdx 0)] with owners := [(0, .writer 1 0)] } }

/-- An event's arguments. -/
def evOf (id : Nat) (args : List Nat) (s : State) : State := { s with ev := ⟨0, id, args, []⟩ }

/-- The state after reset goes from word 0 to word 1. -/
theorem goes_reset : State.reset.goesTo at1 := rfl

theorem goes_g (l : List (Fin 64 × Dword)) : (on0 (gs l)).goesTo at1 := rfl

/-- `State.admits`, as it evaluates. -/
def pagesOk (s : State) (i : Instr) : Bool :=
  (s.spans i).all fun x => x.fits && (pagesOf x.a x.n).all fun p =>
    !s.dieBusy (homeDie (p * 2 ^ 21)).val && (s.me.pageAns s.turn.cl p).any fun a => a.meets x.need

theorem admits_of (s : State) (i : Instr) (h : pagesOk s i = true) : s.admits i := by
  intro x hx
  have := List.all_eq_true.1 h x hx
  simp only [Bool.and_eq_true, List.all_eq_true] at this
  refine ⟨this.1, fun p hp => ⟨by simpa using (this.2 p hp).1, ?_⟩⟩
  exact (Option.any_eq_true _ _).1 (this.2 p hp).2

/-- A small image: one kernel whose entry is word 0x40, with streams for L, X and W at 0x50, 0x60 and 0x70, a format table of
zeros and yield point 2 with its save and restore words at 0x10 and 0x20 (R71-R73). -/
def smallImage : Runs Byte :=
  rof (natBytes 400 (([(0, 0x4B414353), (4, 1), (6, 1), (8, 96), (12, 16), (22, 0x40), (28, 0x50), (32, 0x60), (36, 0x70),
    (48, 144), (52, 80), (56, 1), (80, 2), (82, 0x10), (84, 0x20)] : List (Nat × Nat)).foldl (fun n p => n + p.2 * 2 ^ (8 * p.1)) 0))

/-- The image in slot 0. -/
def loaded (s : State) : State := { s with images := [(0, ⟨smallImage, []⟩)] }

/-- A loop level whose body is words `a` to `b`. -/
def level (a b : BitVec 16) (last t : Nat) : Loop :=
  { Loop.zero with active := true, start := a, stop := b.toNat, last := last, t := t, n := last }

/-- The C cluster with its levels. -/
def cLoops (l0 l1 : Loop) (k : Core) : Core :=
  { k with clus := k.clus.set 0 { k.clus[(0 : Fin 4)] with loops := #v[l0, l1] } }

/-- C holds. -/
def cHold (h : Hold) (k : Core) : Core := { k with clus := k.clus.set 0 { k.clus[(0 : Fin 4)] with hold := h } }

/-- A running core. -/
def running (k : Core) : Core := { k with st := .running }


/-- The first part of an answer whose second part is known. -/
theorem split_of {α β : Type} {x : α × β} {b : β} (h : x.2 = b) : ∃ t, x = (t, b) := ⟨x.1, Prod.ext rfl h⟩

/-- The same of an answer of three parts. -/
theorem split3_of {α β γ : Type} {x : α × β × γ} {b : γ} (h : x.2.2 = b) : ∃ t y, x = (t, y, b) :=
  ⟨x.1, x.2.1, Prod.ext rfl (Prod.ext rfl h)⟩

/-- A command of an operation, not yet started. -/
def cmdOf (id : Nat) (op : Instr) (args : List Nat) : Cmd :=
  ⟨id, op, 5, (0, 0, 0, 0), [], false, 0, args, [], 0, Slot.zero, none, false, .c, 0⟩

/-- A core with commands. -/
def cmds (l : List Cmd) (k : Core) : Core := { k with cmds := l }

/-- The record of a handle on its die. -/
def shp (h : Fin 8) (x : Shape) (k : Core) : Core := { k with shape := k.shape.set h x }

/-- Context 0 has the lines below 24,576 whole in core 0's block cache, and every page mapped. -/
def warm (f : Core → Core) : State :=
  mapped (on0 fun k => f { k with bc := (List.range 192).map fun i => ⟨0, i, 0, true, 0, 0⟩ })

/-- Address registers of both clusters. -/
def ar (a : Fin 16) (x : Dword) (k : Core) : Core := { k with la := k.la.set a x, wa := k.wa.set a x }

/-- A basis slot as words of this cycle read it. -/
def slt (h : Fin 16) (x : Slot) (k : Core) : Core :=
  { k with old := { k.old with slot := k.old.slot.set h x }, vis := { k.vis with slot := k.vis.slot.set h x } }

/-- A slot of one element. -/
def slot1 : Slot := { Slot.zero with rows := 1, rank := 1, kw := 1 }

/-- A readable leaf answers. -/
theorem xlate_of {x : State × Xl} {f : Leaf} (h : x.2 = .ok f) : ∃ w, x = (w, .ok f) := split_of h

theorem readAll_of {x : State × (List Nat ⊕ Nat × Nat) × List (Nat × Level)} (h : x.2.1.isLeft = true) :
    ∃ t ys l, x = (t, .inl ys, l) :=
  match x, h with
  | (t, .inl ys, l), _ => ⟨t, ys, l, rfl⟩
/-! ## States that meet the hypotheses of the statements -/

/-- StepRunsTheWord: a word of C, and one of X with S in a formed bundle. -/
theorem meets_StepRunsTheWord_c : ∃ (s : State) (h : Header) (i : Instr), s.todo = [(0, .c, false)]
    ∧ decode .c ((s.core 0).word (s.core 0).clus[clIx .c].pc) = some (h, i) ∧ linkWaits h.link .c (s.core 0).old = true
    ∧ linkOverflows h.link .c (s.core 0).old = false :=
  ⟨{ State.reset with todo := [(0, .c, false)] }, plain, .nop, by decide +kernel⟩

theorem meets_StepRunsTheWord_x : ∃ (s : State) (h : Header) (i : Instr), s.todo = [(0, .x, true)]
    ∧ decode .x ((s.core 0).word (s.core 0).clus[clIx .x].pc) = some (h, i) ∧ linkWaits h.link .x (s.core 0).old = true
    ∧ linkOverflows h.link .x (s.core 0).old = false ∧ (s.core 0).nullified = false ∧ (s.core 0).xConflict i = false
    ∧ h.sync = true :=
  ⟨{ on0 (fun k => { k with imem := [(0, 0x80000000)] }) with todo := [(0, .x, true)] }, { plain with sync := true }, .nopX,
    by decide +kernel⟩

/-- IssuingAWord: a word inside no body; the last word of instruction memory; the end of the outer and of the inner body with
slots left; the end of a level with none left, on either level. -/
theorem meets_IssuingAWord_next : State.reset.clu.inside ∧ State.reset.clu.pc ≠ 0xFFFF := by
  unfold Cluster.inside; decide +kernel

theorem meets_IssuingAWord_end :
    let s := on0 fun k => { k with clus := k.clus.set 0 { Cluster.reset with pc := 0xFFFF } }
    s.clu.inside ∧ s.clu.pc = 0xFFFF := by unfold Cluster.inside; decide +kernel

theorem meets_IssuingAWord_again : ∀ lv : Fin 2,
    let s := on0 (if lv = 0 then cLoops (level 0 0 3 1) Loop.zero else cLoops (level 0 5 3 1) (level 0 0 2 0))
    (lv = 0 → ¬((s.clu.loops[(1 : Fin 2)]).active = true ∧ (s.clu.loops[(1 : Fin 2)]).stop = s.clu.pc.toNat))
    ∧ (s.clu.loops[lv]).active = true ∧ (s.clu.loops[lv]).stop = s.clu.pc.toNat ∧ ((s.clu.loops[lv]).pf && s.csr.req) = false
    ∧ (s.clu.loops[lv]).t + 1 < (s.clu.loops[lv]).last + ((s.clu.loops[lv]).stages - 1) := by decide +kernel

theorem meets_IssuingAWord_out : ∀ lv : Fin 2,
    let s := on0 (if lv = 0 then cLoops (level 0 0 3 2) Loop.zero else cLoops (level 0 5 3 1) (level 0 0 2 1))
    (∀ v : Fin 2, v ≠ lv → ¬((s.clu.loops[v]).active = true ∧ (s.clu.loops[v]).stop = s.clu.pc.toNat))
    ∧ (s.clu.loops[lv]).active = true ∧ (s.clu.loops[lv]).stop = s.clu.pc.toNat ∧ ((s.clu.loops[lv]).pf && s.csr.req) = false
    ∧ (s.clu.loops[lv]).last + ((s.clu.loops[lv]).stages - 1) ≤ (s.clu.loops[lv]).t + 1 ∧ s.clu.pc ≠ 0xFFFF := by
  decide +kernel

/-- RegisterWords, ImmediateAndCompareWords, LongWords, TokenWords and the other statements of a word that goes on: `goes_reset`
and `goes_g`. LongWords, landing: a pending product. -/
theorem meets_LongWords :
    let s := evOf 7 [] (on0 fun k => { k with cpend := [⟨7, 42⟩] })
    s.ev.id = (7 : Fin 64).val ∧ (s.core s.ev.core).cpend.find? (·.d == 7) = some ⟨7, 42⟩ := by decide +kernel

/-- DivisionNeverTraps: a zero divisor; −2⁶³ divided by −1. -/
theorem meets_DivisionNeverTraps_zero : (on0 (gs [(1, 9)])).goesTo at1 ∧ (on0 (gs [(1, 9)])).rg 2 = 0 := ⟨rfl, by decide +kernel⟩

theorem meets_DivisionNeverTraps_min :
    let s := on0 (gs [(1, 0x8000000000000000), (2, 0xFFFFFFFFFFFFFFFF)])
    s.goesTo at1 ∧ (s.rg 1).toInt = -2 ^ 63 ∧ (s.rg 2).toInt = -1 := ⟨rfl, by decide +kernel⟩

/-- LoopWords: a legal LOOP of one iteration, of the most, of none, and nested in an outer level; too many iterations; a level
that is active; an inner level that reaches past the outer; a yield point that is there, and one that is not. -/
theorem meets_LoopWords_legal : ∀ j : Fin 4,
    let s := on0 (gs [(1, (#v[1, 0xFFFFFFF8, 0, 0x500000003] : Vector Dword 4)[j])])
    (s.rg 1).toNat % 2 ^ 32 ≤ 0xFFFFFFF8 ∧ (s.clu.loops[(0 : Fin 2)]).active = false
    ∧ (s.clu.loops[(1 : Fin 2)]).active = false ∧ s.clu.pc.toNat < 0xFFFF := by decide +kernel

theorem meets_LoopWords_nested :
    let s := on0 fun k => gs [(1, 2)] (cLoops (level 0 3 4 0) Loop.zero k)
    (s.clu.loops[(1 : Fin 2)]).active = false ∧ (s.clu.loops[(0 : Fin 2)]).active = true
    ∧ (s.clu.loops[(0 : Fin 2)]).start.toNat ≤ s.clu.pc.toNat + 1 ∧ s.clu.pc.toNat + 3 ≤ (s.clu.loops[(0 : Fin 2)]).stop
    ∧ ¬(s.clu.pc.toNat + 4 ≤ (s.clu.loops[(0 : Fin 2)]).stop) := by decide +kernel

theorem meets_LoopWords_trap :
    0xFFFFFFF8 < ((on0 (gs [(1, 0xFFFFFFF9)])).rg 1).toNat % 2 ^ 32
    ∧ ((on0 (cLoops (level 0 3 4 0) Loop.zero)).clu.loops[(0 : Fin 2)]).active = true
    ∧ ((loaded State.reset).yieldRec 0 2).isSome = true ∧ ((loaded State.reset).yieldRec 0 3).isSome = false := by decide +kernel

/-- BreakWords: an active level, with gc not 0 and with gc 0; an inactive one. -/
theorem meets_BreakWords :
    let s := on0 fun k => gs [(1, 1)] (cLoops (level 0 3 4 0) Loop.zero k)
    (s.clu.loops[(0 : Fin 2)]).active = true ∧ s.rg 1 ≠ 0 ∧ s.rg 2 = 0 ∧ (s.clu.loops[(1 : Fin 2)]).active = false
    ∧ (s.clu.next s.csr.req).isSome = true := by decide +kernel

/-- WaitWords and TokenWords: a token in each state. -/
theorem meets_WaitWords : ∀ t : TokSt,
    ((on0 (tk 5 ⟨t, 0x62, none⟩)).tok 5).st = t ∧ (on0 (tk 5 ⟨t, 0x62, none⟩)).goesTo at1 :=
  fun t => by cases t <;> exact ⟨by decide +kernel, rfl⟩

/-- BranchesAndCalls: targets at either end of instruction memory and beyond both. -/
theorem meets_BranchesAndCalls_targets :
    (((0 : BitVec 16).toNat : Int) = State.reset.clu.pc.toNat + (0 : BitVec 18).toInt)
    ∧ (((0xFFFF : BitVec 16).toNat : Int) = State.reset.clu.pc.toNat + (0xFFFF : BitVec 18).toInt)
    ∧ (State.reset.clu.pc.toNat : Int) + (0x3FFFF : BitVec 18).toInt < 0
    ∧ 0xFFFF < (State.reset.clu.pc.toNat : Int) + (0x10000 : BitVec 18).toInt
    ∧ ((on0 (gs [(1, 0xFFFF)])).rg 1).toNat = (0xFFFF : BitVec 16).toNat ∧ 0xFFFF < ((on0 (gs [(1, 0x10000)])).rg 1).toNat := by
  decide +kernel

/-- A core with a valid branch-target register and `n` return addresses, the spill area mapped. -/
def calls (n sc : Nat) : State :=
  mapped (on0 fun k => { k with
    b := k.b.set 1 ⟨0x30, true, 1⟩
    rs := List.replicate n 7
    sc := sc })

theorem meets_BranchesAndCalls_branch :
    let s := on0 fun k => { gs [(2, 1)] k with b := k.b.set 1 ⟨0x30, true, 1⟩ }
    s.goesTo at1 ∧ (s.me.b[(1 : Fin 8)]).valid = true ∧ s.rg 2 ≠ 0 ∧ s.rg 3 = 0 ∧ (s.me.b[(0 : Fin 8)]).valid = false :=
  ⟨rfl, by decide +kernel⟩

theorem meets_BranchesAndCalls_call : ∀ n ∈ [0, 15],
    ((calls n 0).me.b[(1 : Fin 8)]).valid = true ∧ (calls n 0).me.rs.length < 16 := by decide +kernel

theorem meets_BranchesAndCalls_spill : ∃ t x, ((calls 16 4095).me.b[(1 : Fin 8)]).valid = true
    ∧ (calls 16 4095).me.rs.length = 16 ∧ (calls 16 4095).me.sc < 4096
    ∧ (calls 16 4095).engineWrite (calls 16 4095).csr.cid ((calls 16 4095).csr.spillbase.toNat + 16 * (calls 16 4095).me.sc) 16
        (packRs ((calls 16 4095).me.rs.take 8)) (calls 16 4095).stamp = (t, .inl x) :=
  ⟨_, 0, by decide +kernel, by decide +kernel, by decide +kernel, Prod.ext rfl (by decide +kernel)⟩

theorem meets_BranchesAndCalls_full : 16 ≤ (calls 16 4096).me.rs.length ∧ (calls 16 4096).me.sc = 4096 := by decide +kernel

theorem meets_BranchesAndCalls_ret : (calls 2 0).me.rs = [7] ++ [7] := by decide +kernel

/-- A return that fills: the eight entries that a spill left stand in memory. -/
def filled : State := { calls 0 1 with mem := Memory.write [] 0 (packRs [1, 2, 3, 4, 5, 6, 7, 8]) 16 }

theorem meets_BranchesAndCalls_fill : filled.me.rs = [] ∧ 0 < filled.me.sc
    ∧ ∃ t, filled.engineRead filled.csr.cid (filled.csr.spillbase.toNat + 16 * (filled.me.sc - 1)) 16
        = (t, .inl (packRs ([1, 2, 3, 4, 5, 6, 7] ++ [8]))) :=
  ⟨by decide +kernel, by decide +kernel, split_of (by decide +kernel)⟩

theorem meets_BranchesAndCalls_empty : State.reset.me.rs = [] ∧ State.reset.me.sc = 0 := by decide +kernel

/-- TrapsAndReturn: a breakpoint and a software trap; a trap with a handler installed; RETT with no handler, with one that
resumes, with one that does not; a handler whose waits are met. -/
theorem meets_TrapsAndReturn_trap : State.reset.goesTo at1 ∧ State.reset.me.trap = none ∧ (0x1FF : BitVec 9).getLsbD 8 = true
    ∧ (0x0FF : BitVec 9).getLsbD 8 = false := ⟨rfl, by decide +kernel⟩

theorem meets_TrapsAndReturn_taken : ∀ cause ∈ [causeSoft, 0x0F], ∃ (s : State) (r : TrapReq), r.cause = cause ∧ (s.core 0).trap = some r ∧ (s.core 0).live = true
    ∧ (s.core 0).saving = false ∧ (s.core 0).shadow = none ∧ handled r.cause = true
    ∧ (s.core 0).vis.csr.trapvec.extractLsb' 0 16 ≠ 0 :=
  fun cause h => ⟨on0 fun k => cHold .run { running k with
      trap := some ⟨cause, 1, .c, 0, 9, 0⟩
      vis := { k.vis with csr := { k.vis.csr with trapvec := 0x0000000000500040 } } },
    ⟨cause, 1, .c, 0, 9, 0⟩, rfl, rfl, rfl, rfl, rfl, by
      simp only [List.mem_cons, List.not_mem_nil, or_false] at h; rcases h with rfl | rfl <;> decide +kernel⟩

/-- A core in a handler entered for a cause. -/
def inHandler (cause : Nat) (h : Hold) : State :=
  on0 fun k => { running k with
    clus := (Vector.replicate 4 Cluster.reset).set 0 { Cluster.reset with hold := h }
    shadow := some ⟨k.clus, k.vis.ring, [3], 0, 1, k.vis.sh, 0, cause⟩ }

theorem meets_TrapsAndReturn_rett : State.reset.me.shadow = none
    ∧ (∃ h, (inHandler causeSoft .run).me.shadow = some h ∧ resumable h.cause = true)
    ∧ (((inHandler causeSoft .run).holds .rett).clu.next ((inHandler causeSoft .run).holds .rett).csr.req).isSome = true
    ∧ (∃ h, (inHandler causeIllegal .run).me.shadow = some h ∧ resumable h.cause = false) :=
  ⟨by decide +kernel, ⟨_, rfl, by decide +kernel⟩, by decide +kernel, ⟨_, rfl, by decide +kernel⟩⟩

theorem meets_TrapsAndReturn_resume : let k := (inHandler causeSoft .rett).core 0
    k.shadow.isSome = true ∧ k.rettReady = true ∧ k.ownShapes = [] ∧ ∀ g : Fin 8, (k.shape[g]).queue = [] := by decide +kernel

/-- CsrWordsAndMap: a write that is bad and one that is not, of FTROW and, with a switch recorded, of STEP. -/
theorem meets_CsrWordsAndMap : csrListed 0x009 = true ∧ csrListed 0x002 = true ∧ csrListed 0x057 = true
    ∧ ((on0 (gs [(1, 3)])).rg 1).toNat % 4 = 3 ∧ ((on0 (gs [(1, 6)])).rg 1).toNat % 4 ≠ 3
    ∧ (∃ h : Fin 16, ((on0 fun k => { k with old := { k.old with slot := k.old.slot.set 0 { Slot.zero with pvalid := true } } }).me.old.slot[h]).pvalid = true)
    ∧ ¬∃ h : Fin 16, (State.reset.me.old.slot[h]).pvalid = true := by decide +kernel

/-- HoldingWords: each word with S and without, in a domain and outside it; a gang that has arrived at its REALIGNs. -/
theorem meets_HoldingWords : ((turnOf .c true (loaded State.reset)).yieldRec 0 2).isSome = true
    ∧ (turnOf .c true State.reset).turn.hdr.sync = true ∧ State.reset.turn.hdr.sync = false
    ∧ (State.reset.yieldRec 0 2) = none ∧ (∀ h : Fin 8, (State.reset.me.shape[h]).queue = [])
    ∧ State.reset.csr.dmr.extractLsb' 0 16 ≠ 0xFFFF
    ∧ (on0 fun k => { k with old := { k.old with csr := { k.old.csr with dmr := 0xFFFF } } }).csr.dmr.extractLsb' 0 16 = 0xFFFF := by
  decide +kernel

/-- Two cores of a gang, each at its REALIGN. -/
def realigning (t0 t1 : Nat) : State :=
  let k (c : Core) (t : Nat) : Core := cHold (.realign t 5) { running c with launch := { c.launch with gang := 3 } }
  (State.reset.modCore 0 (k · t0)).modCore 1 (k · t1)

theorem meets_HoldingWords_release : ∀ p ∈ [(64, 64), (64, 65), (63, 63)],
    (realigning p.1 p.2).realignReady 0 = true ∧ (1 : Fin 64) ∈ (realigning p.1 p.2).gangOf 0
    ∧ (((realigning p.1 p.2).core 0).realignT).map (·.1) = some p.1
    ∧ (((realigning p.1 p.2).core 1).realignT).map (·.1) = some p.2 ∧ ((realigning p.1 p.2).core 1).trap = none := by
  decide +kernel


/-- Probes, a word: no bytes, at the top of the space; some, up to its end; past it; a busy queue. -/
theorem meets_Probes_word :
    (∀ p ∈ [(2 ^ 48, 0), (2 ^ 48 - 1, 1)],
      let s := on0 (gs [(1, BitVec.ofNat 64 p.1), (2, BitVec.ofNat 64 p.2)])
      (s.rg 1).toNat + (s.rg 2).toNat ≤ 2 ^ 48 ∧ ((s.rg 2).toNat = 0 ↔ p.2 = 0) ∧ (s.clu.next s.csr.req).isSome = true
      ∧ s.me.lEmpty = true ∧ s.me.wEmpty = true ∧ s.me.cmds = [])
    ∧ (let s := on0 (gs [(1, 2 ^ 48), (2, 1)])
       2 ^ 48 < (s.rg 1).toNat + (s.rg 2).toNat)
    ∧ (on0 (cmds [cmdOf 0 (.tkJoin 5 6 7) []])).me.cmds ≠ [] := by decide +kernel

/-- A pin count, and a PROBE that waits for its answer. -/
def probing (count mode : Nat) (pin : Bool) : State :=
  { mapped (on0 fun k => cHold (.probe 0 1 mode pin) (running k)) with pins := [⟨0, 0, 0, true, count⟩] }

theorem meets_Probes_pins : (probing 1 1 true).pins.Pairwise
    (fun x y => (x.cid, x.core, x.page, x.big) ≠ (y.cid, y.core, y.page, y.big)) := List.pairwise_singleton _ _

theorem meets_Probes_complete : ∀ n ∈ [254, 255],
    let s := probing n 3 true
    let r := s.probePages 0 (probeNeed 3) (pagesOf 0 1)
    let w := (r.1.modCore 0 fun k => k.setHold .c .run).turnTo 0 .c
    (s.core 0).holdOf .c = .probe 0 1 3 true ∧ (s.core 0).live = true ∧ r.2.2 = none
    ∧ w.pinFull 0 0 r.2.1 = (n == 255) ∧ ((w.pinAll 0 0 r.2.1).clu.next (w.pinAll 0 0 r.2.1).csr.req).isSome = true := by
  decide +kernel

theorem meets_Probes_suspend : ∃ t ps, (on0 fun k => cHold (.probe 0 1 1 false) (running k)).probePages 0 (probeNeed 1)
    (pagesOf 0 1) = (t, ps, some (0, causeProbe)) := split3_of (by decide +kernel)

/-- A page that does not meet a PROBE of a core in a save sequence, and one whose install is refused (R310), with no handler
and in one. -/
theorem meets_Probes_fault :
    let k (ph : Phase) : Core → Core := fun k => { cHold (.probe 0 1 1 false) (running k) with phase := ph }
    let s : State := on0 (k (.saving 2))
    let w : State := shared (on0 (k .normal))
    let h : State := shared (on0 fun c => { k .normal c with shadow := some ⟨c.clus, c.vis.ring, [], 0, 0, c.vis.sh, 0, 1⟩ })
    (h.core 0).shadow.isSome = true ∧ (h.probePages 0 (probeNeed 1) (pagesOf 0 1)).2.2 = some (0, causeSynonym)
    ∧ (∀ x ∈ [s, w, h], x.ending 0 = false ∧ x.over 0 = false) ∧ (s.core 0).saving = true ∧ (s.core 0).holdOf .c = .probe 0 1 1 false ∧ (s.core 0).live = true
    ∧ (s.probePages 0 (probeNeed 1) (pagesOf 0 1)).2.2 = some (0, causeProbe)
    ∧ (w.probePages 0 (probeNeed 1) (pagesOf 0 1)).2.2 = some (0, causeSynonym) ∧ (w.core 0).shadow = none := by decide +kernel

/-- Barriers: a barrier that every member has issued, one that a member has not, and one of level 3 with arrivals enough. -/
theorem meets_Barriers_complete : ∀ n ∈ [3, 4],
    let s := on0 fun k => { cHold (.domsync 1 n) (running k) with doms := k.doms.set 1 3 }
    (s.core 0).holdOf .c = .domsync 1 n ∧ s.members 0 1 = [0] ∧ ((s.countsOf 0 0).2[(1 : Fin 4)] < n ↔ n = 4) := by decide +kernel

theorem meets_Barriers_level3 :
    let s := { on0 (fun k => { cHold (.domsync 3 1) (running k) with
      doms := k.doms.set 3 1, launch := { k.launch with d3n := 2 } }) with arrivals := [(0, 1, 0), (0, 1, 1)] }
    (s.core 0).holdOf .c = .domsync 3 1 ∧ s.formsL3 0 1 = false ∧ ((s.core 0).vis.csr.dom 3, 1, s.dev) ∈ s.arrivals
    ∧ (s.core 0).launch.d3n.toNat ≤ s.arrived ((s.core 0).vis.csr.dom 3) 1 := by decide +kernel

/-- A level-3 barrier that the launch of core 0 has formed and that has completed; one that it forms. -/
theorem meets_Barriers_formed :
    let s (l : List (BitVec 16 × Nat × Bool)) (a : List (BitVec 16 × Nat × Nat)) : State :=
      { on0 (fun k => { cHold (.domsync 3 1) (running k) with doms := k.doms.set 3 1, run := 7 }) with
        runs := [⟨7, 0, 1, .launch, 0, 0, .running, [], 0, [], [], 0, 0, l⟩], arrivals := a }
    (s [(0, 1, true)] []).l3Of 0 1 = some true ∧ (s [(0, 1, true)] []).formsL3 0 1 = false ∧ (s [] []).formsL3 0 1 = true
    ∧ (∃ r ∈ (s [] []).runs, r.id = ((s [] []).core 0).run) ∧ ((0 : BitVec 16), 1, (s [] []).dev) ∈ (s [] [(0, 1, 0)]).arrivals
    ∧ ((s [] []).core 0).vis.csr.dom 3 = 0 := by decide +kernel

/-- A step switch: slot 0 is due at step 1 and ready, slot 1 waits for step 2. -/
theorem meets_Barriers_switch :
    let ss := (State.reset.me.vis.slot.set 0 { Slot.zero with pvalid := true, pready := true, swstep := 1 }).set 1
      { Slot.zero with pvalid := true, swstep := 2 }
    let s := on0 fun k => { cHold .stepadv (running k) with vis := { k.vis with slot := ss } }
    let k := s.core 0
    let w := (s.modCore 0 fun k => k.setHold .c .run).turnTo 0 .c
    k.live = true ∧ k.holdOf .c = .stepadv
    ∧ (∀ h : Fin 16, (k.vis.slot[h]).pvalid = true → (k.vis.slot[h]).swstep ≤ k.vis.csr.step + 1 →
        (k.vis.slot[h]).pready = true ∧ (k.vis.slot[h]).pfail = false)
    ∧ ¬(k.vis.slot[(1 : Fin 16)]).swstep ≤ k.vis.csr.step + 1 ∧ (w.clu.next w.csr.req).isSome = true := by decide +kernel

/-- TokenWords, a join: see also `meets_WaitWords`, and for the commands of C `meets_Shapes_alloc`, `meets_Shapes_reshape`,
`meets_BasisSlots_issue`, `meets_BasisSlots_store`, `meets_NimbusCommands_words`, `_switch`, `_rot` and `_code`. -/
theorem meets_TokenWords :
    let s := on0 fun k => tk 6 ⟨.done, 0, none⟩ (tk 7 ⟨.failed, 1, none⟩ k)
    s.goesTo at1 ∧ (s.tok 5).st ≠ .pending ∧ (s.tok 6).st ≠ .empty ∧ (s.tok 7).st ≠ .empty ∧ (s.tok 8).st = .empty :=
  ⟨rfl, by decide +kernel⟩

/-- LaunchAndEnd: a quad of the last priority, and one past it; one with no gang. -/
theorem meets_LaunchAndEnd_launch :
    let s (p g : Dword) := on0 (gs [(2, g), (3, p)])
    (s 3 1).goesTo at1 ∧ ((s 3 1).tok 5).st ≠ .pending ∧ ((s 3 1).quad 0).2.2.1 ≠ 0 ∧ ((s 3 1).quad 0).2.2.2.toNat < 4
    ∧ 4 ≤ ((s 4 1).quad 0).2.2.2.toNat ∧ ((s 3 0).quad 0).2.2.1 = 0 := ⟨rfl, by decide +kernel⟩

/-- A core at its KEND, with nothing outstanding. -/
def ending : State := mapped (on0 fun k => cHold (.kend 5) (running k))

/-- A core at its KEND whose dirty line has no translation; one that has a load outstanding. -/
theorem meets_LaunchAndEnd_stuck :
    let s := on0 fun k => cHold (.kend 5) { running k with bc := [⟨0, 1, 0xAB00, false, 2, 0⟩] }
    s.kendReady 0 = true ∧ (∃ y ∈ (s.kendLines 0).2, (s.kendLines 0).1.refusesLine y.1 y.2 = true)
    ∧ State.reset.kendReady 0 = false := by decide +kernel

/-- The same core, its end after a late store fault on its way. -/
theorem meets_LaunchAndEnd_late :
    let s := { ending with agenda := [⟨70, .contextEnd, ⟨0, 0, [0, 0, causeLate], []⟩⟩] }
    s.kendReady 0 = true ∧ (s.kendLines 0).2 = []
    ∧ ((s.kendLines 0).1.kendCheck (s.kendLines 0).2).endsLate 0 = true := by decide +kernel

/-- A dirty line of the core that passes its check. -/
theorem meets_LaunchAndEnd_clean :
    let s := mapped (on0 fun k => cHold (.kend 5) { running k with bc := [⟨0, 1, 0xAB00, false, 2, 0⟩] })
    s.kendReady 0 = true ∧ (s.kendLines 0).2 = [(0, 1)]
    ∧ ¬(∃ y ∈ (s.kendLines 0).2, (s.kendLines 0).1.refusesLine y.1 y.2 = true)
    ∧ ((s.kendLines 0).1.kendCheck (s.kendLines 0).2).endsLate 0 = false := by decide +kernel

theorem meets_LaunchAndEnd_end : ending.kendReady 0 = true ∧ (∀ l ∈ (ending.core 0).bc, l.dirty = 0)
    ∧ (ending.kendLines 0).2 = [] ∧ ((ending.kendLines 0).1.kendCheck []).endsLate 0 = false
    ∧ stampedLines (ending.rdcOf (zIdx 0)) 0 0 = [] ∧ stampedLines ending.home 0 0 = []
    ∧ ∃ w, State.engineWrite { ending with
        pins := ending.pins.filter fun p => !(p.cid == (ending.core 0).vis.csr.cid && p.core == 0) }
      0 0 8 (ending.core 0).completion (stampOf 0 0 (ending.core 0).seqs[(3 : Fin 15)]) = (w, .inl 0) :=
  ⟨by decide +kernel, by decide +kernel, by decide +kernel, by decide +kernel, by decide +kernel, by decide +kernel,
    split_of (by decide +kernel)⟩

/-- Shapes: a request of the last legal value and one past it; a handle in each state. -/
theorem meets_Shapes_alloc :
    (∀ x : ShSt, ((on0 (hs 3 x)).me.old.sh[(3 : Fin 8)]) = x) ∧ ((on0 (gs [(1, 0x1FFF)])).rg 1).toNat < 2 ^ 13
    ∧ 2 ^ 13 ≤ ((on0 (gs [(1, 0x2000)])).rg 1).toNat ∧ (State.reset.tok 5).st ≠ .pending :=
  ⟨fun x => by cases x <;> decide +kernel, by decide +kernel⟩

/-- Two live handles that meet: 2 by 3 cells beside 2 by 2. -/
def beside (k : Core) : Core :=
  shp 4 { Shape.zero with top := 1, left := 4, d := 2, w := 2 } (shp 3 { Shape.zero with top := 1, left := 1, d := 2, w := 3 } k)

/-- Two shapes that make a rectangle, one above the other and side by side, and two that do not. -/
theorem meets_Shapes_join :
    let g (t l d w : Nat) : Shape := { Shape.zero with top := t, left := l, d := d, w := w }
    joinRect (g 3 2 2 4) (g 1 2 2 4) = some (1, 2, 4, 4) ∧ joinRect (g 1 2 3 1) (g 1 3 3 2) = some (1, 2, 3, 3)
    ∧ joinRect (g 1 2 3 1) (g 2 3 3 2) = none := by decide +kernel

theorem meets_Shapes_reshape :
    (∀ b : Fin 2,
      let s := on0 fun k => gs [(1, if b = 0 then 2 else 5)] (hs 3 .live (beside k))
      let v := s.holds (.reshape s.nextId)
      let x := (s.rg 1).toNat
      s.me.old.sh[(3 : Fin 8)] = .live ∧ s.me.old.sh[(4 : Fin 8)] = .free ∧ x < 16 ∧ 0 < x / 2 % 8
      ∧ x / 2 % 8 < (if x % 2 = 0 then (s.me.shape[(3 : Fin 8)]).d else (s.me.shape[(3 : Fin 8)]).w)
      ∧ (v.clu.next v.csr.req).isSome = true)
    ∧ (let s := on0 fun k => hs 4 .live (hs 3 .live (beside k))
       joinRect (s.me.shape[(3 : Fin 8)]) s.me.shape[(4 : Fin 8)] = some (1, 1, 2, 5))
    ∧ joinRect { Shape.zero with d := 2, w := 2 } Shape.zero = none := by decide +kernel

/-- A rectangle found by hint, found by search, and none. -/
theorem meets_Shapes_find : findRect [] 0x1000 = some (0, 0) ∧ findRect [(0, (0, 0))] 0x1000 = some (0, 2)
    ∧ findRect [(0, (0, 0))] 0x3F = none := by decide +kernel

/-- ShapeEvents: each event's command, its rectangle found and not found, its queue empty and not, its report good and bad. -/
theorem meets_ShapeEvents_alloc :
    let s (x : Nat) : State := evOf 9 [x] (on0 (cmds [cmdOf 9 (.shapeAlloc 5 1 3) [x]]))
    (∀ x ∈ [0, 0x20], ((s x).core 0).cmd (s x).ev.id = some (cmdOf 9 (.shapeAlloc 5 1 3) [x]) ∧ ((s x).arg 0 = 0 ↔ x = 0))
    ∧ findRect (s 0x3F).cells[(cumIdx 0)] 0x3F = some (0, 0)
    ∧ findRect ({ s 0x3F with cells := (s 0x3F).cells.set 0 [(0, (1, 0))] } : State).cells[(cumIdx 0)] 0x3F = none := by
  decide +kernel

theorem meets_ShapeEvents_drain :
    let s (q : List MCmd) (op : Instr) (l : List Nat) : State := evOf 9 [] (on0 fun k =>
      cmds [cmdOf 9 op l] (beside (shp 3 { Shape.zero with queue := q } k)))
    (∀ p ∈ [(Instr.shapeFree 5 3, []), (.shapeCut 5 1 4 3, [0, 1]), (.shapeCut 5 1 4 3, [1, 2]), (.shapeChain 5 4 3, [])],
      ((s [] p.1 p.2).core 0).cmd 9 = some (cmdOf 9 p.1 p.2) ∧ (cmdOf 9 p.1 p.2).chain = 0
      ∧ (cmdOf 9 p.1 p.2).at_ ≤ (s [] p.1 p.2).zc ∧ ((((s [] p.1 p.2).core 0).shape[(3 : Fin 8)]).queue = [])
      ∧ ((((s [] p.1 p.2).core 0).shape[(4 : Fin 8)]).queue = []))
    ∧ joinRect (((s [] .nop []).core 0).shape[(3 : Fin 8)]) (((s [] .nop []).core 0).shape[(4 : Fin 8)]) = some (1, 1, 2, 5) := by
  decide +kernel

theorem meets_ShapeEvents_waits :
    let s := evOf 9 [] (on0 fun k => cmds [cmdOf 9 (.shapeFree 5 3) []] (shp 3 { Shape.zero with queue :=
      [⟨0, .mxDrain 3, Vector.replicate 8 0, 0, Slot.zero, Slot.zero, 0, 0, 0, true, false, 0, 0, []⟩] } k))
    (s.core 0).cmd 9 = some (cmdOf 9 (.shapeFree 5 3) []) ∧ ((s.core 0).shape[(3 : Fin 8)]).queue ≠ [] := by decide +kernel

/-- CommandBlocks: seeds of 16 bits and of 17; a value that keeps the rules and one that breaks them. -/
theorem meets_CommandBlocks_words :
    cbRule 0 ((on0 (gs [(1, 0x0001000100000001)])).rg 1) (on0 (gs [(1, 0x0001000100000001)])).ftEntry = none
    ∧ cbRule 0 (State.reset.rg 1) State.reset.ftEntry = some 0x02
    ∧ ((on0 (gs [(1, 0xFFFF)])).rg 1).toNat < 2 ^ 16 ∧ 2 ^ 16 ≤ ((on0 (gs [(1, 0x10000)])).rg 1).toNat := by decide +kernel

/-- The rules of R189 where they meet: each dimension at its least and its most, an operand's group, offset and pitch, tiles. -/
theorem meets_CommandBlocks_rules :
    let f (x : Dword) (lo n : Nat) : Nat := x.toNat / 2 ^ lo % 2 ^ n
    (∀ j : Fin 3, let x : Dword := (#v[0x0001000100000001, 0x0400040000100000, 0x0400041F00100000] : Vector Dword 3)[j]
      (f x 21 11 = 0 ∧ f x 43 5 = 0 ∧ f x 63 1 = 0) ∧ (1 ≤ f x 0 21 ∧ f x 0 21 ≤ 2 ^ 20)
      ∧ (1 ≤ f x 48 11 ∧ f x 48 11 ≤ 1024) ∧ ((1 ≤ f x 32 11 ∧ f x 32 11 ≤ 1024) ↔ j ≠ 2))
    ∧ (∀ j : Fin 2, let x : Dword := (#v[0x0000000000400000, 0x8000000000000001] : Vector Dword 2)[j]
      f x 21 11 ≠ 0 ∨ f x 43 5 ≠ 0 ∨ f x 63 1 ≠ 0)
    ∧ (let x : Dword := 0x0001002100000001
       f x 32 11 % 32 ≠ 0 ∧ 11 ≤ (13 : Nat) % 16 ∧ (13 : Nat) % 16 ≤ 13)
    ∧ (∀ j : Fin 2, let x : Dword := (#v[0x0000004000000000, 0x0000FFC0001FFFC0] : Vector Dword 2)[j]
      f x 22 2 = 0 ∧ f x 56 8 = 0 ∧ f x 21 1 = 0 ∧ f x 0 21 % 64 = 0 ∧ f x 24 16 % 64 = 0)
    ∧ (let x : Dword := 0x2C000B
       f x 22 10 = 0 ∧ f x 0 4 = 11 ∧ f x 18 4 = 11) := by decide +kernel

/-- BasisSlots, a transfer: a token, an address, a slot and pages that admit it; one of each that does not. -/
theorem meets_BasisSlots_issue :
    let s := mapped (on0 (gs [(1, 64), (2, 48)]))
    s.goesTo at1 ∧ s.admits (.hbload 3 1 5) ∧ s.admits (.hbstore 3 1 5) ∧ (s.tok 5).st ≠ .pending ∧ (s.rg 1).toNat % 32 = 0
    ∧ s.me.namesSlot 3 = false ∧ (s.rg 2).toNat % 32 ≠ 0
    ∧ (on0 (cmds [cmdOf 9 (.nbrot 5 8 3) []])).me.namesSlot 3 = true :=
  ⟨rfl, admits_of _ _ (by decide +kernel), admits_of _ _ (by decide +kernel), by decide +kernel⟩

/-- A transfer under way, with a slot image in memory. -/
def moving (op : Instr) (x : Slot) : State :=
  { mapped (evOf 9 [] (on0 (cmds [{ cmdOf 9 op [64] with slot := x }]))) with mem := Memory.write [] 64 (x.image + 0x3F8 * 2 ^ 260) 34 }

theorem meets_BasisSlots_load : ∀ x ∈ [slot1, Slot.zero],
    let s := moving (.hbload 3 1 5) x
    let r := s.engineRead 0 64 32
    Rising (s.core 0).basis ∧ ((s.core 0).cmd 9).isSome = true ∧ r.2 = .inl x.image
    ∧ (Slot.ofImage x.image).imageOk = (x == slot1)
    ∧ (x = slot1 → (r.1.engineRead 0 96 ((Slot.ofImage x.image).imageBytes - 32)).2 = .inl 0x3F80) := by
  unfold Rising; decide +kernel

theorem meets_BasisSlots_store : ∃ t n, (moving (.hbstore 3 1 5) slot1).engineWrite 0 64 slot1.imageBytes (slot1.image + 2 ^ 256 *
      bytesNat ((basisRead [] (slot1.region slot1.gen.toNat) slot1.elems).map (natBytes 2)).flatten)
    (stampOf 0 0 ((moving (.hbstore 3 1 5) slot1).core 0).seqs[(3 : Fin 15)]) = (t, .inl n) :=
  (split_of (b := Sum.inl 0) (by decide +kernel)).imp fun _ h => ⟨0, h⟩

/-- NimbusCommands, a word: its quad at g4, of one row; reserved bits of its auxiliary word; a switch of a later step, and not. -/
def nimbus (aux d x : Dword) : State := mapped (on0 fun k => gs [(4, x), (5, 64), (6, d), (7, aux)] (slt 3 slot1 k))

theorem meets_NimbusCommands_words :
    (∀ d ∈ [(0 : Nat), 128], ∀ i ∈ (if d = 0 then [Instr.nbqr 5 4 3] else [.nbrot 5 4 3, .nbcarry 5 4 true 3, .nbcarry 5 4 false 3]),
      let s := nimbus 0x100000000 (BitVec.ofNat 64 d) 0
      let x := s.quadAt 4
      (s.clu.next s.csr.req) = some at1 ∧ (s.tok 5).st ≠ .pending ∧ nbAuxOk x.2.2.2 = true ∧ auxToks x.2.2.2 = []
      ∧ x.1.toNat % 4 = 0 ∧ x.2.1.toNat % 4 = 0 ∧ x.2.2.1.toNat % 4 = 0 ∧ x.2.2.2.toNat / 2 ^ 32 % 2 ^ 24 ≠ 0
      ∧ (s.me.old.slot[(3 : Fin 16)]).rank.toNat ≤ (s.me.old.slot[(3 : Fin 16)]).kw.toNat
      ∧ pagesOk s i = true)
    ∧ nbAuxOk 0x80 = false := by decide +kernel

theorem meets_NimbusCommands_switch :
    let s (x : Dword) : State := on0 (gs [(4, x)])
    (s 1).admits (.nbswitch 5 4 3) ∧ (s 1).goesTo at1 ∧ ((s 1).quadAt 4).2.1 = 0 ∧ ((s 1).quadAt 4).2.2.1 = 0
    ∧ ((s 1).quadAt 4).2.2.2.toNat / 2 ^ 32 % 2 ^ 24 = 0 ∧ (s 1).csr.step < ((s 1).quadAt 4).1
    ∧ ¬(s 0).csr.step < ((s 0).quadAt 4).1 :=
  ⟨admits_of _ _ (by decide +kernel), rfl, by decide +kernel⟩

/-- A Nimbus command under way on matrices of one element. -/
def turnCmd (op : Instr) : Cmd := { cmdOf 9 op [] with slot := slot1, quad := (0, 64, 128, 0x100000000), chain := 1 }

def turning (op : Instr) (x : Nat) : State :=
  { mapped (evOf 9 [] (on0 (cmds [turnCmd op]))) with mem := Memory.write (Memory.write [] 0 x 4) 64 x 4 }

theorem meets_NimbusCommands_qr :
    ((turning (.nbqr 5 4 3) 0x3F800000).core 0).cmd 9 = some (turnCmd (.nbqr 5 4 3))
    ∧ (∃ t, (turning (.nbqr 5 4 3) 0x3F800000).nimbusRun 0 (turnCmd (.nbqr 5 4 3))
        = (t, .inl (.inl ([(64, [0x3F800000])], [0x3F80]))))
    ∧ ((((turning (.nbqr 5 4 3) 0x3F800000).nimbusRun 0 (turnCmd (.nbqr 5 4 3))).1).engineWrite 0 64 4 0x3F800000
        (stampOf 0 0 ((turning (.nbqr 5 4 3) 0x3F800000).core 0).seqs[(3 : Fin 15)])).2.isLeft = true :=
  ⟨by decide +kernel, split_of (by decide +kernel), by decide +kernel⟩

theorem meets_NimbusCommands_rot :
    ((turning (.nbrot 5 4 3) 0x3F800000).core 0).cmd 9 = some (turnCmd (.nbrot 5 4 3))
    ∧ (∃ t, (turning (.nbrot 5 4 3) 0x3F800000).nimbusRun 0 (turnCmd (.nbrot 5 4 3)) = (t, .inl (.inl ([(128, [0x3F800000])], []))))
    ∧ ((((turning (.nbrot 5 4 3) 0x3F800000).nimbusRun 0 (turnCmd (.nbrot 5 4 3))).1).engineWrite 0 128 4 0x3F800000
        (stampOf 0 0 ((turning (.nbrot 5 4 3) 0x3F800000).core 0).seqs[(3 : Fin 15)])).2.isLeft = true :=
  ⟨by decide +kernel, split_of (by decide +kernel), by decide +kernel⟩

theorem meets_NimbusCommands_code :
    ((turning (.nbqr 5 4 3) 0).nimbusRun 0 (turnCmd (.nbqr 5 4 3))).2 = .inl (.inr 0x26)
    ∧ ((turning (.nbqr 5 4 3) 0).core 0).basisReady = some (turnCmd (.nbqr 5 4 3)) := by decide +kernel

theorem meets_NimbusCommands_rotation : nbrotRun 1 1 128 0x3F800000 0x40000000 = .inl ([(128, [0x40000000])], []) := by
  decide +kernel

/-- NBQR of one element and of a zero; of an infinity; past its rows. NBCARRY with RESET and without, and of a NaN. -/
theorem meets_NimbusCommands_numerics :
    nbqrRun slot1 1 64 0x40000000 = .inl ([(64, [0x3F800000])], [0x3F80]) ∧ slot1.rank.toNat ≤ slot1.kw.toNat ∧ 0 < slot1.kw.toNat
    ∧ ¬(1 < slot1.rowoff.toNat + slot1.rows.toNat ∨ 524288 < slot1.region (slot1.gen.toNat + 1) + slot1.elems)
    ∧ finite32 0 = true ∧ finite32 0x7F800000 = false ∧ 0 < slot1.rowoff.toNat + slot1.rows.toNat
    ∧ nbcarryRun 1 1 false 8 16 0x40000000 0x3F800000 0x3F800000 = .inl ([(8, [0x40000000]), (16, [0x40800000])], [])
    ∧ nbcarryRun 1 1 true 8 16 0x40000000 0x3F800000 0 = .inl ([(8, [0x40000000]), (16, [0])], [])
    ∧ finite32 0x7FC00000 = false := by decide +kernel

/-- AccessChecks: a range at the end of the space, one past it; a die under reset; a page not known; a page that refuses. -/
theorem meets_AccessChecks :
    let go (s : State) (x : Span) : Bool := x.fits && (pagesOf x.a x.n).all fun p =>
      !s.dieBusy (homeDie (p * 2 ^ 21)).val && (s.me.pageAns s.turn.cl p).any fun a => a.meets x.need
    go (mapped State.reset) ⟨0, 8, .read⟩ = true ∧ (Span.mk (2 ^ 48 - 1) 1 .read).fits = true
    ∧ (Span.mk (2 ^ 48 - 1) 2 .read).fits = false ∧ (Span.mk (2 ^ 48) 0 .read).fits = true
    ∧ ({ State.reset with regs := { HostRegs.reset with drstState := 1, drstCur := (homeDie 0).val } } : State).dieBusy
        (homeDie 0).val = true
    ∧ State.reset.me.pageAns .c 0 = none ∧ (pagesOf 0 8) = [0]
    ∧ (∀ a ∈ [PageAns.none, .page true false false], a.meets .write = false
        ∧ (on0 fun k => { k with plb := [⟨0, true, a⟩] }).me.pageAns .c 0 = some a) := by decide +kernel

/-- Loads: each word on mapped pages, its lines in the block cache; misaligned; waiting. -/
theorem meets_Loads_words : ∀ i ∈ [Instr.ld 2 1 0, .lds 1 2 .d 3, .lsg 1 2 .d 3, .lda 2 1 3 4, .chka 2 1 3 4, .ldgStride 2 1 4],
    let s := warm fun k => gs [(4, 512)] (ar 1 0 k)
    pagesOk s i = true
    ∧ s.memStall i = false ∧ s.csr.errinj.getLsbD 0 = false ∧ s.clu.next s.csr.req = some at1
    ∧ s.me.lda[(4 : Fin 32)] = none := by decide +kernel

theorem meets_Loads_vector : ∃ t ys l, (warm fun k => gs [(4, 512)] (ar 1 0 k)).readAll [(0, 24576)] = (t, .inl ys, l) :=
  readAll_of (by decide +kernel)

theorem meets_Loads_rows : ∃ t ys l, (warm fun k => gs [(4, 512)] (ar 1 0 k)).readAll
    (((List.range 48).map fun q => ((0 : Dword) + BitVec.ofInt 64 (q * (512 : Int))).toNat).map fun r => (r, 512)) = (t, .inl ys, l) :=
  readAll_of (by decide +kernel)

theorem meets_Loads_scalar : ∀ n ∈ [1, 2, 4, 8],
    ((warm fun k => gs [(4, 512)] (ar 1 0 k)).readAll [(3 * n, n)]).2.1.isLeft = true := by decide +kernel

theorem meets_Loads_traps :
    (∀ n ∈ [2, 4, 8], ((ar 1 1 State.reset.me).la[(1 : Fin 16)] + BitVec.ofNat 64 (3 * n)).toNat % n ≠ 0)
    ∧ (warm fun k => ar 1 0 { k with blocks := [⟨0, 4, true⟩] }).memStall (.lds 1 1 .d 3) = true
    ∧ (on0 fun k => { k with lda := k.lda.set 4 (some (64, 0)) }).me.lda[(4 : Fin 32)].map (·.1) = some 64
    ∧ ((State.reset.me.la[(1 : Fin 16)] + BitVec.ofInt 64 (1 * 2)).toNat % 4 ≠ 0) := by decide +kernel

/-- A gather of one element and the rest skipped; one that is misaligned. -/
def gathers (i : Word) : State := warm fun k => ar 1 0 { k with v := k.v.set 3 [(1, i), (6143, 0xFFFFFFFF)] }

theorem meets_Loads_gather :
    let s := gathers 64
    let i := Instr.ldgGather 2 1 4 3
    let live := ((rlist s.me.v[(3 : Fin 16)]).take 6144).filter fun i => i ≠ 0xFFFFFFFF
    live = [64] ∧ (s.readAll [(64, 4)]).2.1.elim (·.length) (fun _ => 0) = 1 ∧ s.memStall i = false
    ∧ pagesOk s i = true
    ∧ ((rlist (gathers 2).me.v[(3 : Fin 16)]).take 6144).head? = some 2 := by decide +kernel

theorem meets_Loads_lands : ∀ x ∈ [LoadVal.g 3 42, .v 2 [(6144, 7)]],
    let s := evOf 9 [] (on0 fun k => { k with loads := [⟨8, x, 1⟩, ⟨9, x, 1⟩] })
    (s.core s.ev.core).loads.find? (·.id == s.ev.id) = some ⟨9, x, 1⟩ := by decide +kernel

/-- An injection of TARGET 1 and of 2 that a line of the block cache meets, and one of TARGET 3. -/
theorem meets_Loads_hit : ∀ x ∈ [3, 5, 7],
    let s := warm fun k => { ar 1 0 k with old := { k.old with csr := { k.old.csr with errinj := BitVec.ofNat 64 x } } }
    s.csr.errinj.getLsbD 0 = true ∧ s.csr.errinj.toNat / 2 % 8 = x / 2
    ∧ (0, Level.block) ∈ firstServed (s.readAll [(8, 8)]).2.2 ∧ (s.readAll [(8, 8)]).2.1.isLeft = true := by decide +kernel

/-- StoredBytes: a store that waits for memory, its page mapped; an empty memory in canonical form. -/
theorem meets_StoredBytes :
    let s := mapped (evOf 9 [] (on0 fun k => { k with ustores := [⟨9, 64, [(8, 1)], 1, 0⟩] }))
    (s.core s.ev.core).ustores.find? (·.id == s.ev.id) = some ⟨9, 64, [(8, 1)], 1, 0⟩
    ∧ (∃ w, (s.modCore s.ev.core fun k => { k with ustores := k.ustores.filter (·.id != 9) }).xlate
        (s.core s.ev.core).vis.csr.cid (64 / 2 ^ 21) = (w, .ok ⟨0, true, true, true, false⟩) ∧ Memory.wf w.mem = true)
    ∧ Memory.wf [] = true ∧ (s.core s.ev.core).sent 9 = true ∧ (∀ y ∈ (s.core s.ev.core).ustores, y.id < 9 → False) :=
  ⟨by decide +kernel, ⟨_, rfl, by decide +kernel⟩, by decide +kernel⟩

/-- Two UNCACHED stores of one word to one byte: the second comes again. -/
theorem meets_StoredBytes_before :
    let y : UStore := ⟨8, 64, [(8, 1)], 1, 0⟩
    let s := evOf 9 [] (on0 fun k => { k with ustores := [y, ⟨9, 71, [(2, 2)], 1, 0⟩] })
    (s.core s.ev.core).ustores.find? (·.id == s.ev.id) = some ⟨9, 71, [(2, 2)], 1, 0⟩ ∧ y ∈ (s.core s.ev.core).ustores
    ∧ y.addr ≤ 71 ∧ 71 < y.addr + rlen y.bytes := by decide +kernel

theorem meets_StoredBytes_room : ∀ n ∈ [0, 300],
    let k := State.reset.core 0
    n ≤ 2 ^ 15 ∧ ∀ la ∈ linesOf 64 n, ((k.heldWays la).filter fun x => (findLine k.bc k.vis.csr.cid x).isNone).length
      + (k.bc.filter fun l => blockSet l.la == blockSet la && !(l.la == la && l.cid == 0)).length < 16 := by decide +kernel

/-- An UNCACHED store whose page has no translation. -/
theorem meets_StoredBytes_refused :
    let s := evOf 9 [] (on0 fun k => { k with ustores := [⟨9, 64, [(8, 1)], 1, 0⟩] })
    (s.core s.ev.core).ustores.find? (·.id == s.ev.id) = some ⟨9, 64, [(8, 1)], 1, 0⟩
    ∧ ∃ w, (s.modCore s.ev.core fun k => { k with ustores := k.ustores.filter (·.id != 9) }).xlate
        (s.core s.ev.core).vis.csr.cid (64 / 2 ^ 21) = (w, .none) := ⟨by decide +kernel, split_of (by decide +kernel)⟩

/-- StoreWords: each word on mapped pages; misaligned; one that waits. -/
theorem meets_StoreWords : ∀ i ∈ [Instr.st 2 1 0, .sts 1 4 .d 3, .ssg 1 4 .d 3, .stxStride 2 1 4, .stxScatter 2 1 4 3],
    let s := mapped (on0 fun k => gs [(4, 512)] (ar 1 64 { k with v := k.v.set 3 [(1, 64), (6143, 0xFFFFFFFF)] }))
    pagesOk s i = true ∧ s.me.uncached .w 0 = false
    ∧ s.me.ustores = [] ∧ s.clu.next s.csr.req = some at1 ∧ (s.me.wa[(1 : Fin 16)]).toNat % 8 = 0
    ∧ (on0 (ar 1 63)).me.wa[(1 : Fin 16)].toNat % 2 ≠ 0
    ∧ (on0 fun k => { k with ustores := [⟨9, 64, [(8, 1)], 1, 0⟩] }).me.ustores ≠ [] := by decide +kernel

/-- Page 0 is UNCACHED. -/
def direct (f : Core → Core) : State :=
  let s := mapped (on0 f)
  { s with cores := s.cores.set 0 { s.cores[(0 : Fin 64)] with plb := [⟨0, true, .page true true true⟩] } }

theorem meets_StoreWords_direct : ∀ i ∈ [Instr.st 2 1 0, .sts 1 4 .d 3, .ssg 1 4 .d 3, .stxStride 2 1 4, .stxScatter 2 1 4 3],
    let s := direct fun k => gs [(4, 512)] (ar 1 64 { k with v := k.v.set 3 [(1, 64), (6143, 0xFFFFFFFF)] })
    pagesOk s i = true ∧ s.memStall i = false ∧ s.me.uncached .w 0 = true ∧ s.clu.next s.csr.req = some at1
    ∧ (∀ p ∈ pagesOf 64 (512 * 48), p = 0) := by decide +kernel

/-- BlockAndTileWords: a block of one line and of 64; its line filled; a tile load whose tag is right, and whose is not. -/
theorem meets_BlockAndTileWords_ldb : ∀ n : Fin 2,
    let s := warm (ar 1 128)
    let i := Instr.ldb 1 5 (if n = 0 then 0 else 63)
    pagesOk s i = true ∧ s.memStall i = false ∧ s.me.blocksOn 1 64 = [] ∧ s.taken 5 = false
    ∧ (s.me.la[(1 : Fin 16)]).toNat % 128 = 0 ∧ s.me.uncached .l 0 = false ∧ s.clu.next s.csr.req = some at1
    ∧ (warm fun k => ar 1 128 { k with blocks := [⟨1, 1, true⟩] }).memStall i = true := by decide +kernel

/-- A block that overlaps an older one, and the fill of one of two lines. -/
theorem meets_BlockAndTileWords_overlap :
    let s := warm fun k => ar 1 128 { k with blocks := [⟨0, 4, false⟩] }
    let i := Instr.ldb 1 5 1
    pagesOk s i = true ∧ s.memStall i = false ∧ s.me.blocksOn 1 2 = [⟨0, 4, false⟩] ∧ s.taken 5 = false
    ∧ ∃ t ds, ((s.me.blocksOn 1 2).foldl (fun t b => t.evictBlock s.turn.core b) s).fetchBlock 0 0 1 2 = (t, .inl ds) :=
  ⟨by decide +kernel, by decide +kernel, by decide +kernel, by decide +kernel,
    (split_of (b := Sum.inl [0, 0]) (by decide +kernel)).imp fun _ h => ⟨_, h⟩⟩

theorem meets_BlockAndTileWords_lines :
    let s := evOf 9 [] (warm fun k => cmds [cmdOf 9 (.ldb 1 5 1) [1, 2]] { k with blocks := [⟨1, 2, true⟩] })
    (s.core s.ev.core).cmd s.ev.id = some (cmdOf 9 (.ldb 1 5 1) [1, 2]) ∧ (cmdOf 9 (.ldb 1 5 1) [1, 2]).gone = false := by
  decide +kernel

theorem meets_BlockAndTileWords_fetch :
    (∃ t ds, (warm (ar 1 128)).fetchBlock 0 0 1 2 = (t, .inl ds))
    ∧ (pagesOk { warm (ar 1 128) with mtu := State.reset.mtu } (.ldb 1 5 0) = true
      ∧ ∃ t e, ({ mapped (on0 (ar 1 128)) with mtu := State.reset.mtu } : State).fetchBlock 0 0 1 1 = (t, .inr e)) :=
  ⟨(split_of (b := Sum.inl [0, 0]) (by decide +kernel)).imp fun _ h => ⟨_, h⟩,
    by decide +kernel, (split_of (b := Sum.inr (128, causeTrans)) (by decide +kernel)).imp fun _ h => ⟨_, h⟩⟩

theorem meets_BlockAndTileWords_fill :
    let s := evOf 9 [] (warm fun k => cmds [cmdOf 9 (.ldb 1 5 0) [1, 1]] { k with blocks := [⟨1, 1, true⟩] })
    (s.core s.ev.core).cmd s.ev.id = some (cmdOf 9 (.ldb 1 5 0) [1, 1]) ∧ (cmdOf 9 (.ldb 1 5 0) [1, 1]).gone = false := by
  decide +kernel

theorem meets_BlockAndTileWords_ltv :
    let s (off w : Nat) : State := on0 fun k => gs [(4, BitVec.ofNat 64 w)] (ar 1 (BitVec.ofNat 64 off) k)
    (s 0 0x10000).goesTo at1
    ∧ (∀ off ∈ [0, 2 ^ 21 - 24576], off % 512 = 0 ∧ off + 24576 ≤ 2 ^ 21 ∧ ((s off 0x10000).rg 4).toNat < 2 ^ 17
        ∧ ((s off 0x10000).rg 4).getLsbD 16 = true ∧ ((s off 0x10000).rg 4).extractLsb' 0 16 = 0 ∧ (s off 0x10000).me.tag = []
        ∧ (s off 0x10000).me.queueTouches 0 off 24576 = false ∧ (s off 0x10000).me.ustores = [])
    ∧ ((s 0 0x10001).rg 4).extractLsb' 0 16 ≠ srd 0 0 ([] : Sparse (BitVec 16)) ∧ ¬((s 0 0x20000).rg 4).toNat < 2 ^ 17
    ∧ (2 ^ 21 - 24064) % 512 = 0 ∧ ¬(2 ^ 21 - 24064 + 24576 ≤ 2 ^ 21) := ⟨rfl, by decide +kernel⟩

theorem meets_BlockAndTileWords_stt :
    let s := evOf 9 [] (on0 fun k => { k with stts := [⟨9, 1, 2 ^ 21 - 24576, [(6144, 7)], some 3⟩] })
    Rising (s.core s.ev.core).tile ∧ Rising (s.core s.ev.core).tag
    ∧ ((s.core s.ev.core).stts.find? (·.id == s.ev.id)).isSome = true ∧ (2 ^ 21 - 24576) % 512 = 0 := by
  unfold Rising; decide +kernel

/-- SynchronisingWords: each word on mapped pages; misaligned; one that waits; a FENCE that does and does not. -/
theorem meets_SynchronisingWords_issue :
    ∀ i ∈ [Instr.ldacq 1 4 .core false 6, .ldacq 1 4 .system true 6, .verchk 1 4, .strel 1 4 .core false 6, .strel 1 4 .system true 6],
    let s := mapped (on0 fun k => gs [(4, 7), (6, 256), (7, 64)] (ar 1 64 k))
    let t := s.holds (.sync s.nextId)
    pagesOk s i = true ∧ s.memStall i = false ∧ (t.clu.next t.csr.req).isSome = true ∧ (s.me.la[(1 : Fin 16)]).toNat % 8 = 0
    ∧ (mapped (on0 fun k => ar 1 64 { k with blocks := [⟨0, 4, true⟩], ustores := [⟨9, 64, [(8, 1)], 1, 0⟩] })).memStall i = true
    ∧ (on0 (ar 1 65)).me.la[(1 : Fin 16)].toNat % 8 ≠ 0 := by decide +kernel

theorem meets_SynchronisingWords_fence : ∀ sc : Fin 3,
    let scope : Scope := (#v[.core, .package, .system] : Vector Scope 3)[sc]
    State.reset.me.fenced scope = true ∧ (on0 fun k => { k with ustores := [⟨9, 64, [(8, 1)], 1, 0⟩] }).me.fenced scope = false
    ∧ (on0 (cmds [cmdOf 9 (.amorAdd 5 4 true) []])).me.fenced scope = (scope != .system)
    ∧ ((State.reset.holds .mark).clu.next (State.reset.holds .mark).csr.req).isSome = true := by decide +kernel

/-- A synchronising word that waits for its completion. -/
def syncing (op : Instr) (args : List Nat) : State := evOf 9 [] (warm fun k => { k with syncs := [cmdOf 9 op args] })

theorem meets_SynchronisingWords_acquire :
    let s := syncing (.ldacq 1 4 .core false 6) [64, 0, 0]
    (s.core s.ev.core).syncOf s.ev.id = some (cmdOf 9 (.ldacq 1 4 .core false 6) [64, 0, 0])
    ∧ ∃ t x, s.readFlag s.ev.core (s.core s.ev.core).vis.csr.cid .core 64 = (t, .inl x) :=
  ⟨by decide +kernel, (split_of (b := Sum.inl 0) (by decide +kernel)).imp fun _ h => ⟨_, h⟩⟩

/-- An armed injection at an LDACQ whose flag a line of the block cache serves; and none armed. -/
theorem meets_SynchronisingWords_inject : ∀ x ∈ [0, 3, 5],
    let s := evOf 9 [] (warm fun k => { k with
      syncs := [cmdOf 9 (.ldacq 1 4 .core false 6) [64, 0, 0]]
      old := { k.old with csr := { k.old.csr with errinj := BitVec.ofNat 64 x } } })
    let k := s.core 0
    (k.old.csr.errinj.getLsbD 0 = true ↔ x ≠ 0) ∧ k.old.csr.errinj.toNat / 2 % 8 = x / 2 ∧ k.uncached .l (64 / 2 ^ 21) = false
    ∧ (lineOr k.bc k.vis.csr.cid (64 / 128)).holds (spanMask (64 % 128) 8) = true := by decide +kernel

theorem meets_SynchronisingWords_version : ∀ v ∈ [0, 1],
    let s := syncing (.verchk 1 4) [64, v]
    (s.core s.ev.core).syncOf s.ev.id = some (cmdOf 9 (.verchk 1 4) [64, v])
    ∧ ((s.acquireLine s.ev.core (s.core s.ev.core).vis.csr.cid .package (64 / 128)).engineRead
        (s.core s.ev.core).vis.csr.cid 64 8).2 = .inl 0
    ∧ (let t := ((s.acquireLine s.ev.core (s.core s.ev.core).vis.csr.cid .package (64 / 128)).engineRead
          (s.core s.ev.core).vis.csr.cid 64 8).1
       let w := (t.syncDone s.ev.core (cmdOf 9 (.verchk 1 4) [64, v])).turnTo s.ev.core .l
       (w.clu.next w.csr.req).isSome = true) ∧ s.regs.drstState ≠ 1 := by decide +kernel

theorem meets_SynchronisingWords_release :
    let s := syncing (.strel 1 4 .core false 6) [64, 0, 0, 7, 1]
    ((s.core s.ev.core).syncOf s.ev.id).isSome = true ∧ (s.core s.ev.core).fenced .core = true
    ∧ (s.core s.ev.core).uncached .w (64 / 2 ^ 21) = false ∧ (s.core s.ev.core).filling (64 / 128) = false
    ∧ (s.core s.ev.core).sent 9 = true := by decide +kernel

/-- An acquire and a release with a range at a wider scope, on a cached page and on an UNCACHED one; a level that holds the flag. -/
theorem meets_SynchronisingWords_scopes : ∀ sc ∈ [Scope.group, .package, .system],
    let q (op : Instr) : Cmd := cmdOf 9 op [64, 256, 200, 7, 1]
    let s (op : Instr) : State := evOf 9 [] (warm fun k => { k with syncs := [q op] })
    let l := Instr.ldacq 1 4 sc true 6
    let w := Instr.strel 1 4 sc true 6
    ((s l).core 0).syncOf 9 = some (q l) ∧ ((s w).core 0).syncOf 9 = some (q w) ∧ linesOf 256 200 = [2, 3]
    ∧ ((s w).core 0).fenced sc = true ∧ (∀ la ∈ [0, 2, 3], ((s w).core 0).filling la = false) ∧ ((s w).core 0).sent 9 = true
    ∧ ([2, 3].foldl (fun (t : State) la => t.releaseLine 0 0 sc (stampOf 0 0 1) la) (s w)).me.uncached .w (64 / 2 ^ 21) = false
    ∧ (direct id).me.uncached .w (64 / 2 ^ 21) = true
    ∧ ((⟨0, 0, 7, true, 0, 0⟩ : Line).holds (spanMask 64 8) = true) := by decide +kernel

/-- A word whose line requests wait for those before it. -/
theorem meets_unsent : (on0 fun k => { k with loads := [⟨8, .g 3 42, 3073⟩] }).me.sent 9 = false := by decide +kernel

/-- MaintenanceAndAtomicWords: each word on mapped pages, a CMO of some bytes and of none; misaligned; waiting. -/
theorem meets_MaintenanceAndAtomicWords :
    (∀ i ∈ [Instr.cmoClean 1 4 .home 5, .cmoInv 1 4 .home 5, .cmoClinv 1 4 .home 5, .amoAdd 1 6 true 5, .amoMin 1 6 false 5,
      .amoMax 1 6 true 5, .amoOr 1 6 false 5, .amoAnd 1 6 true 5, .amoXchg 1 6 false 5, .amoCas 1 6 true 5], ∀ n ∈ [(0 : Nat), 300],
      let s := mapped (on0 fun k => gs [(4, BitVec.ofNat 64 n), (6, 256), (7, 64)] (ar 1 64 k))
      pagesOk s i = true ∧ s.me.ustores = [] ∧ s.clu.next s.csr.req = some at1 ∧ s.taken 5 = false ∧ s.memStall i = false
      ∧ (s.me.wa[(1 : Fin 16)]).toNat % 8 = 0)
    ∧ (on0 (ar 1 66)).me.wa[(1 : Fin 16)].toNat % 4 ≠ 0
    ∧ (∀ i ∈ [Instr.cmoClean 1 4 .home 5, .amoAdd 1 6 true 5],
        let s := mapped (on0 fun k => ar 1 64 { k with ustores := [⟨9, 64, [(8, 1)], 1, 0⟩] })
        pagesOk s i = true ∧ s.taken 5 = false ∧ s.turn.hdr.sync = false ∧ s.me.ustores ≠ []) := by decide +kernel

/-- A context table with a LIVE entry for context 0 at address 0. -/
def known (s : State) : State := { s with mem := Memory.write [] 0 1 16 }

/-- Atomics: an AMO at home that answers 0 and one that misses; one that waits for an earlier one. -/
theorem meets_Atomics_performed :
    let s (x : Nat) : State := evOf 9 [] (mapped (on0 (cmds [cmdOf 9 (.amoCas 1 6 true 5) [64, x, 7, 1]])))
    (∀ x ∈ [0, 1],
      let home := (s x).acquireLine 0 ((s x).core 0).vis.csr.cid .package (64 / 128)
      ((s x).core 0).cmd 9 = some (cmdOf 9 (.amoCas 1 6 true 5) [64, x, 7, 1])
      ∧ amoOf (.amoCas 1 6 true 5) = some (.cas, true)
      ∧ ((s x).core 0).amoBefore (cmdOf 9 (.amoCas 1 6 true 5) [64, x, 7, 1]) = false
      ∧ (home.atomic 0 .cas true 64 x 7 (stampOf 0 0 1)).2 = .inl (if x = 0 then 0 else 0x41))
    ∧ (on0 (cmds [cmdOf 8 (.amoAdd 1 6 true 5) [64], cmdOf 9 (.amoCas 1 6 true 5) [64]])).me.amoBefore
        (cmdOf 9 (.amoCas 1 6 true 5) [64]) = true
    ∧ ((s 0).core 0).filling (64 / 128) = false ∧ ((s 0).core 0).sent 9 = true ∧ (s 0).regs.drstState ≠ 1
    ∧ (on0 fun k => cmds [cmdOf 8 (.ldb 1 5 0) [0, 1]] { k with blocks := [⟨0, 1, true⟩] }).me.filling (64 / 128) = true := by
  decide +kernel

theorem meets_Atomics_arrival :
    let s (a : Nat) : State := known (mapped (evOf 9 [1, 0, 0, 9, 0, 1, a, 1, 0] State.reset))
    (∀ a ∈ [64, 2 ^ 48 - 8], (s a).arg 6 % 8 = 0 ∧ (s a).arg 6 + 8 ≤ 2 ^ 48)
    ∧ ((s 64).atomic 0 .add true 64 1 0 (stampOf 0 0 0)).2 = .inl 0
    ∧ (s 64).rcidLive 0 = true ∧ (evOf 9 [] State.reset).rcidLive 0 = false ∧ (known (evOf 9 [] State.reset)).rcidLive 0 = true
    ∧ (State.atomic (known (evOf 9 [] State.reset)) 0 .add true 64 1 0 (stampOf 0 0 0)).2.isRight = true
    ∧ (s 63).arg 6 % 8 ≠ 0 ∧ 2 ^ 48 < (s (2 ^ 48)).arg 6 + 8 := by decide +kernel

/-- CacheEvents: a command of each kind, no block on its range, and one whose fill is pending; an eviction of a block, of a
line, and of one whose fill is pending. -/
theorem meets_CacheEvents :
    let s (b : List Block) (op : Instr) : State := evOf 9 [0, 1, 1] (on0 fun k => cmds [cmdOf 9 op [128, 256]] { k with blocks := b })
    (∀ op ∈ [Instr.cmoClean 1 4 .home 5, .cmoInv 1 4 .home 5, .cmoClinv 1 4 .home 5],
      ((s [] op).core 0).cmd 9 = some (cmdOf 9 op [128, 256]) ∧ ((s [] op).core 0).blocksOn 1 (linesOf 128 256).length = []
      ∧ ((s [⟨2, 1, true⟩] op).core 0).blockPending 1 (linesOf 128 256).length = true)
    ∧ ((s [⟨1, 1, true⟩] .nop).core 0).blockPending 1 1 = true
    ∧ BitVec.ofNat 12 ((s [] .nop).arg 0) = ((s [] .nop).core 0).vis.csr.cid
    ∧ BitVec.ofNat 12 ((evOf 9 [5, 1] (on0 id)).arg 0) ≠ ((s [] .nop).core 0).vis.csr.cid
    ∧ ((s [⟨1, 1, false⟩] .nop).core 0).blockPending 1 1 = false
    ∧ ((s [⟨1, 1, false⟩] .nop).core 0).blocksOn 1 1 = [⟨1, 1, false⟩]
    ∧ (∀ l, findLine (s [] .nop).home 0 1 = some l → l.dirty = 0)
    ∧ (((s [] .nop).rdcOf (zIdx 0)).filter fun l => rdcSet l.la == rdcSet 1).length < 16
    ∧ ((s [] .nop).rdcOf (zIdx 0)).length + 1 ≤ 16 ∧ ((s [] .nop).home.filter fun l => homeSet l.la == homeSet 1).length < 16 :=
  ⟨by decide +kernel, by decide +kernel, by decide +kernel, by decide +kernel, by decide +kernel, by decide +kernel,
    fun l h => (by cases h), by decide +kernel⟩

/-- CacheEvents, a command that waits for a fill and one that does not; a dirty line of each level whose page is translated, and
one whose is not, with room in the late-fault buffer. -/
theorem meets_CacheEvents_waits :
    let k (b : List Block) := (on0 fun k => cmds [cmdOf 9 (.cmoClean 1 4 .home 5) [128, 256]] { k with blocks := b }).me
    (∃ la ∈ linesOf 128 256, (k [⟨2, 1, true⟩]).filling la = true) ∧ (∀ la ∈ linesOf 128 256, (k [⟨2, 1, false⟩]).filling la = false)
    ∧ (k [⟨2, 1, false⟩]).blocksOn 1 2 = [⟨2, 1, false⟩] ∧ (k []).sent 9 = true := by decide +kernel

/-- Line 1 of context 0, dirty in its second byte. -/
def soiled : Line := ⟨0, 1, 0xAB00, false, 2, 0⟩

/-- CacheEvents, a CLEAN to memory of a line whose page is translated, and of one whose is not. -/
theorem meets_CacheEvents_stuck :
    let s : State := { on0 (fun k => { k with bc := [soiled] }) with home := [soiled] }
    s.refusesLine 0 1 = true ∧ (mapped s).refusesLine 0 1 = false ∧ (lineOr (s.core 0).bc 0 1).dirty ≠ 0
    ∧ (lineOr s.home 0 1).dirty ≠ 0 ∧ (1 : Nat) ∈ linesOf 128 256 := by decide +kernel

theorem meets_CacheEvents_stored :
    let s : State := mapped { on0 (fun k => { k with bc := [soiled] }) with home := [soiled] }
    let w : State := { s with home := dropLine s.home 0 1 }
    let far : State := { evOf 0 [0, 1] State.reset with home := [soiled] }
    let gone : State := { far with home := dropLine far.home 0 1 }
    (∃ v, (s.cleanLine 0 0 .home 1).xlate 0 (1 * 128 / 2 ^ 21) = (v, .ok ⟨0, true, true, true, false⟩))
    ∧ (∃ v, w.xlate 0 (1 * 128 / 2 ^ 21) = (v, .ok ⟨0, true, true, true, false⟩))
    ∧ Memory.wf (s.cleanLine 0 0 .home 1).mem = true ∧ Memory.wf w.mem = true
    ∧ (lineOr (s.cleanLine 0 0 .home 1).home 0 1).dirty.getLsbD 1 = true ∧ (lineOr s.home 0 1).dirty.getLsbD 1 = true
    ∧ (∃ v, gone.xlate 0 (1 * 128 / 2 ^ 21) = (v, .none)) ∧ (lineOr far.home 0 1).dirty ≠ 0
    ∧ ∀ e ∈ far.mtu[homeIdx (1 * 128)].late, e.slot ≠ 0 :=
  ⟨split_of (by decide +kernel), split_of (by decide +kernel), by decide +kernel, by decide +kernel, by decide +kernel,
    by decide +kernel, split_of (by decide +kernel), by decide +kernel, by decide +kernel⟩

/-- EngineWords: each word with a legal quad; with a reserved bit; with a consumed token that is EMPTY. -/
def engine (a d n aux : Dword) : State := mapped (on0 fun k => gs [(4, a), (5, d), (6, n), (7, aux)] (tk 3 ⟨.done, 0, none⟩ k))

theorem meets_EngineWords_legal :
    ∀ p ∈ [((1024 : Nat), (8192 : Nat), (1024 : Nat)), (2 ^ 48 - 512, 512, 512), (64, 8192, 0), (64, 0, 0)],
    let s := engine (BitVec.ofNat 64 p.1) (BitVec.ofNat 64 p.2.1) (BitVec.ofNat 64 p.2.2) 0x43
    let x := (s.quad 4).2.2.2
    s.clu.next s.csr.req = some at1 ∧ s.quad 4 = (BitVec.ofNat 64 p.1, BitVec.ofNat 64 p.2.1, BitVec.ofNat 64 p.2.2, x)
    ∧ s.taken 5 = false ∧ x.getLsbD 7 = false ∧ x.getLsbD 15 = false ∧ x.extractLsb' 24 8 = 0 ∧ x.getLsbD 23 = false
    ∧ auxToks x = [3] ∧ (s.tok 3).st ≠ .empty ∧ (engine 0 0 0 0x44).tok 4 = ⟨.empty, 0, none⟩
    ∧ p.1 + p.2.2 ≤ 2 ^ 48 ∧ p.2.1 + p.2.2 ≤ 2 ^ 48 ∧ p.2.2 % 512 = 0
    ∧ (p.2.2 = 0 ∨ p.1 + p.2.2 ≤ p.2.1 ∨ p.2.1 + p.2.2 ≤ p.1) ∧ x.toNat / 2 ^ 32 = 0
    ∧ p.2.1 % 8 = 0 ∧ p.2.1 + 8 ≤ 2 ^ 48 := by decide +kernel

theorem meets_EngineWords_queues :
    let s (a d n : Dword) : State := engine a d n 0x43
    (∀ p ∈ [((0 : Nat), (0 : Nat)), (255, 4095)], let s (a _ n : Nat) := s (BitVec.ofNat 64 a) 0 (BitVec.ofNat 64 n)
      ((s p.1 0 p.2).quad 4).1.toNat < 256 ∧ ((s p.1 0 p.2).quad 4).2.2.1.toNat < 4096)
    ∧ (s 1024 0 0).me.refused .w (pagesOf 1024 64) .read = none
    ∧ (s 64 8192 (0x10000000000 + 64)).dev ≠ ((s 64 8192 (0x10000000000 + 64)).quad 4).2.2.1.toNat / 2 ^ 40
    ∧ ((s 0 2 0).me.queueTouches 0 0 512) = false ∧ (engine 0 0 0 0x80).goesTo at1
    ∧ ((engine 0 0 0 0x80).quad 4).2.2.2.getLsbD 7 = true ∧ ((engine 0 0 0 0x800043).quad 4).2.2.2.getLsbD 23 = true :=
  ⟨by decide +kernel, by decide +kernel, by decide +kernel, by decide +kernel, rfl, by decide +kernel⟩

/-- CommandLife: a command whose consumed token is DONE, and one whose is FAILED. -/
theorem meets_CommandLife :
    let m : Cmd := { cmdOf 9 (.tkJoin 5 6 7) [] with waits := [(6, false)] }
    let s (t : TokSt) : State :=
      { on0 (fun k => tk 6 ⟨t, if t = .failed then 0x12 else 0, none⟩ (cmds [m] (running k))) with zc := 1 }
    ((s .done).core 0).starting (s .done).zc = some m ∧ ((s .failed).core 0).failing (s .failed).zc = some m
    ∧ m.failSeen ((s .failed).core 0).old = some 0x12 := by decide +kernel

/-- An NBSWITCH whose consumed token has failed, its switch still its slot's, and replaced by another. -/
theorem meets_CommandLife_switch :
    let m : Cmd := { cmdOf 9 (.nbswitch 5 4 3) [] with waits := [(6, false)] }
    let s (n : Nat) : State := { on0 (fun k => tk 6 ⟨.failed, 0x12, none⟩ (cmds [m] { running k with switch := k.switch.set 3 (some n) })) with zc := 1 }
    ∀ n ∈ [8, 9], ((s n).core 0).failing (s n).zc = some m ∧ m.failSeen ((s n).core 0).old = some 0x12
      ∧ (((s n).core 0).switch[(3 : Fin 16)] = some m.id ↔ n = 9) := by decide +kernel

/-- CopiesAndLinks: a copy whose source was read, its destination mapped and not; a summed copy whose checksum is right and is
not; a tile copy. -/
theorem meets_CopiesAndLinks_copy :
    (∀ op ∈ [Instr.cpCopy 5 4, .cpSumCrc 5 4 false, .cpSumFold 5 4 true, .cpTileTo 5 4 1, .cpFill 5 4 .b, .cpTileFrom 5 4 1],
      let m : Cmd := { cmdOf 9 op [] with data := [(4, 7)], quad := (64, 4096, 4, 0) }
      let s := mapped (evOf 9 [] (on0 (cmds [m])))
      (s.core 0).cmd 9 = some m ∧ m.gone = false ∧ m.err = none
      ∧ (s.copyWrite 0 0 4096 4 0x07070707 (stampOf 0 0 (s.core 0).seqs[(3 : Fin 15)])).2 = none)
    ∧ (State.copyWrite State.reset 0 0 4096 4 0x07070707 (stampOf 0 0 0)).2.isSome = true
    ∧ (~~~(runSum true 0 (bytesWords [7, 7, 7, 7]))).toNat ≠ 0 := by decide +kernel

/-- Arrivals at mapped pages and at others; an acknowledgement with and without its command; a timeout of a command and of an
entry. -/
theorem meets_CopiesAndLinks_link :
    let args := [1, 0, 0, 9, 64, 2, 0, 1, 0, 3]
    let s (w : State) : State := { w with ev := ⟨0, 9, args, [(4, 7)]⟩ }
    ((s (known (mapped State.reset))).engineWrite 0 64 4 (0x07070707 ^^^ 2 ^ 3) (stampOf 0 0 0)).2.isLeft = true
    ∧ (s (known (mapped State.reset))).rcidLive 0 = true ∧ (s (known State.reset)).rcidLive 0 = true ∧ (s State.reset).rcidLive 0 = false
    ∧ ((s (known State.reset)).engineWrite 0 64 4 (0x07070707 ^^^ 2 ^ 3) (stampOf 0 0 0)).2.isRight = true
    ∧ (∀ a ∈ [0, 0x51], ((evOf 9 [a] (on0 (cmds [cmdOf 9 (.cpLink 5 4) []]))).core 0).cmd 9 = some (cmdOf 9 (.cpLink 5 4) [])
        ∧ ((evOf 9 [a] State.reset).arg 0 = 0 ↔ a = 0))
    ∧ sumOf (.cpLink 5 4) = none ∧ (State.reset.core 0).cmd 9 = none
    ∧ sumOf (.cpLinkCrc 5 4 false) = some (true, false) ∧ sumOf (.cpLinkFold 5 4 true) = some (false, true) := by decide +kernel

/-- A fill, a tile copy and a copy that start; of no byte; a tag that agrees and one that does not. -/
theorem meets_CopiesAndLinks_start :
    let m (op : Instr) (n tag : Nat) : Cmd := { cmdOf 9 op [] with quad := (0, 4096, BitVec.ofNat 64 n, BitVec.ofNat 64 (tag * 2 ^ 32)) }
    let s (op : Instr) (n tag : Nat) : State :=
      { evOf 9 [] (on0 fun k => cmds [m op n tag] { running k with tag := [(0, 5)] }) with zc := 1 }
    (∀ op ∈ [Instr.cpFill 5 4 .w, .cpTileFrom 5 4 0, .cpCopy 5 4], ∀ n ∈ [0, 512],
      ((s op n 0).core 0).starting 1 = some (m op n 0) ∧ (BitVec.ofNat 64 n : Dword).toNat % 2 ^ 40 = n ∧ n % StSize.bytes .w = 0)
    ∧ (∀ tag ∈ [0x10005, 0x10006], tag / 2 ^ 16 % 2 = 1 ∧ (BitVec.ofNat 64 (tag * 2 ^ 32) : Dword).toNat / 2 ^ 32 = tag
      ∧ ((∃ i ∈ tilesOf 0 512, srd 0 (4096 * 0 + i) ((s .nop 0 0).core 0).tag ≠ BitVec.ofNat 16 tag) ↔ tag = 0x10006)) := by
  decide +kernel

/-- CollectiveEvents: a CQ.POST of a pair that is open and has room, that is full, that is not open; a counter that is reached;
an entry with one acknowledgement outstanding, and two. -/
def posting (q : Qp) : State :=
  mapped { evOf 9 [] (on0 (cmds [{ cmdOf 9 (.cqPost 5 4) [] with quad := (64, 3, 0, 0) }])) with qps := [(3, q)] }

def pair (ents : List Ent) : Qp := { Qp.reset with open_ := true, logn := 1, ents := ents }

def ent (st : EntSt) (bits : BitVec 512) (acks : Nat) (devs : List Nat) : Ent := ⟨7, 0, bits, st, devs, acks, devs, [], 0, 0⟩

theorem meets_CollectiveEvents_post :
    let m : Cmd := { cmdOf 9 (.cqPost 5 4) [] with quad := (64, 3, 0, 0) }
    ((posting (pair [])).core 0).cmd 9 = some m ∧ m.quad.2.1.toNat = 3
    ∧ ((posting (pair [])).qp 3).openTo 0 = true ∧ ((posting Qp.reset).qp 3).openTo 0 = false
    ∧ (∀ e ∈ ((posting (pair [])).qp 3).ents, e.idx ≠ ((posting (pair [])).qp 3).tail)
    ∧ (∃ e ∈ ((posting (pair [ent .posted 0 0 []])).qp 3).ents, e.idx = ((posting (pair [ent .posted 0 0 []])).qp 3).tail)
    ∧ ((posting (pair [])).engineRead 0 64 64).2 = .inl 0
    ∧ (((posting (pair [])).engineRead 0 64 64).1.engineWrite 0 (((posting (pair [])).qp 3).base.toNat
        + 64 * ((posting (pair [])).qp 3).tail) 64 0 (stampOf 0 0 0)).2.isLeft = true := by decide +kernel

theorem meets_CollectiveEvents_counter : ∀ v ∈ [5, 6],
    let m : Cmd := { cmdOf 9 (.cntWait 5 4) [] with quad := (2, 0, 5, 0), started := true }
    ({ on0 (cmds [m]) with cnts := [(2, ⟨0, true, BitVec.ofNat 64 v⟩)] } : State).cntReady 0 = some m := by decide +kernel

theorem meets_CollectiveEvents_complete : ∀ n ∈ [1, 2], ∀ code ∈ [0, 0x51],
    let s : State := { evOf 9 [3, 7, code] State.reset with qps := [(3, pair [ent .started 0 n [0]])] }
    s.ent (s.arg 0) (s.arg 1) = some (ent .started 0 n [0]) ∧ s.arg 2 = code := by decide +kernel

/-- Entries that fire, with legal fields and not; one that starts, a send of nothing and a signal to this device. -/
theorem meets_CollectiveEvents_fire :
    (∀ p ∈ [(3, true), (0, false)],
      let e := ent (.armed 2 5 0) (BitVec.ofNat 512 p.1) 0 []
      let s : State := { State.reset with zc := 1, qps := [(3, pair [e])], cnts := [(2, ⟨0, true, 5⟩)] }
      s.firing = some (3, e) ∧ s.entOk (s.qp 3) e.bits = p.2 ∧ (p.2 = true → e.bits.toNat / 2 ^ (8 * 0x38) % 2 ^ 48 = 0))
    ∧ (∀ ty ∈ [2, 3],
      let e := ent (.fired 4) (BitVec.ofNat 512 ty) 0 [0]
      let s : State := { State.reset with qps := [(3, pair [e])] }
      s.entryNext = some (3, e) ∧ e.devs = [s.dev] ∧ entType e.bits = ty ∧ entLen e.bits = 0) := by decide +kernel

/-- The commands of R223 at their start: a pair that is open and holds a posted entry, and one that is not; a counter assigned to the
context, and one that is not. -/
theorem meets_CollectiveEvents_commands :
    let m (op : Instr) (a : Dword) : Cmd := { cmdOf 9 op [] with quad := (a, 0, 2, 7 * 2 ^ 32) }
    let s (op : Instr) (a : Dword) (q : Qp) (asg : Bool) : State :=
      { on0 (fun k => cmds [m op a] (running k)) with zc := 1, qps := [(3, q)], cnts := [(2, ⟨0, asg, 5⟩)] }
    (∀ p ∈ [(Instr.cqPost 5 4, (3 : Dword)), (.cqArm 5 4, 3), (.cntAdd 5 4, 2), (.cntWait 5 4, 2), (.rlInv 5 4, 64)],
      ((s p.1 p.2 (pair []) true).core 0).starting 1 = some (m p.1 p.2))
    ∧ (let x (q : Qp) (asg : Bool) : State := s (.cqArm 5 4) 3 q asg
       let e := ent .posted 0 0 []
       ((x (pair [e]) true).qp 3).openTo 0 = true ∧ ((x { pair [e] with open_ := false } true).qp 3).openTo 0 = false
       ∧ (((x (pair [e]) true).qp 3).ents.filter fun y => y.idx = 0 ∧ y.st = .posted) = [e]
       ∧ (∀ y ∈ ((x (pair []) true).qp 3).ents, ¬(y.idx = 0 ∧ y.st = .posted))
       ∧ ((x (pair [e]) true).cnt 2).asg = true ∧ ((x (pair [e]) false).cnt 2).asg = false ∧ ((x (pair [e]) true).cnt 2).cid = 0)
    ∧ Rising (s .nop 0 (pair []) true).cnts :=
  ⟨by decide +kernel, by decide +kernel, List.pairwise_singleton _ _⟩

/-- An entry of eight bytes, a PUT and a PUTRED of one part and of four, to this device, its page mapped and not; to another, with
no port up; by a rank list that the cache holds and one that home does. -/
theorem meets_CollectiveEvents_send :
    let b (x : Nat) : BitVec 512 := BitVec.ofNat 512 (x + 8 * 2 ^ (8 * 0x18))
    let s (x : Nat) (devs : List Nat) : State := { mapped State.reset with qps := [(3, pair [ent (.fired 4) (b x) 0 devs])] }
    (∀ x ∈ [2, 1, 1 + 2 ^ (8 * 0x30 + 15)],
      (s x [0]).entryNext = some (3, ent (.fired 4) (b x) 0 [0]) ∧ entType (b x) = x % 256 ∧ entLen (b x) = 8
      ∧ (8 + 4096 * 2 ^ entChk (b x) - 1) / (4096 * 2 ^ entChk (b x)) = 1
      ∧ ((s x [0]).entRead 0 (b x) 0 8).2.isLeft = true ∧ (entPkg (b x) = true ↔ 2 < x)
      ∧ (({ State.reset with qps := (s x [0]).qps } : State).entRead 0 (b x) 0 8).2.isRight = true)
    ∧ ((s 2 [5]).entryNext = some (3, ent (.fired 4) (b 2) 0 [5]) ∧ (s 2 [5]).dev ≠ 5 ∧ (s 2 [5]).routed = false)
    ∧ (let y := 2 + 64 * 2 ^ (8 * 0x38)
       let w : State := { s y [] with mem := Memory.write [] 64 (1 + 5 * 2 ^ 64) 16 }
       entRlist (b y) = 64 ∧ w.entryNext = some (3, ent (.fired 4) (b y) 0 []) ∧ (w.readRanks 0 64).2 = (some [5], none)
       ∧ (w.engineRead 0 64 8).2 = .inl 1 ∧ ((w.engineRead 0 64 8).1.engineRead 0 72 2).2 = .inl 5 ∧ ((s y []).engineRead 0 64 8).2 = .inl 0
       ∧ ({ w with ranks := [⟨0, 64, [5]⟩] } : State).rankOf 0 64 = some [5] ∧ w.rankOf 0 64 = none) := by decide +kernel

theorem meets_CollectiveEvents_rising : Rising ({ State.reset with qps := [(3, pair [])] } : State).qps :=
  List.pairwise_singleton _ _

theorem meets_CollectiveEvents_arrival :
    let s (w : State) (n : Nat) : State := { w with ev := ⟨0, 0, [0, 3, 7, 0, n, 1], []⟩, cnts := [(2, ⟨0, true, 5⟩)] }
    (∀ n ∈ [0, 2], (s (known State.reset) n).rcidLive 0 = true ∧ (n ≠ 0 → (s (known State.reset) n).cntOwned n 0 = true))
    ∧ (s (known State.reset) 1).cntOwned 1 0 = false ∧ (s State.reset 0).rcidLive 0 = false := by decide +kernel

theorem meets_CollectiveEvents_chunk :
    let s : State := { mapped (known State.reset) with
      ev := ⟨0, 0, [0, 3, 7, 0, 1, 0, 0, 64, 0, 2, 0, 0, 0, 0, 0], [(8, 1)]⟩, cnts := [(2, ⟨0, true, 5⟩)] }
    let c := Chunk.ofEv s.ev
    s.rcidLive c.rcid = true ∧ s.cntOwned c.dcnt c.rcid = true ∧ c.put = true ∧ c.esc = false ∧ c.status = 0
    ∧ (s.mayWrite c.rcid c.dst (rlen c.data)).2 = true
    ∧ ((s.mayWrite c.rcid c.dst (rlen c.data)).1.engineWrite c.rcid c.dst (rlen c.data) (bytesNat (rlist c.data))
        (stampOf c.rcid 0 0)).2.isLeft = true := by decide +kernel

/-- A PUTRED chunk of one FP32 element for DST 64, with its status word at 128. -/
def putred (expect gen : Nat) (helds : List Held) : State :=
  { mapped (known State.reset) with
    ev := ⟨0, 0, [0, 3, 7, 0, 0, 0, 0, 64, 128, 0, expect, 1, gen, 0, 0], [(3, 0), (1, 0x40)]⟩, helds := helds }

/-- A chunk held for DST 64. -/
def part (src gen : Nat) : Chunk := ⟨src, 3, 7, 0, false, 0, 0, 64, 128, 0, 2, true, BitVec.ofNat 16 gen, false, 0, [(3, 0), (1, 0x40)]⟩

/-- Unordered; ordered with the first of two, the second of two, one of another generation, and no room. -/
theorem meets_CollectiveEvents_putred :
    let ok (s : State) : Prop := let c := Chunk.ofEv s.ev
      s.rcidLive c.rcid = true ∧ c.dcnt = 0 ∧ c.put = false ∧ c.status ≠ 0 ∧ rlen c.data = 4
      ∧ (s.mayWrite c.rcid c.dst 4).2 = true ∧ ((s.mayWrite c.rcid c.dst 4).1.mayWrite c.rcid c.status 8).2 = true
      ∧ (((s.mayWrite c.rcid c.dst 4).1.mayWrite c.rcid c.status 8).1.engineRead c.rcid c.status 8).2 = .inl 0
    let full : List Held := (List.range 256).map fun i => ⟨1, i, []⟩
    (∀ p ∈ [(0, []), (2, []), (2, [⟨0, 64, [part 0 5]⟩]), (2, full)], ok (putred p.1 5 p.2))
    ∧ (Chunk.ofEv (putred 0 5 []).ev).expect = 0 ∧ (Chunk.ofEv (putred 2 5 []).ev).expect = 2
    ∧ (∀ h ∈ [part 0 5], h.gv = (Chunk.ofEv (putred 2 5 []).ev).gv ∧ h.gen = (Chunk.ofEv (putred 2 5 []).ev).gen)
    ∧ (∃ h ∈ [part 0 6], h.gen ≠ (Chunk.ofEv (putred 2 5 []).ev).gen)
    ∧ full.length = 256 ∧ full.find? (fun h => h.rcid == 0 && h.dst == 64) = none
    ∧ [part 0 5].Pairwise (fun x y => x.src ≤ y.src) := by decide +kernel

/-- The combination of one chunk and of two: its read and its writes. -/
theorem meets_CollectiveEvents_reduce : ∀ ps ∈ [[part 0 5], [part 0 5, part 1 5]],
    let s := putred 2 5 []
    (∀ p ∈ ps, p.elems.1.length = 1) ∧ ((ps.headD (part 0 5)).elems.1.length * wireBytes 0 = 4)
    ∧ (s.engineRead 0 64 4).2 = .inl 0
    ∧ ((s.engineRead 0 64 4).1.engineWrite 0 64 4 0x40000000 (stampOf 0 0 0)).2.isLeft = true
    ∧ (((s.engineRead 0 64 4).1.engineWrite 0 64 4 0x40000000 (stampOf 0 0 0)).1.engineRead 0 128 8).2 = .inl 0
    ∧ ((((s.engineRead 0 64 4).1.engineWrite 0 64 4 0x40000000 (stampOf 0 0 0)).1.engineRead 0 128 8).1.engineWrite 0 128 8
        0x100000540 (stampOf 0 0 0)).2.isLeft = true := by decide +kernel

/-- The vector words: nothing pending, so that no register is in conflict; registers of 6144 lanes; every format; a conflict. -/
theorem no_conflict (k : Core) (hl : k.was.loads = []) (hx : k.xpend = []) (hc : k.was.cpend = [])
    (hs : k.was.syncs = []) (i : Instr) : k.xConflict i = false := by
  simp [Core.xConflict, Core.atStart, Core.gPending, Core.cPending, Core.gLoading, Core.vWriting, Core.vLoading, Core.mWriting,
    hl, hx, hc, hs]

/-- A core whose first format entry names a format. -/
def fmt (c : Nat) (k : Core) : Core := { k with ft := k.ft.set 0 (BitVec.ofNat 32 c) }

theorem meets_ElementWords : ∀ c : Fin 16, ftEfmt ((on0 (fmt c.val)).ftEntry 0) = c.val ∧ (on0 (fmt c.val)).me.was.loads = []
    ∧ (on0 (fmt c.val)).me.xpend = [] ∧ (on0 (fmt c.val)).me.was.syncs = [] ∧ (on0 (fmt c.val)).me.was.cpend = []
    ∧ ((on0 (fmt c.val)).clu.next (on0 (fmt c.val)).csr.req).isSome = true
    ∧ ∀ r : Fin 16, (on0 (fmt c.val)).me.v[r] = [(6144, 0)] := by decide +kernel

theorem meets_ElementWords_lanes : (rlist [(6144, (0 : Word))]).length = 6144 ∧ Full [(6144, (0 : Word))]
    ∧ (rlist (State.reset.me.rm 0)).length = 6144 ∧ (rlist (State.reset.me.rm 1)).length = 6144
    ∧ (∀ r : Fin 8, Full State.reset.me.m[r]) := by
  unfold Full; decide +kernel

theorem meets_ElementWords_conflict : ∀ i ∈ [Instr.vadd 2 3 4 1 0, .vunNot 2 3 1 0, .vcsplit 2 3 1, .vcmpEq 1 2 3 0 false,
    .mlogPopc 2 1, .vsel 2 3 4 1 0, .vredSum 2 3 1 0, .vcvt 2 3 0 1 0, .dqpush 2 3 1 2, .dqdrain 2 3 4, .vaccrd 2 3 4 1 0,
    .vaccwr 3 2 4 1],
    (on0 fun k => { k with was := { k.was with loads := [⟨9, .v 2 [(6144, 7)], 1⟩] } }).me.xConflict i = true := by decide +kernel

/-- ConversionWords: a target of each kind. -/
theorem meets_ConversionWords : (∀ k : Fin 16, k.val < 11 ∨ 14 ≤ k.val ∨ (11 ≤ k.val ∧ k.val ≤ 13)) ∧ (ffmtOf 2).isSome = true
    ∧ (ffmtOf 3).isSome = true := by decide +kernel

/-- QueueAndPortWords: a queue with room for exactly the entries pushed, and for one less; words that name rows at either end. -/
theorem ones_count (m : Nat) : ((List.range m).filter fun i => (rlist [(m, true)]).getD i false).length = m := by
  rw [List.filter_eq_self.2, List.length_range]
  intro i hi
  simp [rlist, List.getD, List.mem_range.1 hi]

theorem meets_QueueAndPortWords_push (n : Nat) :
    let s := on0 fun k => { k with dq := List.replicate n (0, 0, 0) }
    s.me.dq.length + ((List.range 6144).filter fun i => (rlist (s.me.rm 0)).getD i false).length = n + 6144 ∧ s.me.xpend = [] := by
  refine ⟨?_, rfl⟩
  rw [show (on0 fun k => { k with dq := List.replicate n (0, 0, 0) }).me.rm 0 = [(6144, true)] from rfl, ones_count]
  exact congrArg (· + 6144) (List.length_replicate ..)

theorem meets_QueueAndPortWords_rows :
    (∀ w ∈ [0x0130, 0x304F, 0x3050, 0x10000, 0x017F],
      let x := (on0 (gs [(4, BitVec.ofNat 64 w)])).me.old.rg 4
      x &&& ~~~0x13F7F = 0 ∧ (x.getLsbD 16 = true → x.toNat % 128 = 0 ∧ x.toNat / 256 % 64 = 0)
      ∧ (x.getLsbD 16 = false → 1 ≤ x.toNat / 256 % 64 ∧ x.toNat / 256 % 64 ≤ 48 ∧ x.toNat % 128 + x.toNat / 256 % 64 ≤ 128))
    ∧ ((on0 (gs [(4, 0x3051)])).me.old.rg 4).toNat % 128 + 48 = 129 := by decide +kernel

theorem meets_QueueAndPortWords_port :
    State.reset.me.frozenTile 3 = false ∧ (on0 fun k => { k with frozen := 8 }).me.frozenTile 3 = true
    ∧ State.reset.me.targeted 3 = false
    ∧ (on0 (shp 3 { Shape.zero with queue :=
        [⟨0, .mxMma 0 3 false 5, ((Vector.replicate 8 0).set 0 0x0001000100000001).set 3 3, 0, Slot.zero, Slot.zero, 0, 0, 0, true, false, 0, 0, []⟩] })).me.targeted 3 = true
    ∧ State.reset.me.laccs = []
    ∧ (∃ x ∈ [Lacc.mk 0 ((Vector.replicate 8 0).set 0 2) 0 0 1 0], x.start < 0 + 2 ∧ 0 < x.start + cbM x.cb) := by decide +kernel

theorem meets_QueueAndPortWords_land :
    let x (ws : List XWrite) : XPend := ⟨9, 0, 0, ws, 0⟩
    let s (ws : List XWrite) : State := evOf 9 [] (on0 fun k => { k with xpend := [x ws] })
    (∀ ws ∈ [[XWrite.v 2 [(6144, 7)], .m 1 [(6144, true)]], [.vm 2 [(6144, 7)] [(6144, 1)]], [.zero 3], [.acc 3 0 [(128, some 5)]], [.acc 3 127 [(128, none)]]],
      ((s ws).core 0).xpend.find? (·.id == 9) = some (x ws))
    ∧ (XPend.mk 8 9 0 [.acc 3 0 [(128, some 5)]] 0).id < (x [.zero 3]).id ∧ (XWrite.acc 3 0 [(128, some 5)]).cleared 3 = .acc 3 0 []
    ∧ ((s []).core 0).acc = [] ∧ 127 + (rlist [(128, (none : Option Word))]).length / 128 < 256 := by decide +kernel

/-- A block of a product of M rows, K and N, with A and B from offset 0 of their bank groups. -/
def block (m k n stamp : Nat) : Vector Dword 8 :=
  #v[BitVec.ofNat 64 (m + k * 2 ^ 32 + n * 2 ^ 48), 0x40000000, 0x40200000, BitVec.ofNat 64 (stamp * 2 ^ 32), 0, 0x3F80000000000000, 0, 0]

/-- A live shape of one cell, a block, a count base and a token. -/
def matrix (b : Vector Dword 8) (queue : List MCmd) (k : Core) : Core :=
  hs 3 .live (shp 3 { Shape.zero with d := 1, w := 1, queue := queue }
    { k with old := { k.old with cb := k.old.cb.set 2 b, tok := k.old.tok.set 5 ⟨.done, 0, none⟩ } })

/-- The window of die 0 at count 64. -/
def s0 : Nat := ({ State.reset with zc := 64 } : State).windowOf 0 64

def queued (id : Nat) (b : Vector Dword 8) (arrived started : Bool) : MCmd :=
  ⟨id, .mxMma 2 3 false 5, b, 0, Slot.zero, Slot.zero, 0, 100, 10, arrived, started, 0, 0, []⟩

/-- MatrixWords: a legal command of each word at the last stamp that is early and the first that is not; each fault. -/
theorem meets_MatrixWords_legal : ∀ i ∈ [Instr.mxMma 2 3 false 5, .mxMmat 2 3 true 5, .mxMmac 2 3 true 5], ∀ n ∈ [1, 128],
    let b := block 1 n n 1000
    let s := on0 (matrix b [])
    productOk i b (s.ftEntry (cbFcol b)) s.me.shape[(3 : Fin 8)] Slot.zero Slot.zero 0 = true
    ∧ productOk i (block 1 129 1 1000) 0 s.me.shape[(3 : Fin 8)] Slot.zero Slot.zero 0 = false
    ∧ s.me.old.sh[(3 : Fin 8)] = .live ∧ tokCheck (s.me.old.tok[(5 : Fin 64)]) = none
    ∧ (s.me.shape[(3 : Fin 8)]).queue.length = 0 ∧ s.me.frozen = 0 ∧ cbProj b = false ∧ cbSketch b = false
    ∧ s.clu.next s.csr.req = some at1 := by decide +kernel

theorem meets_MatrixWords_stamp :
    let s : State := State.reset
    let alpha := s.zc + s.lat (zenithOf 0) (cumulusOf 0) + 4
    (∀ x ∈ [0, 1], ((s.csr.zbase.toNat + cbStamp (block 1 1 1 (4 + x - 1))) % 2 ^ 64 + s.lat 0 (cumulusOf 0) < alpha ↔ x = 0))
    ∧ tokCheck Token.zero = some (causeState, 0)
    ∧ (on0 fun k => { matrix (block 1 1 1 1000) [] k with frozen := 1 }).me.frozenTile 0 = true
    ∧ rangeTiles (tileRanges (block 1 1 1 1000) Slot.zero Slot.zero) = [0]
    ∧ (List.replicate 16 (queued 8 (block 1 1 1 1000) true false)).length = 16 := by decide +kernel

/-- A block with PROJ of slot 0 into tile 0 and SKETCH of slot 1 into tile 1. -/
def haloBlock (stamp : Nat) : Vector Dword 8 := (block 1 1 1 stamp).set 3 (BitVec.ofNat 64 (stamp * 2 ^ 32 + 0x46010))

/-- A Halo command that keeps its limits, and one for a slot without its row. -/
theorem meets_MatrixWords_halo :
    let b := haloBlock 1000
    let s := on0 (matrix b [])
    let ok (p : Slot) := productOk (.mxMma 2 3 false 5) b (s.ftEntry (cbFcol b)) s.me.shape[(3 : Fin 8)] p slot1 3
    cbProj b = true ∧ cbSketch b = true ∧ cbPslot b = 0 ∧ cbSslot b = 1 ∧ cbPtile b = 0 ∧ cbStile b = 1
    ∧ ok slot1 = true ∧ ok Slot.zero = false := by decide +kernel

/-- DrainAndAccumulate: a drain of an empty queue and of another; a legal MX.LACC of the most rows, and one row more. -/
theorem meets_DrainAndAccumulate_words :
    let f (m n : Nat) : Prop := (m ≤ 128 * (12 / ((n + 127) / 128))) ∧ 1 ≤ n ∧ n ≤ 1024
    let b := block 1536 1 64 1000
    let s := on0 (matrix b [])
    (s.me.shape[(3 : Fin 8)]).queue = [] ∧ (on0 (matrix b [queued 8 b true false])).me.shape[(3 : Fin 8)].queue ≠ []
    ∧ f 1536 64 ∧ ¬f 1537 64 ∧ f 256 513 ∧ ftEfmt (s.ftEntry (cbFcol b)) = 0 ∧ cbM b = 1536 ∧ cbN b = 64 ∧ cbAbg b = 0
    ∧ cbAoff b = 0 ∧ cbApitch b = 64 ∧ rowBytes 0 64 = 256 ∧ 1535 * 64 + 256 ≤ 2 ^ 21
    ∧ (s.me.units[(6 : Fin 8)]) = 0 ∧ s.me.laccs = [] ∧ s.clu.next s.csr.req = some at1 := by decide +kernel

theorem meets_DrainAndAccumulate_meets :
    let x : Lacc := ⟨8, block 4 1 64 1000, 0, 0, 1000, 0⟩
    (∀ start ∈ [997, 1003], x.start < start + 4 ∧ start < x.start + cbM x.cb)
    ∧ (∀ start ∈ [996, 1004], ¬(x.start < start + 4 ∧ start < x.start + cbM x.cb)) := by decide +kernel

theorem meets_DrainAndAccumulate_rows :
    let x : Lacc := ⟨9, block 2 1 64 1000, 0, 0, 1000, 0⟩
    let s (q : Nat) (ws : List XWrite) (tag : Sparse (BitVec 16)) : State := { evOf 9 [q] (on0 fun k => { k with
      laccs := [x], xpend := [⟨7, 1000, 0, ws, 0⟩], tag := tag }) with zc := 1000 }
    (∀ q ∈ [0, 1], ((s q [] []).core 0).laccs.find? (·.id == 9) = some x
      ∧ (∀ t ∈ laccTiles x.cb, ((s q [] []).core 0).tileBusy (fun _ => false) t x.start = false)
      ∧ rowsTagged ((s q [] []).core 0).tag 0 (cbAoff x.cb) (cbApitch x.cb) (cbM x.cb) (rowBytes 0 64) (cbAtag x.cb) = true)
    ∧ (∃ t ∈ laccTiles x.cb, ((s 0 [.zero 0] []).core 0).tileBusy (fun _ => false) t x.start = true)
    ∧ rowsTagged ((s 0 [] [(0, 5)]).core 0).tag 0 (cbAoff x.cb) (cbApitch x.cb) (cbM x.cb) (rowBytes 0 64) (cbAtag x.cb) = false := by
  decide +kernel

/-- An MX.LACC that overwrites and one that accumulates, in FP32 and in INT32; two rows of 64 elements: the second is its last. -/
theorem meets_DrainAndAccumulate_elements :
    let b (acc : Nat) : Vector Dword 8 := (block 2 1 64 1000).set 0 (BitVec.ofNat 64 (2 + 2 ^ 32 + 64 * 2 ^ 48 + acc * 2 ^ 59))
    (∀ a ∈ [0, 1], cbAcc (b a) = (a == 1) ∧ cbM (b a) = 2 ∧ cbN (b a) = 64) ∧ (∀ e ∈ [0, 8, 15], ftEfmt (BitVec.ofNat 32 e) = e)
    ∧ 0 + 1 ≠ cbM (b 1) ∧ 1 + 1 = cbM (b 1) ∧ Rising (State.reset.core 0).acc := by
  unfold Rising; decide +kernel

/-- Charge balance: a pair of core 0's die whose members have done ten and eight beats in the window before this one, and ten
and nine; work in this one and none. -/
theorem meets_DrainAndAccumulate_balance :
    let s (n : Nat) : State := { evOf 9 [0, 3] State.reset with zc := 64, work := [⟨0, 6, s0 - 1, 10⟩, ⟨0, 7, s0 - 1, n⟩] }
    (∀ n ∈ [8, 9], s0 = (s n).windowOf 0 64 ∧ workOf (s n).work 0 6 (s0 - 1) = 10 ∧ workOf (s n).work 0 7 (s0 - 1) = n
      ∧ (10 * n < 9 * 10 ↔ n = 8)) := by decide +kernel

/-- MatrixEvents: a command at its start that is first and is not, that finds its tiles busy, its tags wrong, its banks in
clash, and that starts. -/
theorem meets_MatrixEvents :
    let m := queued 9 (block 1 1 1 1000) true false
    let s (l : List MCmd) (tag : Sparse (BitVec 16)) : State := evOf 9 [3] (on0 fun k => { matrix (block 1 1 1 0) l k with tag := tag })
    (∀ l ∈ [[m], [queued 8 (block 1 1 1 1000) true true, m]],
      (((s l []).core 0).shape[(3 : Fin 8)]).queue.find? (·.id == 9) = some m)
    ∧ (s [] []).arg 0 = (3 : Fin 8).val ∧ m.targets = [0] ∧ (((s [] []).core 0).shape[(3 : Fin 8)]).held = false
    ∧ (on0 fun k => matrix (block 1 1 1 0) [m] (shp 4 { Shape.zero with queue := [queued 7 (block 1 1 1 0) true true] } k)).me.tileBusy
        (· == 3) 0 100 = true
    ∧ rowsTagged [] 0 0 64 1 (rowBytes 0 1) 0 = true ∧ rowsTagged [(0, 5)] 0 0 64 1 (rowBytes 0 1) 0 = false
    ∧ (isDx 11 = true ∧ (0 : Nat) < 16 ∧ 16 < min 17 17 ∧ 1 * 0 % 16 = 1 * 16 % 16) ∧ 64 / 64 * 0 % 16 ≠ 64 / 64 * 1 % 16
    ∧ 1024 / 64 * 0 % 16 = 1024 / 64 * 1 % 16
    ∧ (∀ p ∈ [0, 1], let x := queued 9 (block 1 1 1 1000) true true
        let w : State := evOf 9 [3, p] (on0 (matrix (block 1 1 1 0) [x]))
        ((w.core 0).shape[(3 : Fin 8)]).queue.find? (·.id == 9) = some x ∧ (w.arg 1 < x.portions ↔ p = 0) ∧ x.started = true) := by
  decide +kernel

/-- The start of a Halo command: its checks hold. -/
def haloCmd (started : Bool) : MCmd := { queued 9 (haloBlock 1000) true started with pslot := slot1, sslot := slot1 }

theorem meets_MatrixEvents_halo :
    let m := haloCmd false
    let s : State := evOf 9 [3, 0] (on0 (matrix (haloBlock 0) [m]))
    let k := s.core 0
    (k.shape[(3 : Fin 8)]).queue = [m] ∧ m.started = false ∧ (k.shape[(3 : Fin 8)]).held = false ∧ m.arrived = true
    ∧ m.targets = [0, 1] ∧ k.xpend = [] ∧ (∀ h : Fin 8, h ≠ 3 → (k.shape[h]).queue = [])
    ∧ rowsTagged k.tag 0 (cbAoff m.cb) (cbApitch m.cb) (cbM m.cb) (rowBytes 0 (cbK m.cb)) (cbAtag m.cb) = true
    ∧ rowsTagged k.tag 1 (cbBoff m.cb) (cbBpitch m.cb) (bRows 0 m.cb).1 (rowBytes 0 (bRows 0 m.cb).2) (cbBtag m.cb) = true
    ∧ isDx (ftEfmt m.fmt) = false ∧ cbAcc m.cb = false ∧ k.old.csr.errinj.getLsbD 0 = false ∧ k.acc = []
    ∧ 0 < m.pslot.rank.toNat ∧ 0 < cbN m.cb ∧ 0 < m.sslot.rows.toNat ∧ 0 < m.sslot.kw.toNat := by decide +kernel

/-- Products: the first and the last row of a started command; groups of 16 and of 32. -/
theorem meets_Products : ∀ q : Fin 2,
    let m := queued 9 (block 2 1 1 1000) true true
    let s := evOf 9 [3, q.val] (on0 (matrix (block 1 1 1 0) [m]))
    s.arg 0 = (3 : Fin 8).val ∧ ((s.core 0).shape[(3 : Fin 8)]).queue.find? (·.id == 9) = some m
    ∧ m.rowList[s.arg 1]? = some q.val ∧ cbProj m.cb = false ∧ cbSketch m.cb = false
    ∧ (s.core 0).old.csr.errinj.getLsbD 0 = false ∧ (s.core 0).acc = [] ∧ s.arg 2 ≠ 1
    ∧ (evOf 9 [3, q.val, 1] s).arg 2 = 1 := by decide +kernel

theorem meets_Products_sums : (List.replicate 16 (FV.fin false 1 0, FV.fin false 1 0)).length = 16
    ∧ (List.replicate 32 (FV.fin false 1 0, FV.fin false 1 0)).length = 32 ∧ ftScaled 0x100 = true ∧ ftScaled 0 = false := by
  decide +kernel

/-- The row of a Halo command, and the finish of an MX.MMAC. -/
theorem meets_Products_halo :
    let m := haloCmd true
    let s := evOf 9 [3, 0] (on0 (matrix (haloBlock 0) [m]))
    s.arg 0 = (3 : Fin 8).val ∧ ((s.core 0).shape[(3 : Fin 8)]).queue.find? (·.id == 9) = some m ∧ m.rowList[s.arg 1]? = some 0
    ∧ s.arg 2 ≠ 1 ∧ cbProj m.cb = true ∧ cbSketch m.cb = true
    ∧ productOk m.op m.cb m.fmt (s.core 0).shape[(3 : Fin 8)] m.pslot m.sslot 3 = true
    ∧ (s.core 0).old.csr.errinj.getLsbD 0 = false ∧ (s.core 0).acc = [] := by decide +kernel

theorem meets_Products_check : ∀ n ∈ [1, 128],
    let m : MCmd := { queued 9 (block n 1 n 1000) true true with op := .mxMmac 2 3 false 5 }
    let s := evOf 9 [3] (on0 (matrix (block 1 1 1 0) [m]))
    s.arg 0 = (3 : Fin 8).val ∧ ((s.core 0).shape[(3 : Fin 8)]).queue.find? (·.id == 9) = some m ∧ cbM m.cb ≤ 128 ∧ cbN m.cb ≤ 128
    ∧ (s.core 0).acc = [] := by decide +kernel

/-- A launch request of gang 1 that breaks no rule. -/
def mail : Vector Dword 8 := #v[0, 0, 1, 0x2000000 ||| 0x0000000200000000, 8, 512, 65536, 0x0001000000010000]

/-- A mailbox post to core 0 with its doublewords. -/
def post (f : Vector Dword 8 → Vector Dword 8) (st : MailSt) (ctl : Nat) : State :=
  { loaded (evOf 0 [0, ctl] State.reset) with
    mail := State.reset.mail.set 0 { State.reset.mail[(0 : Fin 64)] with dw := f mail, st := st } }

/-- Launches, a post: each code; a box that is free, and one that is not. -/
theorem meets_Launches_post :
    let code (f : Vector Dword 8 → Vector Dword 8) (ctl : Nat) : Byte :=
      (post f .empty ctl).mailCode 0 (MailReq.ofWords ((f mail).set 3 (BitVec.ofNat 64 ctl &&& 0x0000FFFFFFFFFFF8)))
        ((BitVec.ofNat 64 ctl).extractLsb' 51 5 != 0)
    code id 0x200000001 = 0 ∧ code (·.set 0 1) 0x200000001 = 0x31 ∧ code (·.set 1 1) 0x200000001 = 0x32
    ∧ code (·.set 1 0x1000000000000) 0x200000001 = 0x32 ∧ code (·.set 1 0xFFFFFFE00000) 0x200000001 = 0
    ∧ code (·.set 2 2) 0x200000001 = 0x33 ∧ code id 1 = 0x34
    ∧ (post id .posted 0).mail[(0 : Fin 64)].st = .posted := by decide +kernel

theorem meets_Launches_clash :
    let r := MailReq.ofWords (mail.set 2 3)
    let b : Mail := { State.reset.mail[(1 : Fin 64)] with st := .posted, req := { r with argbase := 0x200000 } }
    r.gang.getLsbD 1 = true ∧ b.st = .posted ∧ ¬(b.req.image = r.image ∧ b.req.argbase = r.argbase) := by decide +kernel

theorem meets_Launches_klaunch : ∀ g ∈ [1, 3],
    let m : Cmd := { cmdOf 9 (.klaunch 4 5) [] with quad := (0, 0, BitVec.ofNat 64 g, 0) }
    let s := loaded { evOf 9 [] (on0 fun k => cmds [m] { k with launch := MailReq.ofWords mail }) with
      mail := State.reset.mail.set 1 { State.reset.mail[(1 : Fin 64)] with st := .loading } }
    (s.core 0).cmd 9 = some m ∧ s.mailCode 0 (klaunchReq (s.core 0).launch m 0) false = 0
    ∧ s.mail[(0 : Fin 64)].st = .empty ∧ s.mail[(1 : Fin 64)].st ≠ .empty := by decide +kernel

/-- A formed launch of core 0, every die ready. -/
def formed (st : RunSt) (stuck : List (Fin 64)) : State :=
  { post id .posted 0 with
    regs := { HostRegs.reset with ready0 := 0xFFFFFFFF }
    zc := 4
    ev := ⟨0, 0, [7], []⟩
    runs := [⟨7, 0, 1, .launch, 0, 0, st, stuck, 0, [], [], 0, 0, []⟩] }

theorem meets_Launches_select : State.reset.selectable = none
    ∧ (formed .waiting []).selectable = some ⟨7, 0, 1, .launch, 0, 0, .waiting, [], 0, [], [], 0, 0, []⟩
    ∧ (State.reset.runs.find? fun r => r.id == State.reset.arg 0 && r.st == .loading && r.stuck.isEmpty) = none
    ∧ ((formed .loading []).runs.find? fun r => r.id == (formed .loading []).arg 0 && r.st == .loading && r.stuck.isEmpty)
        = some ⟨7, 0, 1, .launch, 0, 0, .loading, [], 0, [], [], 0, 0, []⟩
    ∧ ((formed .loading []).kernelOf ((formed .loading []).mail[(0 : Fin 64)].req.image)).isSome = true := by decide +kernel

theorem meets_Launches_resume : (on0 fun k => { k with st := .suspended }).me.st = .suspended
    ∧ (State.reset.core 0).st ≠ .suspended ∧ State.reset.runs = []
    ∧ ((formed .loading [0]).runs.find? fun r => r.st == .loading && r.stuck.contains 0).isSome = true
    ∧ ({ formed .loading [0] with mail := (post id .suspended 0).mail } : State).mail[(0 : Fin 64)].st = .suspended
    ∧ (∀ x ∈ (formed .loading [0]).runs, x.st = .loading → (0 : Fin 64) ∈ x.stuck →
        x.kind = .launch ∧ (formed .loading [0]).mail[(0 : Fin 64)].st ≠ .suspended) := by decide +kernel

/-- Writes to UNCACHED pages of one cached translation do not stop. -/
theorem direct_write (cid : BitVec 12) (x : Nat) (e : MtuEnt) (hw : e.w = true) (hu : e.unc = true)
    (ps : List (Nat × Nat × Nat × Nat)) (hc : ∀ p ∈ ps, ¬2 ^ 48 ≤ p.1 * 128 ∧ e.covers cid (p.1 * 128 / 2 ^ 21) = true)
    (stamp : BitVec 48) (s : State) (hr : s.regs.drstState = 0) (hq : ∀ x, s.memReady (homeDie x).val = true)
    (hm : ∀ d : Fin 4, (s.mtu[d]).tc = [e]) :
    ((ps.foldl (fun (acc : EngRes) p =>
      match acc with
      | (s, .inr e) => (s, .inr e)
      | (s, .inl _) =>
        let (la, o, k, before) := p
        let piece := x / 2 ^ (8 * before) % 2 ^ (8 * k)
        match s.enginePage cid (la * 128) true with
        | (s, none, c) => (s, .inr (la * 128 + o, c))
        | (s, some f, _) =>
          if f.unc then ({ s with mem := s.mem.write (f.pa (la * 128 + o)) piece k }, .inl 0)
          else (s.homeWrite cid la o k piece stamp, .inl 0)) (s, .inl 0)).2) = .inl 0 := by
  induction ps generalizing s with
  | nil => rfl
  | cons p r ih =>
    obtain ⟨la, o, k, before⟩ := p
    have hp := hc _ (List.mem_cons_self ..)
    have hx : s.enginePage cid (la * 128) true
        = (s, some ⟨if e.big then e.frame - e.frame % 512 + la * 128 / 2 ^ 21 % 512 else e.frame, e.big, e.r, e.w, e.unc⟩, 0) := by
      have hf := hm (homeIdx (la * 128 / 2 ^ 21 * 2 ^ 21))
      simp only [Fin.getElem_fin] at hf
      simp only [State.enginePage, State.dieBusy, State.xlate, Fin.getElem_fin, hf, List.find?, hp.1, hp.2, hr, hq, hw, if_false]
      rfl
    rw [List.foldl_cons]
    simp only [hx, hu, if_true]
    exact ih (fun q h => hc q (List.mem_cons_of_mem _ h)) _ hr hq hm

/-- Context 0's save area is UNCACHED, and core 0 holds at a YIELD with nothing outstanding. -/
def yielding (req : Bool) (saveu : Nat) (ph : Phase) : State :=
  { loaded (on0 fun k => { cHold (.yield 2) (running k) with
      phase := ph
      launch := { k.launch with save := BitVec.ofNat 64 (saveu * 2 ^ 48) }
      vis := { k.vis with csr := { k.vis.csr with preempt := if req then 3 else 0 } }
      replay := some (k.imageAt 2) }) with
    regs := { HostRegs.reset with ready0 := 0x78000000 }
    mtu := Vector.replicate 4 { Mtu.reset with tc := [⟨0, 0, true, true, true, true, 0⟩] } }

theorem save_pieces : ∀ p ∈ linePieces 0 409600,
    ¬2 ^ 48 ≤ p.1 * 128 ∧ MtuEnt.covers ⟨0, 0, true, true, true, true, 0⟩ 0 (p.1 * 128 / 2 ^ 21) = true := by decide +kernel

theorem direct_engineWrite (x : Nat) (stamp : BitVec 48) (s : State) (hr : s.regs.drstState = 0)
    (hq : ∀ x, s.memReady (homeDie x).val = true) (hm : ∀ d : Fin 4, (s.mtu[d]).tc = [⟨0, 0, true, true, true, true, 0⟩]) : (s.engineWrite 0 0 409600 x stamp).2 = .inl 0 :=
  direct_write 0 x ⟨0, 0, true, true, true, true, 0⟩ rfl rfl _ save_pieces stamp s hr hq hm

theorem yielding_save : ∀ req : Bool, ((yielding req 7 .normal).core 0).launch.saveOf 0 = 0
    ∧ ((yielding req 7 .normal).core 0).vis.csr.cid = 0 := by decide +kernel

theorem yielding_ready (req : Bool) (x : Nat) : (yielding req 7 .normal).memReady (homeDie x).val = true := by
  have : ∀ i : Fin 4, (yielding req 7 .normal).memReady (2 + i.val) = true := by cases req <;> decide +kernel
  exact this ⟨(x / 2 ^ 21 % 4 ^^^ x / 2 ^ 23 % 4) % 4, by omega⟩

theorem meets_YieldAndPreempt_image (req : Bool) : ∃ w, (yielding req 7 .normal).writeImage 0 = (w, none) := by
  refine ⟨((yielding req 7 .normal).writeImage 0).1, Prod.ext rfl ?_⟩
  unfold State.writeImage
  simp only [(yielding_save req).1, (yielding_save req).2]
  have h := direct_engineWrite (Machine.imageBytes (yielding req 7 .normal).freeCtr)
    (stampOf 0 0 ((yielding req 7 .normal).core 0).seqs[(3 : Fin 15)]) (yielding req 7 .normal) rfl (yielding_ready req) fun d => by simp [yielding]
  split
  · rfl
  · rename_i hn; rw [hn] at h; cases h

theorem meets_YieldAndPreempt_points :
    (∀ n ∈ [6, 7], ((yielding false n .normal).core 0).yieldHeld = some 2 ∧ ((yielding false n .normal).core 0).replayReady = true
      ∧ ((yielding false n .normal).core 0).launch.saveu = n)
    ∧ (State.reset.core 0).yieldHeld = none ∧ ((yielding true 7 .normal).core 0).preemptAt = some 2
    ∧ (State.reset.core 0).preemptAt = none ∧ ((yielding true 7 (.saving 2)).core 0).saveReady = true
    ∧ (State.reset.core 0).saveReady = false ∧ (State.reset.core 0).restoreReady = none
    ∧ (∀ b : Bool, (((yielding false 7 (.restoring 2 b)).core 0).restoreReady).isSome = true)
    ∧ (on0 fun k => { running k with deadln := some 0 }).me.expired 0 0 = true
    ∧ (∀ d : Fin 64, (State.reset.core d).expired 0 0 = false)
    ∧ ((yielding true 7 .normal).core 0).vis.csr.req = true ∧ ((yielding true 7 .normal).core 0).clus[(0 : Fin 4)].hold.ended = none
    ∧ (∀ i : Fin 4, (((yielding false 7 .normal).core 0).imageAt 2).clus[i].susp = none)
    ∧ ({ Cluster.reset with susp := some ⟨0, 5, 2, 1, 3, 9, 2⟩ } : Cluster).susp = some ⟨0, 5, 2, 1, 3, 9, 2⟩
    ∧ ((yielding true 7 .normal).core 0).vis.csr.pstate ≠ 3 := by decide +kernel

/-- ReplayAndEnd: a run that may retry and one that may not; its cores settled and not; a page that answers, and none. -/
theorem meets_ReplayAndEnd :
    let s (st : RunSt) (retry stage : Nat) (l : List Load) : State := { evOf 0 [7, stage] (on0 fun k => { running k with loads := l }) with
      runs := [⟨7, 0, 1, .launch, 0, 0, st, [], retry, [], [], 0, 0, []⟩] }
    (∀ st ∈ [RunSt.running, .loading], ∀ n ∈ [1, 2], ((s st n 0 []).runs.find? fun r => r.id == (s st n 0 []).arg 0)
        = some ⟨7, 0, 1, .launch, 0, 0, st, [], n, [], [], 0, 0, []⟩)
    ∧ ((s .running 0 0 []).core 0).vis.csr.retrylim.toNat = 2 ∧ ((s .running 0 1 []).core 0).settled = true
    ∧ ((s .running 0 1 [⟨9, .g 3 42, 1⟩]).core 0).settled = false ∧ (s .running 0 1 []).arg 1 ≠ 0
    ∧ (1 : Dword).getLsbD (0 : Fin 64).val = true ∧ ((s .running 0 0 []).core 0).st ≠ .idle
    ∧ (s .running 0 0 []).inCtx 0 0 = true ∧ State.reset.inCtx 0 0 = false := by decide +kernel

theorem meets_ReplayAndEnd_ends : ∀ n ∈ [0, 64],
    let s : State := evOf 0 [0, 0, 0x24, n, 0x24] (on0 fun k => cmds [cmdOf 9 (.nbrot 5 8 3) []] (running k))
    s.arg 0 = 0 ∧ s.inCtx 0 0 = true ∧ (0 : Fin 64).val < 32 ∧ (s.core 0).st = .running
    ∧ (s.ev.args.getD 3 65 = (0 : Fin 64).val ∨ s.ev.args.getD 3 65 = 64) ∧ (evOf 0 [1] s).arg 0 = 1
    ∧ (∃ m ∈ (s.core 0).cmds, m.gone = false) := by decide +kernel

/-- The end reaches Zenith 1 with a dirty and a clean line of the context, and a store to an UNCACHED page left or none. -/
theorem meets_ReplayAndEnd_record8 :
    let l (d : BitVec 128) : Line := ⟨0, 3, 0, true, d, 0⟩
    let s : State := { evOf 0 [1, 0, 0x24] (on0 running) with home := [l 1, l 0], regs := { HostRegs.reset with frctl := 0x26 } }
    s.arg 0 = 1 ∧ s.inCtx 0 0 = true ∧ (∀ d : Fin 64, s.inCtx 0 d = true → (s.core d).ustores = [])
    ∧ s.home.filter (fun x => !(x.cid == 0 && x.dirty != 0)) = [l 0] := by decide +kernel

theorem meets_ReplayAndEnd_refill : (∃ w, State.reset.xlate 0 0 = (w, .none))
    ∧ (∃ w, (shared State.reset).xlate 0 0 = (w, .synonym))
    ∧ (∃ w, (mapped State.reset).xlate 0 0 = (w, .ok ⟨0, true, true, true, false⟩)) :=
  ⟨split_of (by decide +kernel), split_of (by decide +kernel), split_of (by decide +kernel)⟩

/-- A fault ring that is off, one with room and one that is full; a record of the greatest fields. -/
theorem meets_ReplayAndEnd_record :
    let s (on : Bool) (head : Nat) : State := { State.reset with regs := { HostRegs.reset with
      frctl := if on then 0x26 else 6, frhead := BitVec.ofNat 32 head, frtail := 0 } }
    let full (s : State) : Prop := (s.regs.frhead - s.regs.frtail).toNat = 2 ^ (s.regs.frctl.toNat % 32)
    (s false 0).regs.frctl.getLsbD 5 = false ∧ (s true 0).regs.frctl.getLsbD 5 = true ∧ ¬full (s true 63) ∧ full (s true 64)
    ∧ Memory.wf (s true 0).mem = true
    ∧ (let y : Rec := ⟨255, 255, 4095, 63, 3, 7, 3, true, 2 ^ 48 - 1, 2 ^ 48 - 1, 65535, 63, true, 2 ^ 40 - 1⟩
       y.kind < 2 ^ 8 ∧ y.cause < 2 ^ 8 ∧ y.core < 2 ^ 6 ∧ y.cl < 4 ∧ y.die < 8 ∧ y.mode < 4 ∧ y.stamp < 2 ^ 48
       ∧ y.widx < 2 ^ 16 ∧ y.lfb < 2 ^ 6) := by decide +kernel

/-- A state with host registers changed. -/
def host (f : HostRegs → HostRegs) (args : List Nat) : State := { evOf 0 args State.reset with regs := f { HostRegs.reset with hostUp := true } }

/-- RegisterWrites: the link up and down; clock limits at their ends; a fault ring's sizes at their ends; one action and two; a
die under reset, and none; an operation under way; a box that is free, and one that is not. -/
theorem meets_RegisterWrites :
    (host id []).regs.hostUp = true
    ∧ ({ HostRegs.reset with hostUp := false } : HostRegs).hostUp = false
    ∧ (∀ x ∈ [0x4000000, 0x4200000], x / 2 ^ 22 % 32 ≤ 16 ∧ x / 2 ^ 17 % 32 ≤ x / 2 ^ 22 % 32) ∧ ¬(0x4400000 / 2 ^ 22 % 32 ≤ 16)
    ∧ (∀ x ∈ [6, 16], 6 ≤ x % 32 ∧ x % 32 ≤ 16) ∧ 0 % 32 = 0 ∧ (0 : Dword).getLsbD 5 = false ∧ ¬(6 ≤ 5 % 32) ∧ ¬(17 % 32 ≤ 16)
    ∧ (∀ x : Fin 3, let y : Dword := BitVec.ofNat 64 (2 ^ (12 + x.val)); [y.getLsbD 12, y.getLsbD 13, y.getLsbD 14].count true = 1)
    ∧ (0x3000 : Dword).getLsbD 13 = true ∧ (host (fun g => { g with drstState := 1 }) []).regs.drstState ≠ 0
    ∧ (host id []).regs.drstState = 0 ∧ (host (fun g => { g with mbusy := true }) []).regs.mbusy = true
    ∧ (∀ x : Fin 7, (mgmtOf (BitVec.ofNat 8 (x.val + 1))).isSome = true ∧ (BitVec.ofNat 64 (0x101 + x.val)).getLsbD 8 = true)
    ∧ (State.reset.mail[(0 : Fin 64)]).st = .empty ∧ (post id .posted 0).mail[(0 : Fin 64)].st ≠ .empty := by decide +kernel

/-- A subscription that fires, that re-arms and that does neither, rising and falling; a table of one entry, read; a table whose read
is due and one whose is not. -/
theorem meets_HostAndPower_subscriptions :
    let m : Measure := ⟨50, 900, [], 7⟩
    let u (fall armed : Bool) (thr : Nat) : Sub := ⟨0, 2, 1, 0, fall, thr, 10, 64, armed, false, 0⟩
    let s : State := { mapped State.reset with gov := { State.reset.gov with subs := [u false true 900], reads := [(0, 128, 0)] } }
    (∀ x ∈ [(u false true 900), (u true true 900)], if x.fall then m.power ≤ x.thr else x.thr ≤ m.power)
    ∧ (∀ x ∈ [(u false false 911), (u true false 889)], if x.fall then x.thr + x.hyst < m.power else m.power < x.thr - x.hyst)
    ∧ (∀ x ∈ [(u false false 910), (u true false 890)], ¬if x.fall then x.thr + x.hyst < m.power else m.power < x.thr - x.hyst)
    ∧ (s.engineWrite 0 64 8 (900 + 2 ^ 32 + 2 * 2 ^ 48) (stampOf 0 0 (s.core 0).seqs[(3 : Fin 15)])).2.isLeft = true
    ∧ (State.reset.engineWrite 0 64 8 (900 + 2 ^ 32 + 2 * 2 ^ 48) (stampOf 0 0 0)).2.isRight = true
    ∧ (({ s with mem := Memory.write [] 128 (1 + 900 * 2 ^ 64 + 64 * 2 ^ 128) 32 } : State).engineRead 0 128 256).2
        = .inl (1 + 900 * 2 ^ 64 + 64 * 2 ^ 128)
    ∧ (s.gov.reads.filter (·.2.2 ≤ s.zc)).length = 1 := by decide +kernel

/-- RegisterWrites: a telemetry control that restarts the ring, that does not, and out of range; a pair that is open and one that is
not; a length of a queue in range and out of it. -/
theorem meets_RegisterWrites_rings :
    let ok (logn en period : Nat) : Prop := ((6 ≤ logn ∧ logn ≤ 16) ∨ (logn = 0 ∧ en = 0)) ∧ 1 ≤ period ∧ period ≤ 1000000
    ok 6 1 1000 ∧ ok 0 0 1 ∧ ¬ok 5 1 1000 ∧ ¬ok 6 1 0 ∧ ¬ok 16 0 1000001
    ∧ (host id []).regs.tlctl.getLsbD 5 = false ∧ (host (fun g => { g with tlctl := 0x20 }) []).regs.tlctl.getLsbD 5 = true
    ∧ (host id []).regs.clk < 32 ∧ (State.reset.qp 3).open_ = false ∧ ({ State.reset with qps := [(3, pair [])] } : State).qp 3 = pair []
    ∧ (pair []).open_ = true ∧ (pair []).logn < 2 ^ 4 ∧ (pair []).eidx < 2 ^ 12
    ∧ (∀ n ∈ [2, 12], 2 ≤ (4 * n + 1) / 2 ^ 2 % 2 ^ 4 ∧ (4 * n + 1) / 2 ^ 2 % 2 ^ 4 ≤ 12) ∧ ¬(13 ≤ 12)
    ∧ 0x600 + 8 * (11 : Fin 12).val = 0x658 := by decide +kernel

/-- HostAndPower, a TINV: while one is BUSY; of a 1 GiB page misaligned; of a pinned page; of another; a completion that waits. -/
theorem meets_HostAndPower_tinv :
    let x := 3 * 2 ^ 21
    let pin : Pin := ⟨0, 0, 3, false, 1⟩
    (host (fun g => { g with tinvBusy := true }) [x]).regs.tinvBusy = true ∧ (host id [x]).regs.tinvBusy = false
    ∧ x / 2 ^ 13 % 2 = 0 ∧ (x + 2 ^ 12) / 2 ^ 12 % 2 = 1 ∧ (x + 2 ^ 12) / 2 ^ 21 % 2 ^ 9 ≠ 0
    ∧ (pin.cid = BitVec.ofNat 12 x ∧ pin.page < 2 ^ 27 ∧ x / 2 ^ 21 % 2 ^ 27 < pin.page + 1 ∧ pin.page < x / 2 ^ 21 % 2 ^ 27 + 1)
    ∧ (host id [x]).pins = []
    ∧ (on0 fun k => { k with loads := [⟨9, .g 3 42, 1⟩] }).me.accessBefore 10 = true
    ∧ (∀ c : Fin 64, (State.reset.core c).accessBefore 10 = false) := by decide +kernel

theorem meets_HostAndPower_queues :
    Rising (State.reset.mtu[(frameIdx 0)]).dirty ∧ (State.reset.qp 3).open_ = false
    ∧ ({ State.reset with qps := [(3, pair [])] } : State).qp 3 = pair [] ∧ (pair []).open_ = true
    ∧ (∀ x ∈ [2, 12], 2 ≤ 4 * x / 4 % 16 ∧ 4 * x / 4 % 16 ≤ 12)
    ∧ (∀ c : Fin 64, ∀ i : Fin 3, (State.reset.core c).splb[i] = []) := by
  unfold Rising; decide +kernel

/-- The governor with no subscription; a boundary and none; a step that changes the clock and one that does not; telemetry on
and off. -/
theorem meets_HostAndPower_power :
    State.reset.gov.subs = [] ∧ State.reset.gov.reads = [] ∧ (∀ d : Fin 8, State.reset.gov.base[d] < 2 ^ 32) ∧ State.reset.ev.args = [] ∧ State.reset.boundary = true
    ∧ ({ State.reset with zc := 1 } : State).boundary = false ∧ (host id [1]).ev.args ≠ [] ∧ State.reset.gov.step = none
    ∧ (let g := (host (fun g => { g with pwctl := 0x0000000004000000 ||| 0x4000000 }) [1]).regs
       g.pwctl.getLsbD 16 = false ∧ g.clk = 16 ∧ g.pwctl.toNat / 2 ^ 22 % 32 = 16)
    ∧ (let g := (host (fun g => { g with pwctl := 0x3C00000 }) [1]).regs
       g.pwctl.toNat / 2 ^ 22 % 32 = 15 ∧ max 0 (min 15 (15 - 0)) ≠ g.clk)
    ∧ (host id []).regs.tlctl.getLsbD 5 = false ∧ (host (fun g => { g with tlctl := 0x20 }) []).regs.tlctl.getLsbD 5 = true
    ∧ State.reset.gov.sampleAt ≤ State.reset.time
    ∧ ¬State.reset.gov.windowAt ≤ State.reset.time ∧ State.reset.gov.windowAt ≤ ({ State.reset with time := windowSpan } : State).time
    ∧ State.reset.time < State.reset.gov.syncAt + 4 * 10 ^ 9 * unitsPerNs
    ∧ State.reset.gov.syncAt + 4 * 10 ^ 9 * unitsPerNs ≤ ({ State.reset with time := 4 * 10 ^ 9 * unitsPerNs } : State).time
    ∧ State.reset.regs.clk < 32 := by
  decide +kernel

/-- A gang with a running core whose report of its first PHASE 2 is known on Stratus later; one that is suspended. -/
theorem meets_HostAndPower_boundary :
    let s (st : CoreSt) : State := { on0 (fun k => { k with st := st, run := 7, phases := k.phases.set 2 1, reports := [(1, 0)] }) with
      runs := [⟨7, 0, 1, .launch, 0, 0, .running, [], 0, [], [], 0, 0, []⟩] }
    (s .running).gangsOn = (s .running).runs ∧ (s .suspended).gangsOn = [] ∧ (0 : Fin 64) ∈ gangCores 1 ∧ (s .running).regs.phto ≠ 0
    ∧ ({ s .running with regs := { (s .running).regs with pwctl := 0 } } : State).regs.phto = 0
    ∧ ((s .running).core 0).reports.find? (·.1 == 0 + 1) = some (1, 0) ∧ (s .running).boundary = true := by decide +kernel

/-- ErrorsAndResets: each state of a die reset; each kind of flit. -/
theorem meets_ErrorsAndResets :
    let s (st d : Nat) : State := host (fun g => { g with drstState := st, drstCur := d }) [d, 0]
    (∀ st ∈ [1, 2, 3], ∀ d ∈ [1, 6], (s st d).regs.drstState = st ∧ (s st d).regs.drstCur = (s st d).arg 0)
    ∧ (s 0 6).regs.drstState = 0 ∧ (s 0 6).arg 1 = 0 ∧ (host id [3, 1]).arg 1 = 1
    ∧ (host id [8, 0, 0, 0, 0, 0, 0]).arg 6 = 0 ∧ (host id [2, 0, 0, 0, 0, 0, 10]).arg 6 = 9 + 1 ∧ (host id [8, 1]).arg 0 = 8
    ∧ (State.reset.pop[(0 : Fin 64)] ≠ 0 ∧ ({ State.reset with pop := State.reset.pop.set 0 0 } : State).pop[(0 : Fin 64)] = 0)
    ∧ ({ State.reset with flits := State.reset.flits.set 3 15 } : State).flits[(3 : Fin 12)] = 15
    ∧ State.reset.flits[(3 : Fin 12)] < 15 := by decide +kernel

/-- A die reset whose fence waits for a store to the die, and one that waits for nothing; an error of loop state on a core that
runs a context. -/
theorem meets_ErrorsAndResets_fence :
    let s (l : List UStore) : State := { on0 (fun k => { running k with ustores := l }) with
      regs := { HostRegs.reset with drstState := 1, drstCur := 2 }, ev := ⟨0, 0, [2, 10], []⟩ }
    (s []).crossing 2 10 = false ∧ (s [⟨9, 64, [(8, 1)], 1, 0⟩]).crossing 2 10 = true ∧ (s [⟨10, 64, [(8, 1)], 1, 0⟩]).crossing 2 10 = false
    ∧ (s []).arg 0 = 2 ∧ (s []).arg 1 = 10 ∧ ((s []).core 0).st = .running ∧ (s []).ending 0 = false ∧ (s []).over 0 = false
    ∧ (host id [11, 0, 0]).arg 0 = 11 ∧ (host id [2, 0, 0, 0, 0, 0, 0, 4, 7]).arg 7 = 3 + 1 := by decide +kernel

/-- Transfers between a core and its own stores that a die reset waits for; a verdict that stands, one to reach, and one on a staged
image. -/
theorem meets_ErrorsAndResets_stores :
    let s (f : Core → Core) : State := { on0 f with regs := { HostRegs.reset with drstState := 1, drstCur := 2 }, ev := ⟨0, 0, [2, 10], []⟩ }
    (cumulusOf 0).val = 2 ∧ (zenithOf 0).val ≠ 2 ∧ (cumulusOf 63).val ≠ 2 ∧ (zenithOf 63).val ≠ 2
    ∧ (s fun k => { k with stts := [⟨9, 0, 0, [], none⟩] }).crossing 2 10 = true
    ∧ (s fun k => { k with loads := [⟨9, .v 2 [(6144, 7)], 0⟩] }).crossing 2 10 = true
    ∧ State.reset.trust.passed = none ∧ State.reset.trust.standby = none
    ∧ ({ State.reset.trust with passed := some true } : Trust).judge.2 = true
    ∧ ({ State.reset.trust with standby := some [] } : Trust).standby = some [] := by decide +kernel

/-- A die reset that drains: an item outstanding at its GO; a command and a word that cross, and none. -/
theorem meets_ErrorsAndResets_drain :
    let s := evOf 9 [] { State.reset with regs := { HostRegs.reset with drstState := 1, drstCur := 2, drstMark := 10 } }
    s.drains ∧ ({ cmdOf 9 (.ldb 1 5 0) [0, 1] with started := true } : Cmd).crosses 0 2 = true
    ∧ (cmdOf 9 (.verchk 1 4) [64, 0]).crosses 0 2 = true ∧ (cmdOf 9 (.verchk 1 4) [64, 0]).crosses 0 3 = false
    ∧ State.reset.me.cmds = [] ∧ State.reset.me.syncs = [] ∧ (host id [3]).ev.args.length ≤ 1 := by
  unfold State.drains; decide +kernel

/-- Management registers, with the security root ready. -/
def manage (a b c : Nat) : State := { host (fun g => { g with
  ready0 := 0xFFFFFFFF, marg := #v[BitVec.ofNat 64 a, BitVec.ofNat 64 b, BitVec.ofNat 64 c] }) [] with
    mtu := Vector.replicate 4 { Mtu.reset with tc := [⟨0, 0, true, true, true, false, 0⟩] } }

theorem left_of {x : EngRes} (h : x.2.isLeft = true) : ∃ w n, x = (w, .inl n) :=
  match x, h with
  | (w, .inl n), _ => ⟨w, n, rfl⟩

theorem right_of {x : EngRes} (h : x.2.isRight = true) : ∃ w e, x = (w, .inr e) :=
  match x, h with
  | (w, .inr e), _ => ⟨w, e, rfl⟩

/-- Management: a summary page written; each argument at its limit; a live and a free context; an image of the right form read,
and another; a firmware image read; a refused page. -/
theorem meets_Management_resync :
    let s := manage 4096 0 0
    (s.marg 0 % 4096 = 0 ∧ s.marg 0 + 4096 ≤ 2 ^ 48 ∧ (manage 4095 0 0).marg 0 % 4096 ≠ 0)
    ∧ (s.engineWrite 0 4096 4096 s.summary 0).2.isLeft = true ∧ (s.engineWrite 0 4096 4096 s.summary 0).1.zc = s.zc := by
  decide +kernel

theorem meets_Management_arguments :
    (manage 0 0 0).regs.ready0.getLsbD 26 = true ∧ State.reset.regs.ready0.getLsbD 26 = false
    ∧ (∀ n ∈ [0, 63], (manage n 0 0).marg 0 < 64 ∧ sget n (manage n 0 0).images = none ∧ (manage n 0 0).slotUsed n = false)
    ∧ (sget 0 (loaded (manage 0 0 0)).images).isSome = true
    ∧ ({ manage 0 0 0 with mail := (post id .posted 0).mail } : State).slotUsed 0 = true
    ∧ (known (manage 0 0 0)).mem.read 0 1 % 2 = 1 ∧ (known (manage 0 0 0)).ended.contains 0 = false ∧ (manage 4095 0 0).mem.read (16 * 4095) 1 % 2 ≠ 1 := by decide +kernel

/-- An image in memory at 4096. -/
def stored (n : Nat) : State := { manage 0 4096 n with mem := (rlist smallImage).zipIdx.foldl (fun m x => m.setByte (4096 + x.2) x.1) [] }

theorem meets_Management_image :
    ((stored 400).engineRead 0 4096 400).2 = .inl (bytesNat (rlist smallImage)) ∧ ((stored 400).engineRead 0 4096 400).1.zc = (stored 400).zc
    ∧ imageOk (rof (natBytes 400 (bytesNat (rlist smallImage)))) = true
    ∧ ((manage 0 4096 16).engineRead 0 4096 16).2 = .inl 0 ∧ imageOk (rof (natBytes 16 0)) = false := by decide +kernel

theorem meets_Management_firmware : ∃ w x, (manage 0 2484 0).engineRead 0 ((manage 0 2484 0).marg 0) ((manage 0 2484 0).marg 1) = (w, .inl x) :=
  left_of (by decide +kernel)

theorem meets_Management_attest : (∃ w e, (host (fun g => { g with ready0 := 0xFFFFFFFF }) []).engineRead 0 0 32 = (w, .inr e))
    ∧ ((host (fun g => { g with ready0 := 0xFFFFFFFF }) []).engineRead 0 0 32).1.zc = 0 :=
  ⟨right_of (by decide +kernel), by decide +kernel⟩

/-- ATTEST: its nonce read, whatever its report's write answers; a report with an image loaded. -/
theorem meets_Management_report : ∃ (w v : State) (r : Nat ⊕ (Nat × Nat)), let s := manage 0 4096 0
    s.regs.ready0.getLsbD 26 = true ∧ s.marg 0 + 32 ≤ 2 ^ 48 ∧ s.marg 1 + 4564 ≤ 2 ^ 48
    ∧ s.engineRead 0 (s.marg 0) 32 = (w, .inl 0) ∧ w.zc = s.zc
    ∧ ({ w with freeCtr := w.freeCtr + 1 } : State).engineWrite 0 (s.marg 1) 4564 (w.report 0) 0 = (v, r) ∧ v.zc = s.zc := by
  obtain ⟨w, h⟩ := split_of (x := (manage 0 4096 0).engineRead 0 0 32) (b := .inl 0) (by decide +kernel)
  have hz : w.zc = (manage 0 4096 0).zc := by
    have := (engineRead_keeps (manage 0 4096 0) 0 0 32).zc
    rwa [h] at this
  exact ⟨w, _, _, by decide +kernel, by decide +kernel, by decide +kernel, h, hz, Prod.mk.eta.symm,
    (engineWrite_keeps _ _ _ _ _ _).zc.trans hz⟩

theorem meets_Management_images : let l : Sparse ImageSlot := [(0, ⟨smallImage, digestOf (rlist smallImage)⟩)]
    Rising l ∧ (∀ y ∈ l, y.1 < 64 ∧ y.2.digest.length = 32) := by unfold Rising; decide +kernel

/-- A vector that is masked, pending and not; one that is not masked; a write of its mask bit, set and clear. -/
theorem meets_Management_vectors : ∀ v ∈ [0, 2047],
    let s (m p x : Nat) : State := { host id [2 ^ 26 + 16 * v + 8, x] with
      vecMask := BitVec.ofNat 2048 (m * 2 ^ v), vecPend := BitVec.ofNat 2048 (p * 2 ^ v) }
    (s 1 1 0).vecMask.getLsbD v = true ∧ (s 0 0 0).vecMask.getLsbD v = false ∧ (s 1 1 0).vecPend.getLsbD v = true
    ∧ (s 1 0 0).vecPend.getLsbD v = false ∧ (s 1 1 0).regs.hostUp = true ∧ (s 1 1 0).arg 0 = 2 ^ 26 + 16 * v + 8
    ∧ ((s 1 1 (2 ^ 32)).arg 1).testBit 32 = true ∧ ((s 1 1 0).arg 1).testBit 32 = false := by decide +kernel

/-- BAR2: within the ready dies and mapped; at the end of the space; past it; a die that is not ready. -/
theorem meets_Management_bar2 :
    let ok (s : State) (a n : Nat) : Bool := decide (a + n ≤ 2 ^ 48) && (pagesOf a n).all fun p =>
      s.regs.ready0.getLsbD (homeDie (p * 2 ^ 21)).val && s.regs.ready0.getLsbD (25 + (homeDie (p * 2 ^ 21)).val)
    let s : State := { manage 0 0 0 with ev := ⟨0, 0, [64, 8], [(8, 1)]⟩ }
    s.regs.hostUp = true ∧ ok s 64 8 = true ∧ ok s (2 ^ 48 - 8) 8 = true ∧ ok s (2 ^ 48 - 7) 8 = false ∧ ok (host id [64, 8]) 64 8 = false
    ∧ ok (host (fun g => { g with ready0 := 0x3FFFFFF }) [64, 8]) 64 8 = false
    ∧ (s.engineRead 0 64 8).2 = .inl 0 ∧ (s.engineWrite 0 64 8 (bytesNat (rlist s.ev.data)) 0).2.isLeft = true := by decide +kernel

/-- MemoryStaysCanonical and LanesAndTables: ResetState says that their invariants hold at reset. EncodeOfDecode: the
`test_decode` theorems. DecodeOfEncode, WordsTouchOneCore: words of the map of the cluster that has the turn. ElementNumbers,
RoundsToNearest: formats and values at their ends. -/
theorem meets_RoundsToNearest : fp32.decode 0x7F7FFFFF = .fin false 0xFFFFFF 104 ∧ fp32.decode 1 = .fin false 1 (-149)
    ∧ fp32.decode 0x7F800000 = .inf false := by decide +kernel

theorem meets_DecodeOfEncode : Cl.reads .c (.add 1 2 3) = true ∧ Instr.wf (.add 1 2 3) = true ∧ plain.ic = 0
    ∧ Cl.reads .x (.vadd 1 2 3 4 5) = true ∧ Instr.wf (.vadd 1 2 3 4 5) = true := by decide +kernel

theorem meets_WordsTouchOneCore : State.reset.turn.cl.reads .nop = true ∧ (1 : Fin 64) ≠ State.reset.turn.core
    ∧ ∃ t, exec .nop State.reset = .next t := ⟨by decide +kernel, by decide +kernel, _, rfl⟩

theorem meets_ElementNumbers : (127 : Nat) < 2 ^ 8 ∧ (2 ^ 31 : Nat) < 2 ^ 32 ∧ (2 ^ 15 + 1 ≤ 0xFBFF ∧ 0xFBFF < 2 ^ 15 + 0x7C00)
    ∧ (0xFFFF < 2 ^ 16 ∧ 0x7C00 + 1 ≤ 0xFFFF % 2 ^ 15) := by decide

/-! ## One step, the result worked out by hand from the rule named -/

/-- The next state of a meaning. -/
def after (o : Host.Outcome State Fault Refusal) : State := match o with
  | .next t => t
  | _ => State.reset

/-- g3 after a word on g1 and g2. -/
def g3 (i : Instr) (a b : Dword) : Dword := ((after (exec i (on0 (gs [(1, a), (2, b)])))).core 0).vis.g[(3 : Fin 64)]

/-- The worked decodes of R89. -/
theorem test_decode_worked : decode .c 0x02C87001 = some (plain, .brT 2 7) ∧ decode .c 0x024189DA = some (plain, .cmpiLt 3 4 0x3B)
    ∧ decode .c 0x02600000 = none ∧ decode .x 0x00304900 = some (plain, .vunSqrt 1 2 0 0) ∧ decode .x 0x00304B00 = none
    ∧ decode .l 0x01A00000 = some (plain, .markL) ∧ decode .w 0x01A00000 = some (plain, .amoAdd 0 0 false 0)
    ∧ decode .l 0x01A00001 = none ∧ decode .c 0xFFFFFFFF = none := by decide +kernel

/-- R91, R94, R95: sums wrap; shift amounts are taken modulo 64; unsigned and signed order differ. -/
theorem test_add_wraps : g3 (.add 3 1 2) 0xFFFFFFFFFFFFFFFF 2 = 1 := by decide +kernel
theorem test_sha_sign : g3 (.sha 3 1 2) 0x8000000000000000 0x41 = 0xC000000000000000 := by decide +kernel
theorem test_shl_amount : g3 (.shl 3 1 2) 1 0x43 = 8 := by decide +kernel
theorem test_min_signed : g3 (.min 3 1 2) 0xFFFFFFFFFFFFFFFF 1 = 0xFFFFFFFFFFFFFFFF := by decide +kernel
theorem test_minn_unsigned : g3 (.minn 3 1 2) 0xFFFFFFFFFFFFFFFF 1 = 1 := by decide +kernel
theorem test_cmpLtn : g3 (.cmpLtn 3 1 2) 0xFFFFFFFFFFFFFFFF 1 = 0 := by decide +kernel
theorem test_cmpLt : g3 (.cmpLt 3 1 2) 0xFFFFFFFFFFFFFFFF 1 = 1 := by decide +kernel
theorem test_addi_negative : g3 (.addi 3 1 0x1FF) 5 0 = 4 := by decide +kernel

/-- R14: a write of g0 is discarded. -/
theorem test_g0_discarded : ((after (exec (.add 0 1 2) (on0 (gs [(1, 3), (2, 4)])))).core 0).vis.rg 0 = 0 := by decide +kernel

/-- R93: a product lands later, and the register keeps its value until then. -/
theorem test_mul_pending :
    let t := after (exec (.mul 3 1 2) (on0 (gs [(1, 6), (2, 7)])))
    (t.core 0).cpend = [⟨3, 42⟩] ∧ (t.core 0).vis.g[(3 : Fin 64)] = 0 := by decide +kernel

/-- R92: the quotient of a division by zero is all ones, its remainder the dividend. -/
theorem test_div_zero :
    ((after (exec (.div 3 1 2) (on0 (gs [(1, 6)])))).core 0).cpend = [⟨3, 0xFFFFFFFFFFFFFFFF⟩]
    ∧ ((after (exec (.rem 3 1 2) (on0 (gs [(1, 6)])))).core 0).cpend = [⟨3, 6⟩] := by decide +kernel

/-- R44, R130: 1 + 1 in FP32; −0 is the lesser zero; R46, R131: INT8 sums are limited, with OF and NX. -/
theorem test_fp32_add : elAdd 0 0x3F800000 0x3F800000 = (0x40000000, 0) := by decide +kernel
theorem test_fp32_min_zero : elPick true 0 0 0x80000000 = (0x80000000, 0) := by decide +kernel
theorem test_int8_limit : elAdd 9 0x7F 1 = (0x7F, 20) := by decide +kernel

/-- R220: the CRC of the eight bytes of "12345678" before its complement, R177: signed least of two bytes. -/
theorem test_crc : runSum true 0xFFFFFFFF (bytesWords (natBytes 8 0x3837363534333231)) = ~~~0x6087809A := by decide +kernel
theorem test_amo_min : AmoOp.apply .min 4 0xFFFFFFFF 1 0 = some 0xFFFFFFFF := by decide +kernel

/-- The published SHA3-256 digest of the three bytes "abc", as a little-endian number (FIPS 202, its example). -/
theorem test_digest : bytesNat (digestOf [0x61, 0x62, 0x63])
    = 0x3215431145e2bf465b529d3e6e085f85bd90d36b2d175c04b225e24fa75d983a := by decide +kernel

/-- R286, the end of a run from reset: the first step finds no word to issue and goes on. -/
theorem test_first_step : (after (step State.reset)).core 1 = State.reset.core 1 := by decide +kernel

/-- A word placed where the next step fetches it runs as the first instruction after reset. -/
theorem test_fetch_word : ((after (step (State.reset.withFetchWord 32 0))).core 0).clus[(0 : Fin 4)].pc = 1 := by
  decide +kernel

/-- A row of two BF16 elements, 1.0 and 2.0, added to 1.0 and 0 (R41, R202). -/
theorem test_laccRow :
    let b := (block 1 1 2 1000).set 0 (BitVec.ofNat 64 (1 + 2 ^ 32 + 2 * 2 ^ 48 + 2 ^ 59))
    let x : Lacc := ⟨9, b, 2, 0, 1000, 0⟩
    let s : State := { evOf 9 [0] (on0 fun k => { k with
      laccs := [x], acc := accPut [] 0 0 0 0x3F800000, tile := tileWrite [] 0 0 4 0x40003F80 }) with zc := 1000 }
    let t := after (exec .laccStart s)
    accRead (t.core 0).acc 0 0 0 = 0x40000000 ∧ accRead (t.core 0).acc 0 0 1 = 0x40000000 ∧ accRead (t.core 0).acc 0 0 2 = 0 := by
  decide +kernel

end Sys2Proof.Tests
end

section
/-!
SUPPORT. What issuing a word changes (R12, R77, R78, R102), and the step that carries a word out (R232).
-/

namespace Sys2Proof.Machine

/-! ## The turn of a word that may issue (R232) -/

/-- The head of a cluster is what its word decodes to, and the turn carries its header (R12). -/
theorem State.turnTo_of_decode (s : State) (c : Fin 64) (cl : Cl) (h : Header) (i : Instr)
    (hd : decode cl ((s.core c).word (s.core c).clus[clIx cl].pc) = some (h, i)) :
    s.turnTo c cl = { s with turn := ⟨c, cl, h⟩ } := by
  have hh : (s.core c).head cl = some (h, i) := hd
  unfold State.turnTo
  rw [hh]

/-- A word that passes the tests of its issue is carried out (R78, R87, R104, R232). -/
theorem State.issueWord_exec (s : State) (formed : Bool) (h : Header) (i : Instr)
    (hh : s.me.head s.turn.cl = some (h, i)) (hw : linkWaits h.link s.turn.cl s.me.old = true)
    (ho : linkOverflows h.link s.turn.cl s.me.old = false)
    (hx : s.turn.cl = .x → s.me.nullified = false ∧ s.me.xConflict i = false ∧ (h.sync = true → formed = true)) :
    s.issueWord formed = exec i s := by
  unfold State.issueWord
  rw [hh]
  by_cases hc : s.turn.cl = .x
  · obtain ⟨hn, hf, hs⟩ := hx hc
    have hb : (h.sync && !formed) = false := by simpa using hs
    simp [hw, ho, hn, hf, hb, Bool.and_assoc]
  · simp [hc, hw, ho]

/-- Settles O1: the turn names the word's header, and every test of its issue is passed. -/
theorem stepRunsTheWord : Obligations.StepRunsTheWord := by
  intro s c cl formed rest h i htodo hd hw ho hx
  have ht : State.turnTo { s with todo := rest } c cl = { s with todo := rest, turn := ⟨c, cl, h⟩ } :=
    State.turnTo_of_decode _ c cl h i hd
  have hstep : step s = (State.turnTo { s with todo := rest } c cl).issueWord formed := by
    unfold step State.advance
    rw [htodo]
  rw [hstep, ht]
  exact State.issueWord_exec _ formed h i hd hw ho hx

/-! ## What issuing changes (R78) -/

/-- Of the package, issuing changes the issuing core alone. -/
theorem State.modMe_cores (s : State) (f : Core → Core) : ({ s.modMe f with cores := s.cores } : State) = s := rfl

/-- One link bit: the counter it names moves when it is set (R78). -/
theorem ringStep_at (on : Bool) (j i : Fin 8) (d : BitVec 4) (r : Vector (BitVec 4) 8) :
    (if on then r.set j (r[j] + d) else r)[i] = r[i] + if on ∧ i = j then d else 0 := by
  cases on
  · simp
  · by_cases h : i = j
    · subst h; simp
    · have : j.val ≠ i.val := fun e => h (Fin.ext e.symm)
      simp [h, this]

/-- Counters after the link bits: a counter that is waited on loses one, one that is given into gains one (R77, R78). -/
theorem linkApply_at (l : Link) (cl : Cl) (v : Vis) (i : Fin 8) :
    (linkApply l cl v).ring[i] =
      v.ring[i] - (if (l.wp ∧ i = (ringIx cl).1) ∨ (l.wn ∧ i = (ringIx cl).2.1) then 1 else 0)
        + (if (l.gp ∧ i = (ringIx cl).2.2.1) ∨ (l.gn ∧ i = (ringIx cl).2.2.2) then 1 else 0) := by
  have h : (linkApply l cl v).ring[i] = v.ring[i] + (if l.gn ∧ i = (ringIx cl).2.2.2 then 1 else 0)
      + (if l.gp ∧ i = (ringIx cl).2.2.1 then 1 else 0) + (if l.wn ∧ i = (ringIx cl).2.1 then 15 else 0)
      + (if l.wp ∧ i = (ringIx cl).1 then 15 else 0) := by
    unfold linkApply
    rw [ringStep_at, ringStep_at, ringStep_at, ringStep_at]
  rw [h]
  -- the four counters of a cluster differ, and adding 15 to a counter of 4 bits takes one away
  cases cl <;> fin_cases i <;> simp [ringIx] <;> split <;> simp [BitVec.sub_eq_add_neg]

theorem clIx_inj {a b : Cl} (h : a ≠ b) : (clIx a).val ≠ (clIx b).val := by
  cases a <;> cases b <;> simp_all [clIx]

/-! ## Where a cluster goes after a word (R12, R102) -/

/-- The next word of the stream, if there is one (R12). -/
def Cluster.seq (u : Cluster) : Option Cluster := if u.pc = 0xFFFF then none else some { u with pc := u.pc + 1 }

/-- The body of an active level ends at the word (R102). -/
def Cluster.ends (u : Cluster) (lv : Fin 2) : Bool := u.loops[lv].active && u.loops[lv].stop == u.pc.toNat

/-- The slot of a level ends (R102, R105). -/
def Cluster.close (req : Bool) (u : Cluster) (lv : Fin 2) : Cluster :=
  let l := u.loops[lv].slotEnd req
  let u := { u with loops := u.loops.set lv l }
  if l.active then { u with pc := l.start }
  else if l.pf && req then { u with hold := .loopEnd l.yp, susp := (l.suspended lv).orElse fun _ => u.susp }
  else u

/-- What follows when the inner level does not hold the cluster (R102). -/
def Cluster.outer (req : Bool) (u : Cluster) : Option Cluster :=
  if u.ends 0 then if (u.close req 0).loops[(0 : Fin 2)].active then some (u.close req 0) else (u.close req 0).seq else u.seq

/-- The loop engine, inner level first (R102). -/
theorem Cluster.next_eq (u : Cluster) (req : Bool) : u.next req =
    if u.ends 1 then
      let w := u.close req 1
      if w.loops[(1 : Fin 2)].active then some w
      else if w.hold.ended.isSome ∧ w.susp.isSome then w.seq else w.outer req
    else u.outer req := rfl

theorem Cluster.ends_iff (u : Cluster) (lv : Fin 2) :
    u.ends lv = true ↔ u.loops[lv].active = true ∧ u.loops[lv].stop = u.pc.toNat := by
  simp [Cluster.ends]

/-- No level's body ends at the word: the cluster goes on at the next one, if there is one. -/
theorem Cluster.next_inside (u : Cluster) (req : Bool) (h : u.inside) : u.next req = u.seq := by
  have e (lv : Fin 2) : u.ends lv = false := by
    have := h lv
    rwa [← Cluster.ends_iff, Bool.not_eq_true] at this
  simp [Cluster.next_eq, Cluster.outer, e]

theorem Cluster.seq_some (u : Cluster) (h : u.pc ≠ 0xFFFF) : u.seq = some { u with pc := u.pc + 1 } := if_neg h

theorem Loop.slotEnd_open (l : Loop) (req : Bool) (hp : (l.pf && req) = false) (h : l.t + 1 < l.last + (l.stages - 1)) :
    l.slotEnd req = Loop.refresh { l with t := l.t + 1 } := by
  simp [Loop.slotEnd, hp, h]

theorem Loop.slotEnd_last (l : Loop) (req : Bool) (hp : (l.pf && req) = false) (h : l.last + (l.stages - 1) ≤ l.t + 1) :
    l.slotEnd req = { l with t := l.t + 1, active := false, remaining := 0, preds := 0 } := by
  simp [Loop.slotEnd, hp, Nat.not_lt.2 h]

/-- A level with slots left goes to the first word of its body (R102). -/
theorem Cluster.close_open (u : Cluster) (req : Bool) (lv : Fin 2) (ha : u.loops[lv].active = true)
    (hp : (u.loops[lv].pf && req) = false) (h : u.loops[lv].t + 1 < u.loops[lv].last + (u.loops[lv].stages - 1)) :
    u.close req lv = { u with
      pc := u.loops[lv].start
      loops := u.loops.set lv (Loop.refresh { u.loops[lv] with t := u.loops[lv].t + 1 }) } := by
  unfold Cluster.close
  rw [Loop.slotEnd_open _ req hp h]
  exact if_pos ha

/-- A level with no slot left ends, and the other level stays (R102). -/
theorem Cluster.close_last (u : Cluster) (req : Bool) (lv : Fin 2)
    (hp : (u.loops[lv].pf && req) = false) (h : u.loops[lv].last + (u.loops[lv].stages - 1) ≤ u.loops[lv].t + 1) :
    u.close req lv = { u with
      loops := u.loops.set lv ({ u.loops[lv] with t := u.loops[lv].t + 1, active := false, remaining := 0, preds := 0 } : Loop) } := by
  unfold Cluster.close
  rw [Loop.slotEnd_last _ req hp h]
  exact (if_neg (by simp)).trans (if_neg (by rw [Bool.not_eq_true]; exact hp))

/-- Of the levels that end at the word, the inner one, or the outer when the inner does not end there, has slots left. -/
theorem Cluster.next_open (u : Cluster) (req : Bool) (lv : Fin 2) (hi : lv = 0 → u.ends 1 = false) (he : u.ends lv = true)
    (hc : (u.close req lv).loops[lv].active = true) : u.next req = some (u.close req lv) := by
  rw [Cluster.next_eq]
  match lv with
  | 0 => simp_all [Cluster.outer]
  | 1 => simp_all

/-- The one level that ends at the word has no slot left. -/
theorem Cluster.next_last (u : Cluster) (req : Bool) (lv : Fin 2) (hn : ∀ v, v ≠ lv → u.ends v = false)
    (he : u.ends lv = true) (hp : (u.loops[lv].pf && req) = false)
    (h : u.loops[lv].last + (u.loops[lv].stages - 1) ≤ u.loops[lv].t + 1) : ∃ w : Cluster, u.next req = w.seq ∧ w.pc = u.pc
      ∧ (w.loops[lv]).active = false ∧ ∀ v, v ≠ lv → w.loops[v] = u.loops[v] := by
  have hc := u.close_last req lv hp h
  refine ⟨u.close req lv, ?_, by rw [hc], by rw [hc]; simp, fun v hv => ?_⟩
  · rw [Cluster.next_eq]
    match lv with
    | 0 =>
      have := hn 1 (by decide)
      simp_all [Cluster.outer]
    | 1 =>
      have := hn 0 (by decide)
      simp_all [Cluster.outer, Cluster.ends]
  · have : lv.val ≠ v.val := fun e => hv (Fin.ext e.symm)
    rw [hc]; simp [this]

/-- Settles O2: what settling a word changes, the link counters, the loop engine, and NOP, which only issues. -/
theorem issuingAWord : Obligations.IssuingAWord := by
  refine ⟨fun s u n => ?_, fun s u n i => ?_, fun s => ⟨fun hi hp => ?_, fun hi hp => ?_, fun lv hin ha hs hr ht => ?_,
    fun lv hn ha hs hr ht hp => ?_⟩, fun s u h => ?_⟩
  · refine ⟨fun c hc => s.settle_core_ne u n c hc, s.modMe_cores _, ?_, fun cl hcl => ?_, fun q => ?_, ?_, ?_⟩
    · simp [State.clu, State.settle_me]
    · have := clIx_inj hcl
      simp [State.settle_me, Ne.symm this]
    · rw [State.settle_me]
      by_cases hq : q.val = (clIx s.turn.cl).val
      · simp [← hq]
      · simp [hq, Ne.symm hq]
    · rw [State.settle_me]; rfl
    · rw [State.settle_me]
  · rw [State.settle_me]
    exact linkApply_at _ _ _ i
  · exact (Cluster.next_inside _ _ hi).trans (Cluster.seq_some _ hp)
  · have hnone : s.clu.next s.csr.req = none := (Cluster.next_inside _ _ hi).trans (if_pos hp)
    have hnop : s.issued id = s.illegal := s.issued_none id hnone
    exact ⟨congrArg Host.Outcome.next hnop, congrArg Host.Outcome.next hnop⟩
  · have hc := Cluster.close_open s.clu s.csr.req lv ha hr ht
    refine (Cluster.next_open s.clu s.csr.req lv (fun h => ?_) ((Cluster.ends_iff _ _).2 ⟨ha, hs⟩) ?_).trans (congrArg some hc)
    · rw [← Bool.not_eq_true, Cluster.ends_iff]; exact hin h
    · rw [hc]; simpa [Loop.refresh] using ha
  · obtain ⟨w, hw, hpc, hl, ho⟩ := Cluster.next_last s.clu s.csr.req lv
      (fun v hv => by rw [← Bool.not_eq_true, Cluster.ends_iff]; exact hn v hv) ((Cluster.ends_iff _ _).2 ⟨ha, hs⟩) hr ht
    exact ⟨{ w with pc := w.pc + 1 }, hw.trans (w.seq_some (hpc ▸ hp)), by rw [hpc], hl, ho⟩
  · have hnop : s.issued id = s.settle u 0 := s.issued_id u h
    exact ⟨congrArg Host.Outcome.next hnop, congrArg Host.Outcome.next hnop⟩

end Sys2Proof.Machine
end

section
/-!
SUPPORT. The writes of g and address registers, and the one-cycle words of C (R14, R16, R91, R162).
-/

namespace Sys2Proof.Machine

/-! ## Writing a g register (R14, R16) -/

theorem State.wg_zero (s : State) (x : Dword) : s.wg 0 x = s := s.modMe_id _ rfl

theorem Vis.wg_others (v : Vis) (d : Fin 64) (x : Dword) : ({ v.wg d x with g := v.g } : Vis) = v := by
  unfold Vis.wg
  split <;> rfl

/-! ## Bit counts and extensions (R91) -/

/-- The bits above the leading zeros' end are clear, and the one below them is set. -/
theorem leadZeros_spec (x : Dword) (n : Nat) : leadZeros x n ≤ n ∧ (∀ k, n - leadZeros x n ≤ k → k < n → x.getLsbD k = false)
    ∧ (leadZeros x n < n → x.getLsbD (n - 1 - leadZeros x n) = true) := by
  induction n with
  | zero => simp [leadZeros]
  | succ n ih =>
    obtain ⟨hle, hz, ho⟩ := ih
    unfold leadZeros
    cases hx : x.getLsbD n
    · simp only [Bool.false_eq_true, if_false]
      refine ⟨by omega, fun k hk hlt => ?_, fun h => ?_⟩
      · rcases Nat.lt_succ_iff_lt_or_eq.1 hlt with hl | rfl
        · exact hz k (by omega) hl
        · exact hx
      · rw [show n + 1 - 1 - (1 + leadZeros x n) = n - 1 - leadZeros x n by omega]
        exact ho (by omega)
    · simp only [if_true]
      exact ⟨by omega, fun k hk hlt => by omega, fun _ => by simpa using hx⟩

/-- The bits from `i` on below the trailing zeros' end are clear, and the one after them is set. -/
theorem trailZeros_spec (x : Dword) (i n : Nat) : trailZeros x i n ≤ n
    ∧ (∀ k, i ≤ k → k < i + trailZeros x i n → x.getLsbD k = false)
    ∧ (trailZeros x i n < n → x.getLsbD (i + trailZeros x i n) = true) := by
  induction n generalizing i with
  | zero => exact ⟨Nat.le_refl _, fun k h h' => by simp [trailZeros] at h'; omega, fun h => by simp [trailZeros] at h⟩
  | succ n ih =>
    obtain ⟨hle, hz, ho⟩ := ih (i + 1)
    unfold trailZeros
    cases hx : x.getLsbD i
    · simp only [Bool.false_eq_true, if_false]
      refine ⟨by omega, fun k hk hlt => ?_, fun h => ?_⟩
      · rcases Nat.eq_or_lt_of_le hk with rfl | hl
        · exact hx
        · exact hz k hl (by omega)
      · rw [show i + (1 + trailZeros x (i + 1) n) = i + 1 + trailZeros x (i + 1) n by omega]
        exact ho (by omega)
    · simp only [if_true]
      exact ⟨by omega, fun k hk hlt => by omega, fun _ => by simpa using hx⟩

theorem oneBits_eq (x : Dword) (n : Nat) : oneBits x n = (List.range n).countP fun k => x.getLsbD k := by
  induction n with
  | zero => rfl
  | succ n ih =>
    rw [oneBits, List.range_succ, List.countP_append, ← ih, Nat.add_comm]
    simp [List.countP_cons]

theorem sextAt_getLsbD (x : Dword) (n k : Nat) (hn : n < 64) (hk : k < 64) : (sextAt x n).getLsbD k = x.getLsbD (min k n) := by
  simp only [sextAt, BitVec.getLsbD_sshiftRight, BitVec.getLsbD_shiftLeft, BitVec.msb_eq_getLsbD_last]
  rcases Nat.le_total k n with h | h
  · simp [h, show 63 - n + k < 64 by omega, show ¬ 64 ≤ k by omega]
  · by_cases e : k = n
    · subst e; simp [show 63 - k + k < 64 by omega, show ¬ 64 ≤ k by omega]
    · simp [h, show ¬ 63 - n + k < 64 by omega, show ¬ 64 ≤ k by omega, show 63 - (63 - n) = n by omega]

theorem zextAt_getLsbD (x : Dword) (n k : Nat) (hn : n < 64) : (zextAt x n).getLsbD k = (decide (k ≤ n) && x.getLsbD k) := by
  simp only [zextAt, BitVec.getLsbD_ushiftRight, BitVec.getLsbD_shiftLeft]
  rcases Nat.le_total k n with h | h
  · simp [h, show 63 - n + k < 64 by omega]
  · by_cases e : k = n
    · subst e; simp [show 63 - k + k < 64 by omega]
    · simp [show ¬ k ≤ n by omega, show ¬ 63 - n + k < 64 by omega]

/-! ## The one-cycle words (R91, R162) -/

theorem amount_eq (y : Dword) : amount y = (y.extractLsb' 0 6).toNat := by
  simp [amount]

theorem smin_eq (x y : Dword) : smin x y = if x.toInt < y.toInt then x else y := by
  simp only [smin, BitVec.sle, decide_eq_true_eq]
  rcases lt_trichotomy x.toInt y.toInt with h | h | h
  · simp [h, h.le]
  · simp [BitVec.eq_of_toInt_eq h]
  · simp [h.not_gt, h.not_ge]

theorem smax_eq (x y : Dword) : smax x y = if x.toInt < y.toInt then y else x := by
  simp only [smax, BitVec.sle, decide_eq_true_eq]
  rcases lt_trichotomy x.toInt y.toInt with h | h | h
  · simp [h, h.le]
  · simp [BitVec.eq_of_toInt_eq h]
  · simp [h.not_gt, h.not_ge]

theorem umin_eq (x y : Dword) : umin x y = if x.toNat < y.toNat then x else y := by
  simp only [umin, BitVec.le_def]
  rcases lt_trichotomy x.toNat y.toNat with h | h | h
  · simp [h, h.le]
  · simp [BitVec.eq_of_toNat_eq h]
  · simp [h.not_gt, h.not_ge]

theorem umax_eq (x y : Dword) : umax x y = if x.toNat < y.toNat then y else x := by
  simp only [umax, BitVec.le_def]
  rcases lt_trichotomy x.toNat y.toNat with h | h | h
  · simp [h, h.le]
  · simp [BitVec.eq_of_toNat_eq h]
  · simp [h.not_gt, h.not_ge]

theorem addsh_eq (x y : Dword) : x + 128 * y = BitVec.ofNat 64 (x.toNat + 128 * y.toNat) := by
  apply BitVec.eq_of_toNat_eq
  simp [BitVec.toNat_add, BitVec.toNat_mul]

/-- A word that writes an address register of L issues with that write (R162). -/
theorem issued_setLa (s : State) (u : Cluster) (a : Fin 16) (x : Dword) (h : s.goesTo u) :
    s.issued (setLa a x) = (s.modMe fun k => { k with la := k.la.set a x }).settle u 0 :=
  s.issued_modMe u (fun k => { k with la := k.la.set a x }) h rfl rfl

/-- A word that writes an address register of W issues with that write (R162). -/
theorem issued_setWa (s : State) (u : Cluster) (a : Fin 16) (x : Dword) (h : s.goesTo u) :
    s.issued (setWa a x) = (s.modMe fun k => { k with wa := k.wa.set a x }).settle u 0 :=
  s.issued_modMe u (fun k => { k with wa := k.wa.set a x }) h rfl rfl

/-- Settles O3: each word is its result written and its issue; the counts and extensions by the bits of their recursions. -/
theorem registerWords : Obligations.RegisterWords := by
  refine ⟨fun s d x => ?_, fun s u d a b h => ?_, fun s u d a b h => ?_, fun s u a g e h => ?_⟩
  · refine ⟨s.wg_zero x, fun r => ?_, fun r => s.wg_rg d r x, fun c hc => s.core_modMe_ne _ c hc, s.modMe_cores _, ?_, ?_⟩
    · rw [State.wg_me, Core.modVis_vis, Vis.rg_wg]
    · rw [State.wg_me]; rfl
    · rw [State.wg_me, Core.modVis_vis]
      exact Vis.wg_others ..
  · have w (x : Dword) : alu d x s = .next ((s.wg d x).settle u 0) := alu_next s u d x h
    simp only [← amount_eq, ← smin_eq, ← smax_eq, ← umin_eq, ← umax_eq, ← addsh_eq]
    refine ⟨w _, w _, w _, w _, w _, w _, w _, w _, w _, w _, w _, w _, w _, w _, w _, (w _).trans ?_⟩
    by_cases hd : s.rg d = 0 <;> simp [hd]
  · have w (x : Dword) : alu d x s = .next ((s.wg d x).settle u 0) := alu_next s u d x h
    have hn : amount (s.rg b) < 64 := Nat.mod_lt _ (by decide)
    obtain ⟨hle, hz, ho⟩ := leadZeros_spec (s.rg a) 64
    obtain ⟨tle, tz, tone⟩ := trailZeros_spec (s.rg a) 0 64
    refine ⟨⟨_, w _, hle, fun k hk => ?_, fun hl => ?_⟩, ⟨_, w _, tle, fun k hk => tz k (Nat.zero_le _) (by omega), fun hl => ?_⟩,
      ?_, ⟨_, w _, fun k hk => sextAt_getLsbD _ _ k hn hk⟩, ⟨_, w _, fun k _ => zextAt_getLsbD _ _ k hn⟩⟩
    · by_cases hk' : k < 64
      · exact hz k hk hk'
      · exact BitVec.getLsbD_of_ge _ _ (Nat.not_lt.1 hk')
    · exact ho hl
    · simpa using tone hl
    · rw [← oneBits_eq]; exact w _
  · exact ⟨congrArg _ (issued_setLa s u a _ h), congrArg _ (issued_setLa s u a _ h), congrArg _ (issued_setLa s u a _ h),
      congrArg _ (issued_setWa s u a _ h), congrArg _ (issued_setWa s u a _ h), congrArg _ (issued_setWa s u a _ h)⟩

end Sys2Proof.Machine
end

section
/-!
SUPPORT. What reset leaves (R228, R379).
-/

namespace Sys2Proof.Machine

/-! ## Reset (R228, R379) -/

theorem reset_core (c : Fin 64) : State.reset.core c = Core.reset := Vector.getElem_replicate ..

theorem reset_mail (c : Fin 64) : State.reset.mail[c] = Mail.reset := Vector.getElem_replicate ..

/-- One run of all lanes covers the register. -/
theorem full_one {α : Type} (x : α) : Full [(6144, x)] := by
  refine ⟨?_, by simp⟩
  rw [rlist, rlist, List.append_nil, List.length_replicate]

/-- Every register of a core at reset is one run, and nothing is on its way to one. -/
theorem reset_lanesFull : Core.reset.lanesFull := by
  refine ⟨fun r => ?_, fun r => ?_, by simp [Core.reset], by simp [Core.reset]⟩
  · rw [show Core.reset.v[r] = lanesZero from Vector.getElem_replicate ..]; exact full_one 0
  · by_cases h : r = 0
    · subst h; simpa [Core.reset] using full_one _
    · have : (0 : Nat) ≠ r.val := fun e => h (Fin.ext e.symm)
      simpa [Core.reset, this] using full_one _

theorem reset_tablesRise : State.reset.tablesRise := by
  have e {α : Type} : Rising ([] : Sparse α) := List.Pairwise.nil
  refine ⟨e, e, e, fun d => ?_, fun c => ?_⟩
  · rw [show State.reset.mtu[d] = Mtu.reset from Vector.getElem_replicate ..]; exact e
  · rw [reset_core]; exact ⟨e, e, e, e, e⟩

/-- Settles O51: each register is read at reset, and the invariants hold of a core with empty tables and one-run registers. -/
theorem resetState : Obligations.ResetState := by
  refine ⟨⟨rfl, rfl, rfl, rfl, rfl, rfl, fun c => ?_, ?_⟩, reset_memory_wf, fun c => ?_, reset_tablesRise⟩
  · dsimp only
    rw [reset_core, reset_mail]
    refine ⟨rfl, fun r => ?_, fun j => ?_, fun j => ?_, fun j => ?_, rfl, rfl, rfl, rfl, rfl, rfl, rfl, rfl, rfl, rfl, rfl,
      rfl, rfl, rfl, ?_⟩
    · simp [Core.reset, Vis.reset, Vis.rg]
    · rw [show Core.reset.vis.tok[j] = Token.zero from Vector.getElem_replicate ..]; rfl
    · exact Vector.getElem_replicate ..
    · exact Vector.getElem_replicate ..
    · decide
  · decide
  · rw [reset_core]; exact reset_lanesFull

end Sys2Proof.Machine
end

section
/-!
SUPPORT. Runs and the lists they stand for (R14).
-/

namespace Sys2Proof.Machine

set_option Elab.async false

variable {α β : Type}

/-- No run is empty. -/
def Solid (r : Runs α) : Prop := ∀ x ∈ r, 0 < x.1

theorem Solid.nil : Solid ([] : Runs α) := by simp [Solid]

theorem solid_cons {x : Nat × α} {r : Runs α} : Solid (x :: r) ↔ 0 < x.1 ∧ Solid r := by simp [Solid]

theorem rlist_append (a b : Runs α) : rlist (a ++ b) = rlist a ++ rlist b := by
  induction a with
  | nil => rfl
  | cons x r ih => simp [rlist, ih]

section
variable [DecidableEq α]

@[simp] theorem rlist_rcons (n : Nat) (x : α) (r : Runs α) : rlist (rcons n x r) = List.replicate n x ++ rlist r := by
  unfold rcons
  split
  · next h => simp [h]
  · match r with
    | [] => rfl
    | y :: t =>
      dsimp only
      split
      · next h => rw [rlist, rlist, ← h, List.replicate_add, List.append_assoc]
      · rfl

theorem Solid.rcons {n : Nat} {x : α} {r : Runs α} (h : Solid r) : Solid (rcons n x r) := by
  unfold Machine.rcons
  split
  · exact h
  · match r with
    | [] => exact solid_cons.2 ⟨by omega, h⟩
    | y :: t =>
      dsimp only
      split
      · exact solid_cons.2 ⟨by dsimp only; omega, (solid_cons.1 h).2⟩
      · exact solid_cons.2 ⟨by dsimp only; omega, h⟩

@[simp] theorem rlist_rnorm (r : Runs α) : rlist (rnorm r) = rlist r := by
  induction r with
  | nil => rfl
  | cons x r ih => simp [rnorm, rlist, ih]

theorem solid_rnorm (r : Runs α) : Solid (rnorm r) := by
  induction r with
  | nil => exact .nil
  | cons x r ih => exact ih.rcons

@[simp] theorem rlist_rof (l : List α) : rlist (rof l) = l := by
  induction l with
  | nil => rfl
  | cons x r ih => simp [rof, ih]

theorem solid_rof (l : List α) : Solid (rof l) := by
  induction l with
  | nil => exact .nil
  | cons x r ih => exact ih.rcons

theorem full_rof {l : List α} (h : l.length = 6144) : Full (rof l) := ⟨by rwa [rlist_rof], solid_rof l⟩

end

section
variable [DecidableEq β]

@[simp] theorem rlist_rmap (f : α → β) (r : Runs α) : rlist (rmap f r) = (rlist r).map f := by
  unfold rmap
  rw [rlist_rnorm]
  induction r with
  | nil => rfl
  | cons x r ih => simp [rlist, ih]

theorem solid_rmap (f : α → β) (r : Runs α) : Solid (rmap f r) := solid_rnorm _

theorem Full.rmap {f : α → β} {r : Runs α} (h : Full r) : Full (rmap f r) :=
  ⟨by rw [rlist_rmap, List.length_map]; exact h.1, solid_rmap f r⟩

end

@[simp] theorem rlist_rtake (n : Nat) (r : Runs α) : rlist (rtake n r) = (rlist r).take n := by
  induction r generalizing n with
  | nil => cases n <;> rfl
  | cons x r ih =>
    unfold rtake
    split
    · next h => simp [h, rlist]
    · split
      · next h => simp [rlist, List.take_append, List.take_replicate, h]
      · next h => simp [rlist, ih, List.take_append, List.take_replicate, show min n x.1 = x.1 by omega]

theorem Full.take {r : Runs α} (h : Full r) : ((rlist r).take 6144).length = 6144 := by
  rw [List.length_take, h.1]; rfl

theorem rlist_cut {n m : Nat} (x : α) (r : Runs α) (h : m ≤ n) :
    rlist ((n, x) :: r) = List.replicate m x ++ rlist ((n - m, x) :: r) := by
  rw [rlist, rlist, ← List.append_assoc, ← List.replicate_add, show m + (n - m) = n by omega]

theorem zip_replicate_append (n : Nat) (x : α) (y : β) (l : List α) (l' : List β) :
    (List.replicate n x ++ l).zip (List.replicate n y ++ l') = List.replicate n (x, y) ++ l.zip l' := by
  rw [List.zip_append (by simp), List.zip_replicate']

/-- Two sequences without empty runs pair as their lists do. -/
theorem rlist_rzipGo {a : Runs α} {b : Runs β} (ha : Solid a) (hb : Solid b) (f : Nat) (hf : a.length + b.length < f) :
    rlist (rzipGo f a b) = (rlist a).zip (rlist b) ∧ Solid (rzipGo f a b) := by
  induction f generalizing a b with
  | zero => omega
  | succ f ih =>
    match a, b with
    | [], _ => exact ⟨by simp [rzipGo, rlist], .nil⟩
    | _ :: _, [] => exact ⟨by simp [rzipGo, rlist], .nil⟩
    | (n, x) :: r, (m, y) :: t =>
      obtain ⟨hn, hr⟩ := solid_cons.1 ha
      obtain ⟨hm, ht⟩ := solid_cons.1 hb
      simp only [List.length_cons] at hf hn hm
      simp only [rzipGo, solid_cons]
      rcases Nat.lt_trichotomy n m with h | rfl | h
      · obtain ⟨e, p⟩ := ih (a := r) (b := (m - n, y) :: t) hr (solid_cons.2 ⟨by dsimp only; omega, ht⟩) (by simp; omega)
        rw [show min n m = n by omega, if_neg (by omega), if_pos h, rlist_cut y t h.le, rlist, rlist, e, zip_replicate_append]
        exact ⟨rfl, hn, p⟩
      · obtain ⟨e, p⟩ := ih hr ht (by omega)
        rw [show min n n = n by omega, if_neg (by omega), if_neg (by omega), rlist, rlist, rlist, e, zip_replicate_append]
        exact ⟨rfl, hn, p⟩
      · obtain ⟨e, p⟩ := ih (a := (n - m, x) :: r) (b := t) (solid_cons.2 ⟨by dsimp only; omega, hr⟩) ht (by simp; omega)
        rw [show min n m = m by omega, if_pos h, if_neg (by omega), rlist_cut x r h.le, rlist, e,
          show rlist ((m, y) :: t) = List.replicate m y ++ rlist t from rfl, zip_replicate_append]
        exact ⟨rfl, hm, p⟩

theorem rlist_rzip {a : Runs α} {b : Runs β} (ha : Solid a) (hb : Solid b) : rlist (rzip a b) = (rlist a).zip (rlist b) :=
  (rlist_rzipGo ha hb _ (Nat.lt_succ_self _)).1

theorem Full.rzip {a : Runs α} {b : Runs β} (ha : Full a) (hb : Full b) : Full (rzip a b) := by
  obtain ⟨e, p⟩ := rlist_rzipGo ha.2 hb.2 _ (Nat.lt_succ_self _)
  refine ⟨?_, p⟩
  unfold Machine.rzip
  rw [e, List.length_zip, ha.1, hb.1]; rfl

end Sys2Proof.Machine
end

section
/-!
SUPPORT. The two invariants that every step keeps (R14, R123): whole registers and rising tables, and what the operations of
the state do to them. The proofs are checked one after another, as those of the tests are: many at once pass the check's memory limit.
-/

namespace Sys2Proof.Machine

set_option Elab.async false

/-- One of the two invariants of a core: that its registers are whole, or that its tables rise. -/
def Core.Inv (b : Bool) (k : Core) : Prop := if b then k.lanesFull else k.tablesRise

/-- The tables of the package outside its cores rise. -/
def State.pkgRise (s : State) : Prop :=
  Rising s.qps ∧ Rising s.cnts ∧ Rising s.images ∧ ∀ d : Fin 4, Rising s.mtu[d].dirty

/-- One of the two invariants of the package. -/
def State.Inv (b : Bool) (s : State) : Prop := (∀ c : Fin 64, (s.core c).Inv b) ∧ (b = false → s.pkgRise)

/-- A step that goes on keeps the invariant. -/
def Goes (b : Bool) (o : Host.Outcome State Fault Refusal) : Prop := ∀ t, o = .next t → t.Inv b

variable {b : Bool} {s t : State} {k : Core}

theorem State.inv_lanes : s.Inv true ↔ ∀ c : Fin 64, (s.core c).lanesFull := by simp [State.Inv, Core.Inv]

theorem State.inv_tables : s.Inv false ↔ s.tablesRise := by
  simp only [State.Inv, Core.Inv, State.pkgRise, State.tablesRise, Bool.false_eq_true, if_false, true_imp_iff]
  tauto

/-- The invariant speaks of the cores and of four tables alone. -/
theorem State.Inv.of_eq (h : s.Inv b) (hk : t.cores = s.cores := by rfl) (hq : t.qps = s.qps := by rfl)
    (hc : t.cnts = s.cnts := by rfl) (hi : t.images = s.images := by rfl) (hm : t.mtu = s.mtu := by rfl) : t.Inv b := by
  unfold State.Inv State.pkgRise State.core at *
  rwa [hk, hq, hc, hi, hm]

/-- The invariant of a core speaks of its registers, of what is on its way to them and of five tables alone. -/
theorem Core.Inv.of_eq {l : Core} (h : k.Inv b) (hv : l.v = k.v := by rfl) (hm : l.m = k.m := by rfl)
    (hl : l.loads = k.loads := by rfl) (hx : l.xpend = k.xpend := by rfl) (hi : l.imem = k.imem := by rfl)
    (ha : l.acc = k.acc := by rfl) (ht : l.tile = k.tile := by rfl) (hg : l.tag = k.tag := by rfl)
    (hb : l.basis = k.basis := by rfl) : l.Inv b := by
  unfold Core.Inv Core.lanesFull Core.tablesRise at *
  rwa [hv, hm, hl, hx, hi, ha, ht, hg, hb]

/-- Of a core that holds fewer loads and pending results, and whose tables rise where they did. -/
theorem Core.Inv.less {l : Core} (h : k.Inv b) (hv : l.v = k.v := by with_reducible rfl)
    (hm : l.m = k.m := by with_reducible rfl) (hl : ∀ x ∈ l.loads, x ∈ k.loads := by exact fun _ h => h)
    (hx : ∀ p ∈ l.xpend, ∃ q ∈ k.xpend, ∀ w ∈ p.writes, w ∈ q.writes := by exact fun p hp => ⟨p, hp, fun _ h => h⟩)
    (hi : Rising k.imem → Rising l.imem := by exact fun h => h) (ha : Rising k.acc → Rising l.acc := by exact fun h => h)
    (ht : Rising k.tile → Rising l.tile := by exact fun h => h) (hg : Rising k.tag → Rising l.tag := by exact fun h => h)
    (hb : Rising k.basis → Rising l.basis := by exact fun h => h) : l.Inv b := by
  cases b with
  | false =>
    obtain ⟨i, a, t, g, e⟩ := h
    exact ⟨hi i, ha a, ht t, hg g, hb e⟩
  | true =>
    obtain ⟨fv, fm, fl, fx⟩ := h
    refine ⟨hv ▸ fv, hm ▸ fm, fun x hxl => fl x (hl x hxl), fun p hp => ?_⟩
    obtain ⟨q, hq, hw⟩ := hx p hp
    obtain ⟨f1, f2, f3⟩ := fx q hq
    exact ⟨fun r x h => f1 r x (hw _ h), fun r x y h => f2 r x y (hw _ h), fun r x h => f3 r x (hw _ h)⟩

/-- Of a package whose tables rise where they did. -/
theorem State.Inv.tables (h : s.Inv b) (hk : t.cores = s.cores := by with_reducible rfl)
    (hq : Rising s.qps → Rising t.qps := by exact fun h => h) (hc : Rising s.cnts → Rising t.cnts := by exact fun h => h)
    (hi : Rising s.images → Rising t.images := by exact fun h => h) (hm : t.mtu = s.mtu := by with_reducible rfl) : t.Inv b := by
  refine ⟨fun c => ?_, fun e => ?_⟩
  · unfold State.core; rw [hk]; exact h.1 c
  · obtain ⟨q, c, i, d⟩ := h.2 e
    exact ⟨hq q, hc c, hi i, hm ▸ d⟩

/-- A table with the same keys rises as well. -/
theorem rising_map {α : Type} {m : Sparse α} {f : Nat × α → Nat × α} (hf : ∀ x, (f x).1 = x.1) (h : Rising m) :
    Rising (m.map f) := by
  unfold Rising at *
  simpa [List.pairwise_map, hf] using h

/-- A fold of writes keeps a table rising. -/
theorem rising_foldl {α β : Type} {f : Sparse α → β → Sparse α} (hf : ∀ m x, Rising m → Rising (f m x)) (l : List β)
    {m : Sparse α} (h : Rising m) : Rising (l.foldl f m) := by
  induction l generalizing m with
  | nil => exact h
  | cons x r ih => exact ih (hf _ _ h)

theorem rising_tileWrite {t : Sparse (BitVec 4096)} {bg off n x} (h : Rising t) : Rising (tileWrite t bg off n x) :=
  rising_foldl (fun _ _ hm => rising_sset hm) _ h

theorem rising_tagWrite {g : Sparse (BitVec 16)} {bg off n tag} (h : Rising g) : Rising (tagWrite g bg off n tag) :=
  rising_foldl (fun _ _ hm => rising_sset hm) _ h

/-- The same of a state given field by field. -/
theorem State.Inv.upd (h : s.Inv b) (hk : t.cores = s.cores := by with_reducible rfl)
    (hq : t.qps = s.qps := by with_reducible rfl) (hc : t.cnts = s.cnts := by with_reducible rfl)
    (hi : t.images = s.images := by with_reducible rfl) (hm : t.mtu = s.mtu := by with_reducible rfl) : t.Inv b :=
  h.of_eq hk hq hc hi hm

/-- The same of a core given field by field. -/
theorem Core.Inv.upd {l : Core} (h : k.Inv b) (hv : l.v = k.v := by with_reducible rfl)
    (hm : l.m = k.m := by with_reducible rfl) (hl : l.loads = k.loads := by with_reducible rfl)
    (hx : l.xpend = k.xpend := by with_reducible rfl) (hi : l.imem = k.imem := by with_reducible rfl)
    (ha : l.acc = k.acc := by with_reducible rfl) (ht : l.tile = k.tile := by with_reducible rfl)
    (hg : l.tag = k.tag := by with_reducible rfl) (hb : l.basis = k.basis := by with_reducible rfl) : l.Inv b :=
  h.of_eq hv hm hl hx hi ha ht hg hb

theorem Goes.next (h : t.Inv b) : Goes b (.next t) := fun _ e => Host.Outcome.next.inj e ▸ h

theorem Goes.ite {p : Prop} [Decidable p] {x y : Host.Outcome State Fault Refusal} (h : Goes b x) (h' : Goes b y) :
    Goes b (if p then x else y) := by split <;> assumption

theorem State.Inv.core (h : s.Inv b) (c : Fin 64) : (s.core c).Inv b := h.1 c

theorem State.Inv.me (h : s.Inv b) : s.me.Inv b := h.1 _

theorem State.Inv.setCore (h : s.Inv b) {c : Fin 64} (hk : k.Inv b) : (s.setCore c k).Inv b :=
  ⟨fun d => by
    by_cases e : d = c
    · subst e; rwa [State.core_setCore]
    · rw [State.core_setCore_ne s c d k e]; exact h.core d, h.2⟩

/-- A change of one core that keeps the core's part keeps the package's. -/
theorem State.Inv.modCore (h : s.Inv b) {c : Fin 64} {f : Core → Core} (hf : ∀ k : Core, k.Inv b → (f k).Inv b) :
    (s.modCore c f).Inv b := h.setCore (hf _ (h.core c))

theorem State.Inv.modMe (h : s.Inv b) {f : Core → Core} (hf : ∀ k : Core, k.Inv b → (f k).Inv b) : (s.modMe f).Inv b :=
  h.modCore hf

/-- A change of a core that is no register, no pending write and no table. -/
theorem State.Inv.quiet (h : s.Inv b) {c : Fin 64} {f : Core → Core} (hf : ∀ k : Core, k.Inv b → (f k).Inv b := by
    intro _ hk; exact hk.of_eq) : (s.modCore c f).Inv b := h.modCore hf

theorem State.Inv.meQuiet (h : s.Inv b) {f : Core → Core} (hf : ∀ k : Core, k.Inv b → (f k).Inv b := by
    intro _ hk; exact hk.of_eq) : (s.modMe f).Inv b := h.modMe hf

/-- A fold of changes that each keep the invariant. -/
theorem State.Inv.foldl {α : Type} {f : State → α → State} (hf : ∀ (s : State) (a : α), s.Inv b → (f s a).Inv b)
    (l : List α) (h : s.Inv b) : (l.foldl f s).Inv b := by
  induction l generalizing s with
  | nil => exact h
  | cons a r ih => exact ih (hf _ _ h)

theorem State.Inv.ite {p : Prop} [Decidable p] (h : s.Inv b) (h' : t.Inv b) : (if p then s else t).Inv b := by
  split <;> assumption

/-- What each change that succeeds keeps, a fold of them keeps. -/
theorem foldl_some {α β : Type} {P : α → Prop} {f : α → β → Option α} (hf : ∀ x y z, P x → f x y = some z → P z) (l : List β)
    {x z : α} (hx : P x) (e : l.foldl (fun o y => o.bind fun x => f x y) (some x) = some z) : P z := by
  suffices H : ∀ o : Option α, (∀ x, o = some x → P x) → ∀ z, l.foldl (fun o y => o.bind fun x => f x y) o = some z → P z from
    H _ (fun y e => Option.some.inj e ▸ hx) z e
  clear e
  induction l with
  | nil => exact fun o ho => ho
  | cons y r ih =>
    refine fun o ho => ih _ fun z hz => ?_
    obtain ⟨x, hx, hz⟩ := Option.bind_eq_some_iff.1 hz
    exact hf x y z (ho x hx) hz

/-- A fold that carries a value beside the state. -/
theorem State.Inv.foldl_fst {α β : Type} {f : State × β → α → State × β}
    (hf : ∀ (x : State × β) (a : α), x.1.Inv b → (f x a).1.Inv b) (l : List α) {x : State × β} (h : x.1.Inv b) :
    (l.foldl f x).1.Inv b := by
  induction l generalizing x with
  | nil => exact h
  | cons a r ih => exact ih (hf _ _ h)

theorem State.Inv.modMtu (h : s.Inv b) {d : Fin 4} {f : Mtu → Mtu} (hf : ∀ m : Mtu, Rising m.dirty → Rising (f m).dirty) :
    (s.modMtu d f).Inv b := by
  refine ⟨h.1, fun e => ?_⟩
  obtain ⟨hq, hc, hi, hd⟩ := h.2 e
  refine ⟨hq, hc, hi, fun i => ?_⟩
  by_cases g : i = d
  · subst g; simpa [State.modMtu] using hf _ (hd i)
  · have : d.val ≠ i.val := fun e => g (Fin.ext e.symm)
    simpa [State.modMtu, this] using hd i

/-- A change of an MTU that leaves its dirty bitmaps alone. -/
theorem State.Inv.mtu (h : s.Inv b) {d : Fin 4} {f : Mtu → Mtu} (hf : ∀ m : Mtu, (f m).dirty = m.dirty := by intro _; rfl) :
    (s.modMtu d f).Inv b := h.modMtu fun m hm => (hf m).symm ▸ hm

theorem State.Inv.setOwner (h : s.Inv b) {f o} : (s.setOwner f o).Inv b := h.mtu

/-- What a pair's first part is. -/
theorem State.Inv.of_fst {α : Type} {x : State × α} {y : α} (h : x.1.Inv b) (e : x = (t, y)) : t.Inv b := by
  rw [e] at h; exact h

/-! ## The agenda, the tape and the registers of the package: no core, and none of the tables -/

theorem State.Inv.at_ (h : s.Inv b) {n i e} : (s.at_ n i e).Inv b := h.of_eq
theorem State.Inv.first (h : s.Inv b) {n i e} : (s.first n i e).Inv b := h.of_eq
theorem State.Inv.chosen (h : s.Inv b) : s.chosen.Inv b := h.of_eq
theorem State.Inv.later (h : s.Inv b) {lo n i e} : (s.later lo n i e).Inv b := h.at_.chosen
theorem State.Inv.bump (h : s.Inv b) : s.bump.Inv b := h.of_eq
theorem State.Inv.useFree (h : s.Inv b) {n} : (s.useFree n).Inv b := h.of_eq
theorem State.Inv.works (h : s.Inv b) {d m n c p} : (s.works d m n c p).Inv b := h.of_eq
theorem State.Inv.turnTo (h : s.Inv b) {c cl} : (s.turnTo c cl).Inv b := h.of_eq
theorem State.Inv.psubWritten (h : s.Inv b) {c x} : (s.psubWritten c x).Inv b := h.of_eq

theorem State.Inv.loosen (h : s.Inv b) {p} : (s.loosen p).Inv b := by
  unfold State.loosen
  dsimp only
  split
  · exact h
  · exact h.of_eq.chosen

theorem State.Inv.msi (h : s.Inv b) {v} : (s.msi v).Inv b := by
  unfold State.msi
  split <;> exact h.of_eq

theorem State.Inv.vecControl (h : s.Inv b) {v m} : (s.vecControl v m).Inv b := by
  unfold State.vecControl
  dsimp only
  split
  · exact h.of_eq
  · split
    · exact h.of_eq.msi
    · exact h.of_eq

theorem State.Inv.record (h : s.Inv b) {r} : (s.record r).Inv b := by
  unfold State.record
  dsimp only
  split
  · split
    · exact h.of_eq
    · exact h.of_eq.msi
  · exact h

/-! ## Changes of a core that are no register, no pending write and no table -/

theorem Core.Inv.modVis (h : k.Inv b) {f} : (k.modVis f).Inv b := h.of_eq
theorem Core.Inv.disarm (h : k.Inv b) : k.disarm.Inv b := h.of_eq
theorem Core.Inv.orFlags (h : k.Inv b) {f} : (k.orFlags f).Inv b := h.modVis
theorem Core.Inv.setTok (h : k.Inv b) {i x} : (k.setTok i x).Inv b := h.modVis
theorem Core.Inv.pend (h : k.Inv b) {i} : (k.pend i).Inv b := h.setTok
theorem Core.Inv.done (h : k.Inv b) {i x} : (k.done i x).Inv b := h.setTok
theorem Core.Inv.fail (h : k.Inv b) {i x} : (k.fail i x).Inv b := h.setTok
theorem Core.Inv.raise (h : k.Inv b) {r} : (k.raise r).Inv b := h.of_eq
theorem Core.Inv.setHold (h : k.Inv b) {cl x} : (k.setHold cl x).Inv b := h.of_eq
theorem Core.Inv.release (h : k.Inv b) {cl p n} : (k.release cl p n).Inv b := h.of_eq
theorem Core.Inv.dropCmd (h : k.Inv b) {i} : (k.dropCmd i).Inv b := h.of_eq
theorem Core.Inv.noteCause (h : k.Inv b) {r} : (k.noteCause r).Inv b := h.modVis
theorem Core.Inv.dropVerchk (h : k.Inv b) : k.dropVerchk.Inv b := h.of_eq
theorem Core.Inv.cutHere (h : k.Inv b) : k.cutHere.Inv b := h.dropVerchk.of_eq
theorem Core.Inv.pastVerchk (h : k.Inv b) : k.pastVerchk.Inv b := h.of_eq
theorem Core.Inv.freeze (h : k.Inv b) : k.freeze.Inv b := h.of_eq
theorem Core.Inv.halt (h : k.Inv b) : k.halt.Inv b := h.of_eq

theorem Core.Inv.stopAtCut (h : k.Inv b) {r} : (k.stopAtCut r).Inv b := by
  unfold Core.stopAtCut
  split
  · exact h.pastVerchk.cutHere.noteCause.modVis
  · exact h.cutHere.noteCause.modVis

theorem Core.Inv.enterHandler (h : k.Inv b) {r n i} : (k.enterHandler r n i).Inv b := by
  refine (h.stopAtCut (r := r)).of_eq ?_ ?_ ?_ ?_ ?_ ?_ ?_ ?_ ?_ <;> simp only [Core.enterHandler, Core.freeze]

theorem Core.Inv.leaveHandler (h : k.Inv b) {n} : (k.leaveHandler n).Inv b := by
  unfold Core.leaveHandler
  split
  · exact h
  · exact h.of_eq

/-! ## Raising, issuing and queueing -/

theorem State.Inv.wg (h : s.Inv b) {r x} : (s.wg r x).Inv b := h.modMe fun _ hk => hk.modVis
theorem State.Inv.modCsr (h : s.Inv b) {f} : (s.modCsr f).Inv b := h.modMe fun _ hk => hk.modVis
theorem State.Inv.raise (h : s.Inv b) {c x} : (s.raise c x).Inv b := h.modMe fun _ hk => hk.raise
theorem State.Inv.raiseAt (h : s.Inv b) {c x} : (s.raiseAt c x).Inv b := h.modMe fun _ hk => hk.raise
theorem State.Inv.illegal (h : s.Inv b) : s.illegal.Inv b := h.raise
theorem State.Inv.settle (h : s.Inv b) {u n} : (s.settle u n).Inv b := h.meQuiet
theorem State.Inv.jumped (h : s.Inv b) {x n} : (s.jumped x n).Inv b := h.settle
theorem State.Inv.holds (h : s.Inv b) {x} : (s.holds x).Inv b := h.modMe fun _ hk => hk.setHold
theorem State.Inv.addCmd (h : s.Inv b) {c} : (s.addCmd c).Inv b := (h.meQuiet).bump

/-- A word issues with its effect, or traps past the last word (R12). -/
theorem State.Inv.issued (h : s.Inv b) {f : State → State} (hf : (f s).Inv b) : (s.issued f).Inv b := by
  unfold State.issued State.issuedFrom
  split
  · exact hf.settle
  · exact h.illegal

/-! ## Translation, records and the end of a context -/

theorem State.Inv.installLeaf (h : s.Inv b) {c p l} (e : s.installLeaf c p l = some t) : t.Inv b := by
  unfold State.installLeaf at e
  refine foldl_some (P := (State.Inv b ·)) (fun u x v hu e => ?_) _ h e
  obtain ⟨w, -, rfl⟩ := Option.map_eq_some_iff.1 e
  exact hu.setOwner

theorem State.Inv.xlate (h : s.Inv b) {c p} : (s.xlate c p).1.Inv b := by
  unfold State.xlate
  dsimp only
  split
  · exact h
  · split
    · exact h
    · split
      · exact h
      · next e => exact (h.installLeaf e).mtu

theorem State.Inv.endCtxNote (h : s.Inv b) {c n d l} : (s.endCtxNote c n d l).Inv b := by
  unfold State.endCtxNote
  dsimp only
  split
  · exact h
  · exact h.at_.at_

theorem State.Inv.endCtx (h : s.Inv b) {c n d} : (s.endCtx c n d).Inv b := h.endCtxNote
theorem State.Inv.endFor (h : s.Inv b) {c i r d} : (s.endFor c i r d).Inv b := h.endCtxNote

theorem State.Inv.memRecord (h : s.Inv b) {c i cl d p a n} : (s.memRecord c i cl d p a n).Inv b := by
  unfold State.memRecord
  split
  · exact h
  · exact h.record

theorem State.Inv.lateFault (h : s.Inv b) {l} : (s.lateFault l).Inv b := by
  unfold State.lateFault
  dsimp only
  split
  · exact h.mtu.record.endFor
  · exact h.record.endFor

/-! ## Home and memory -/

theorem State.Inv.markDirty (h : s.Inv b) {f v} : (s.markDirty f v).Inv b := h.modMtu fun _ hm => rising_sset hm

theorem State.Inv.writeBack (h : s.Inv b) {l} : (s.writeBack l).Inv b := by
  unfold State.writeBack
  dsimp only
  split
  · next e => exact (h.xlate.of_fst e).of_eq.markDirty
  · next e => exact (h.xlate.of_fst e).lateFault

theorem State.Inv.evictHome (h : s.Inv b) {c l} : (s.evictHome c l).Inv b := by
  unfold State.evictHome
  split
  · exact h
  · dsimp only
    split
    · exact h.of_eq
    · exact h.of_eq.writeBack

theorem State.Inv.putHome (h : s.Inv b) {l} : (s.putHome l).Inv b := by
  unfold State.putHome
  dsimp only
  split
  · exact h.of_eq
  · exact h.of_eq.chosen.evictHome

theorem State.Inv.mergeHome (h : s.Inv b) {l} : (s.mergeHome l).Inv b := h.putHome

theorem State.Inv.homeLine (h : s.Inv b) {c l n} : (s.homeLine c l n).1.Inv b := by
  unfold State.homeLine
  dsimp only
  split
  · exact h
  · split
    · next e =>
      dsimp only
      split
      · exact h.xlate.of_fst e
      · exact (h.xlate.of_fst e).putHome
    · next e => exact h.xlate.of_fst e

theorem State.Inv.enginePage (h : s.Inv b) {c a w} : (s.enginePage c a w).1.Inv b := by
  unfold State.enginePage
  split
  · exact h
  · split
    · exact h
    · split
      · next e => split <;> split <;> exact h.xlate.of_fst e
      · next e => exact h.xlate.of_fst e
      · next e => exact h.xlate.of_fst e

theorem State.Inv.engineRead (h : s.Inv b) {c a n} : (s.engineRead c a n).1.Inv b := by
  unfold State.engineRead
  refine State.Inv.foldl_fst (fun x p hx => ?_) _ h
  obtain ⟨u, y | e⟩ := x
  · dsimp only
    split
    · next e => exact hx.enginePage.of_fst e
    · next e =>
      have hu := hx.enginePage.of_fst e
      split
      · exact hu
      · split
        · next e => exact hu.homeLine.of_fst e
        · next e => exact hu.homeLine.of_fst e
  · exact hx

theorem State.Inv.homeWrite (h : s.Inv b) {c l o n x m} : (s.homeWrite c l o n x m).Inv b := h.putHome

theorem State.Inv.engineWrite (h : s.Inv b) {c a n x m} : (s.engineWrite c a n x m).1.Inv b := by
  unfold State.engineWrite
  refine State.Inv.foldl_fst (fun x p hx => ?_) _ h
  obtain ⟨u, y | e⟩ := x
  · dsimp only
    split
    · next e => exact hx.enginePage.of_fst e
    · next e =>
      have hu := hx.enginePage.of_fst e
      split
      · exact hu.of_eq
      · exact hu.homeWrite
  · exact hx

/-- What a die reset still serves is what it would do with the die ready (R370). -/
theorem Goes.served {f : State → Host.Outcome State Fault Refusal} (h : s.Inv b) (hf : ∀ u : State, u.Inv b → Goes b (f u)) :
    Goes b (s.served f) := by
  unfold State.served
  dsimp only
  split
  · split
    · next e => exact .next (hf _ h.of_eq _ e).of_eq
    · exact hf _ h.of_eq
  · exact hf _ h

/-! ## The caches of a core -/

theorem State.Inv.setRdc (h : s.Inv b) {z l} : (s.setRdc z l).Inv b := h.of_eq

theorem State.Inv.cleanRdc (h : s.Inv b) {z c l} : (s.cleanRdc z c l).Inv b := by
  unfold State.cleanRdc
  split
  · exact h
  · split
    · exact h
    · exact h.mergeHome.setRdc

theorem State.Inv.dropRdc (h : s.Inv b) {z c l} : (s.dropRdc z c l).Inv b := h.setRdc

theorem State.Inv.putRdc (h : s.Inv b) {z l} : (s.putRdc z l).Inv b := by
  unfold State.putRdc
  dsimp only
  split
  · exact h.setRdc
  · exact h.setRdc.chosen.cleanRdc.dropRdc

theorem State.Inv.mergeRdc (h : s.Inv b) {z l} : (s.mergeRdc z l).Inv b := h.putRdc

theorem State.Inv.cleanBlock (h : s.Inv b) {c i l} : (s.cleanBlock c i l).Inv b := by
  unfold State.cleanBlock
  split
  · exact h
  · split
    · exact h
    · exact h.mergeRdc.quiet

theorem State.Inv.dropBlock (h : s.Inv b) {c i l} : (s.dropBlock c i l).Inv b := h.quiet

theorem State.Inv.evictBlock (h : s.Inv b) {c l} : (s.evictBlock c l).Inv b :=
  (State.Inv.foldl (fun _ _ hs => hs.cleanBlock.dropBlock) _ h).quiet

theorem State.Inv.evictLine (h : s.Inv b) {c i l} : (s.evictLine c i l).Inv b := by
  unfold State.evictLine
  split
  · exact h.evictBlock
  · exact h.cleanBlock.dropBlock

theorem State.Inv.makeRoom (h : s.Inv b) {c i l} : (s.makeRoom c i l).Inv b := by
  unfold State.makeRoom
  dsimp only
  split
  · exact h
  · exact h.chosen.evictLine

theorem State.Inv.putBlock (h : s.Inv b) {c l} : (s.putBlock c l).Inv b := h.quiet.makeRoom

theorem State.Inv.madeWhole (h : s.Inv b) {c l n v} : (s.madeWhole c l n v).1.Inv b := by
  unfold State.madeWhole
  split
  · exact h
  · split
    · next e => exact h.homeLine.of_fst e
    · exact h

theorem State.Inv.homeServe (h : s.Inv b) {c l n} : (s.homeServe c l n).1.Inv b := by
  unfold State.homeServe
  split
  · next e => exact (h.homeLine.of_fst e).madeWhole
  · exact h.homeLine

theorem State.Inv.belowLine (h : s.Inv b) {c i l n} : (s.belowLine c i l n).1.Inv b := by
  unfold State.belowLine
  dsimp only
  split
  · exact h.madeWhole
  · split
    · next e =>
      dsimp only
      split
      · exact (h.homeServe.of_fst e).putRdc
      · exact h.homeServe.of_fst e
    · next e => exact h.homeServe.of_fst e

theorem State.Inv.loadLine (h : s.Inv b) {c i l n u} : (s.loadLine c i l n u).1.Inv b := by
  unfold State.loadLine
  split
  · split
    · next e => exact h.xlate.of_fst e
    · next e => exact h.xlate.of_fst e
  · dsimp only
    split
    · exact h
    · split
      · next e =>
        dsimp only
        split
        · exact (h.belowLine.of_fst e).putBlock
        · exact h.belowLine.of_fst e
      · next e => exact h.belowLine.of_fst e

theorem State.Inv.loadBytes (h : s.Inv b) {c i a n u} : (s.loadBytes c i a n u).1.Inv b := by
  unfold State.loadBytes
  refine State.Inv.foldl_fst (fun x p hx => ?_) _ h
  obtain ⟨u, y | e, ls⟩ := x
  · dsimp only
    split
    · next e => exact hx.loadLine.of_fst e
    · next e => exact hx.loadLine.of_fst e
  · exact hx

theorem State.Inv.storeBytes (h : s.Inv b) {c i a n x m} : (s.storeBytes c i a n x m).Inv b :=
  State.Inv.foldl (fun _ _ hs => hs.putBlock) _ h

theorem State.Inv.cleanHome (h : s.Inv b) {c l} : (s.cleanHome c l).Inv b := by
  unfold State.cleanHome
  split
  · exact h
  · split
    · exact h
    · split
      · next e => exact (h.xlate.of_fst e).of_eq.writeBack
      · next e => exact (h.xlate.of_fst e).of_eq.lateFault

theorem State.Inv.passHome (h : s.Inv b) {c i l} : (s.passHome c i l).Inv b := by
  unfold State.passHome
  split
  · exact h
  · split
    · exact h
    · dsimp only
      split
      · exact h.mergeHome.quiet
      · exact h.mergeHome.setRdc.quiet

theorem State.Inv.cleanToHome (h : s.Inv b) {c i l} : (s.cleanToHome c i l).Inv b := by
  unfold State.cleanToHome
  split
  · exact h.passHome
  · exact h.cleanBlock.cleanRdc

theorem State.Inv.prefetch (h : s.Inv b) {c i p} : (s.prefetch c i p).Inv b := by
  unfold State.prefetch
  split
  · exact h
  · split
    · exact h
    · next e => exact (h.xlate.of_fst e).quiet

/-! ## Requests and the end of a command at a memory fault (R239, R240, R300) -/

theorem State.Inv.unbounded (h : s.Inv b) {i e} : (s.unbounded i e).Inv b := h.later
theorem State.Inv.unbound (h : s.Inv b) : s.unbound.Inv b := h.loosen

theorem State.Inv.within (h : s.Inv b) {n i e} : (s.within n i e).Inv b := by
  unfold State.within
  split
  · exact h.later
  · exact h.unbounded

theorem State.Inv.accessEndIn (h : s.Inv b) {i c cl q p a n} : (s.accessEndIn i c cl q p a n).Inv b := h.memRecord.endFor
theorem State.Inv.accessEnd (h : s.Inv b) {c cl q p a n} : (s.accessEnd c cl q p a n).Inv b := h.accessEndIn

end Sys2Proof.Machine
end

section
/-!
SUPPORT. The words of C keep the two invariants: integers, branches, traps, CSRs, and what the other chapters say of C.
-/

namespace Sys2Proof.Machine

set_option Elab.async false

variable {b : Bool} {s t : State} {k : Core}

theorem Goes.issued (h : s.Inv b) {f : State → State} (hf : (f s).Inv b) : Goes b (.next (s.issued f)) := .next (h.issued hf)

/-! ## Integer words -/

theorem Goes.alu (h : s.Inv b) {d x} : Goes b (alu d x s) := .issued h h.wg

theorem Goes.aluLater (h : s.Inv b) {d x n} : Goes b (aluLater d x n s) := .issued h h.meQuiet.first

theorem Goes.cResultLands (h : s.Inv b) : Goes b (execCResultLands s) := by
  unfold execCResultLands
  dsimp only
  split
  · exact .next h
  · exact .next h.quiet

/-! ## The common majors -/

theorem Goes.loopWord (h : s.Inv b) {lv pf gc len st} : Goes b (loopWord lv pf gc len st s) := by
  unfold Machine.loopWord
  dsimp only
  split
  · exact .next h.illegal
  · split
    · split
      · exact .next h.illegal
      · exact .next h.settle
    · split
      · exact .next h.illegal
      · exact .next h.settle

theorem Goes.breakWord (h : s.Inv b) {lv go} : Goes b (breakWord lv go s) := by
  unfold Machine.breakWord
  split
  · refine .issued h ?_
    split
    · exact h.meQuiet
    · exact h
  · exact .next h.illegal

theorem Goes.waitWord (h : s.Inv b) {i} : Goes b (waitWord i s) := by
  unfold Machine.waitWord
  split
  · exact .issued h h
  · exact .next h.raise

theorem Goes.waitk (h : s.Inv b) {i} : Goes b (execWaitk i s) := by
  unfold execWaitk
  split
  · exact .next h
  · exact .waitWord h

/-! ## Branches and calls -/

theorem State.Inv.setB (h : s.Inv b) {i x} : (setB i x s).Inv b := h.meQuiet

theorem Goes.pbr (h : s.Inv b) {i x} : Goes b (execPbr i x s) := by
  unfold execPbr
  dsimp only
  split
  · exact .issued h h.setB
  · exact .next h.illegal

theorem Goes.pbrg (h : s.Inv b) {i x} : Goes b (execPbrg i x s) := by
  unfold execPbrg
  dsimp only
  split
  · exact .issued h h.setB
  · exact .next h.illegal

theorem Goes.branchWord (h : s.Inv b) {i x} : Goes b (branchWord i x s) := by
  unfold Machine.branchWord
  dsimp only
  split
  · exact .next h.illegal
  · split
    · exact .next h.jumped
    · exact .issued h h

theorem Goes.call (h : s.Inv b) {i} : Goes b (execCall i s) := by
  unfold execCall
  dsimp only
  split
  · exact .next h.illegal
  · split
    · exact .next h.meQuiet.settle
    · split
      · exact .next h.illegal
      · split
        · next e => exact .next (h.engineWrite.of_fst e).raiseAt
        · next e => exact .next (h.engineWrite.of_fst e).meQuiet.meQuiet.chosen.settle

theorem Goes.ret (h : s.Inv b) : Goes b (execRet s) := by
  unfold execRet
  dsimp only
  split
  · exact .next h.meQuiet.settle
  · split
    · exact .next h.illegal
    · split
      · next e => exact .next (h.engineRead.of_fst e).raiseAt
      · next e => exact .next (h.engineRead.of_fst e).meQuiet.chosen.settle

/-! ## Traps and CSRs -/

theorem Goes.trap (h : s.Inv b) {n} : Goes b (execTrap n s) := .issued h h.meQuiet

theorem State.Inv.abandon (h : s.Inv b) {n} : (s.abandon n).Inv b := (h.modMe fun _ hk => hk.halt).endCtx

theorem Goes.rett (h : s.Inv b) : Goes b (execRett s) := by
  unfold execRett
  split
  · exact .next h.illegal
  · split
    · exact .issued h h.holds
    · exact .next h.abandon

theorem Goes.csrWriteWord (h : s.Inv b) {n x} : Goes b (csrWriteWord n x s) := by
  unfold Machine.csrWriteWord
  split
  · exact .next h.illegal
  · split
    · exact .next h.illegal
    · refine .issued h ?_
      dsimp only
      split
      · exact h.modCsr.psubWritten
      · exact h.modCsr

theorem Goes.csrr (h : s.Inv b) {g n} : Goes b (execCsrr g n s) := .issued h h.wg

end Sys2Proof.Machine
end

section
/-!
SUPPORT. What a core says to the distributor, the MTUs and other cores, and its engines' queues, keep the two invariants.
-/

namespace Sys2Proof.Machine

set_option Elab.async false

variable {b : Bool} {s t : State} {k : Core}

/-! ## Yields, probes and pins -/

theorem Goes.yield (h : s.Inv b) {i} : Goes b (execYield i s) := by
  unfold execYield
  split
  · exact .next h.illegal
  · exact .issued h h.holds

theorem Goes.probeWord (h : s.Inv b) {d a m p} : Goes b (probeWord d a m p s) := by
  unfold Machine.probeWord
  dsimp only
  split
  · exact .next h.illegal
  · split
    · exact .issued h h
    · exact .next h.holds.later

theorem State.Inv.probePages (h : s.Inv b) {c n l} : (s.probePages c n l).1.Inv b := by
  unfold State.probePages
  refine State.Inv.foldl_fst (fun x p hx => ?_) _ h
  obtain ⟨u, ps, _ | e⟩ := x
  · dsimp only
    split
    · next e =>
      split <;> split <;> exact hx.xlate.of_fst e
    · next e => exact hx.xlate.of_fst e
    · next e => exact hx.xlate.of_fst e
  · exact hx

theorem State.Inv.setPin (h : s.Inv b) {c i p n} : (s.setPin c i p n).Inv b := h.of_eq

theorem State.Inv.pinAll (h : s.Inv b) {c i l} : (s.pinAll c i l).Inv b := State.Inv.foldl (fun _ _ hs => hs.setPin) _ h

theorem State.Inv.probeRecord (h : s.Inv b) {c n m p q} : (s.probeRecord c n m p q).Inv b := h.record

theorem State.Inv.probeSuspend (h : s.Inv b) {c} : (s.probeSuspend c).Inv b := h.modCore fun _ hk => hk.stopAtCut.upd

theorem State.Inv.probeFatal (h : s.Inv b) {c r d} : (s.probeFatal c r d).Inv b := by
  unfold State.probeFatal
  have ht : (s.modCore c fun k => (k.stopAtCut r).halt).Inv b := h.modCore fun _ hk => hk.stopAtCut.halt
  dsimp only
  split
  · exact ht.endCtx
  · split
    · exact (ht.modCore fun _ hk => hk.noteCause).endCtx
    · exact ht.endCtx

theorem Goes.probeComplete (h : s.Inv b) : Goes b (execProbeComplete s) := by
  unfold execProbeComplete
  dsimp only
  split
  · split
    · exact .next h
    · split
      · next e =>
        have ht := h.probePages.of_fst e
        split
        · exact .next ht.probeRecord.probeFatal
        · exact .next ht.probeRecord.probeSuspend
      · next e =>
        have ht := ((h.probePages.of_fst e).modCore (c := s.ev.core) fun _ hk => hk.setHold (cl := .c) (x := .run)).turnTo
          (c := s.ev.core) (cl := .c)
        split
        · exact .next ht.illegal
        · refine .issued ht ?_
          split
          · exact ht.pinAll
          · exact ht
  · split
    · exact .next h.at_
    · exact .next h

theorem Goes.unpin (h : s.Inv b) {d a} : Goes b (execUnpin d a s) := by
  unfold execUnpin
  dsimp only
  split
  · exact .next h.illegal
  · exact .issued h h.of_eq

/-! ## Time, domains and barriers -/

theorem Goes.realign (h : s.Inv b) {a} : Goes b (execRealign a s) := by
  unfold execRealign
  split
  · exact .next h.illegal
  · exact .next h.holds

theorem Goes.realignRelease (h : s.Inv b) : Goes b (execRealignRelease s) := by
  unfold execRealignRelease
  dsimp only
  split
  · exact .next h
  · refine .next (State.Inv.foldl (fun u d hu => ?_) _ h)
    have ht := (hu.modCore (c := d) fun _ hk => hk.setHold (cl := .c) (x := .run)).turnTo (c := d) (cl := .c)
    split
    · exact (ht.issued ht).quiet
    · exact ht.raise

theorem Core.Inv.phasePassed (h : k.Inv b) {l n} : (k.phasePassed l n).Inv b := h.of_eq

theorem Goes.phase (h : s.Inv b) {l} : Goes b (execPhase l s) := by
  unfold execPhase
  split
  · exact .next h.illegal
  · exact .issued h (h.modMe fun _ hk => hk.phasePassed)

theorem Goes.domsync (h : s.Inv b) {l} : Goes b (execDomsync l s) := by
  unfold execDomsync
  split
  · exact .next h.illegal
  · exact .issued h h.meQuiet.holds

theorem State.Inv.readRanks (h : s.Inv b) {c a} : (s.readRanks c a).1.Inv b := by
  unfold State.readRanks
  split
  · next e => exact h.engineRead.of_fst e
  · next e =>
    have ht := h.engineRead.of_fst e
    dsimp only
    split
    · exact ht
    · split
      · next e => exact ht.engineRead.of_fst e
      · next e => exact ht.engineRead.of_fst e

theorem State.Inv.formL3 (h : s.Inv b) {c n l} : (s.formL3 c n l).Inv b := by
  unfold State.formL3
  dsimp only
  split <;> exact h.of_eq

theorem State.Inv.passBarrier (h : s.Inv b) {c l n} : (s.passBarrier c l n).Inv b := by
  unfold State.passBarrier
  dsimp only
  split
  · exact (State.Inv.foldl (fun _ _ hs => hs.modCore fun _ hk => hk.release) _ h).of_eq
  · exact h.modCore fun _ hk => hk.release

theorem Goes.domsyncComplete (h : s.Inv b) : Goes b (execDomsyncComplete s) := by
  unfold execDomsyncComplete
  dsimp only
  have hb {u : State} (hu : u.Inv b) {c l n} : Goes b (if u.barrierDone c l n then .next (u.passBarrier c l n) else .next u) := by
    split
    · exact .next hu.passBarrier
    · exact .next hu
  split
  · refine hb ?_
    split
    · split
      · exact h
      · split
        · next e => exact (h.readRanks.of_fst e).formL3
        · next e => exact h.readRanks.of_fst e
    · exact h
  · exact .next h

theorem Goes.domsyncArrival (h : s.Inv b) : Goes b (execDomsyncArrival s) := .next h.of_eq

theorem Goes.stepadv (h : s.Inv b) : Goes b (execStepadv s) := .next h.holds

theorem Goes.stepSwitch (h : s.Inv b) : Goes b (execStepSwitch s) := by
  unfold execStepSwitch
  dsimp only
  split
  · exact .next h
  · have ht := (h.modCore (c := s.ev.core) fun _ hk => hk.setHold (cl := .c) (x := .run)).turnTo (c := s.ev.core) (cl := .c)
    split
    · exact .next (ht.raise.modMe fun _ hk => hk.modVis)
    · exact .issued ht (ht.modMe fun _ hk => hk.modVis)

/-! ## Launch and end -/

theorem Goes.klaunch (h : s.Inv b) {a i} : Goes b (execKlaunch a i s) := by
  unfold execKlaunch
  dsimp only
  split
  · exact .next h.illegal
  · exact .issued h (h.modMe fun _ hk => hk.pend).addCmd.later

theorem Goes.kend (h : s.Inv b) : Goes b (execKend s) := by
  unfold execKend
  split
  · exact .next h.illegal
  · exact .issued h h.holds

theorem State.Inv.checkLine (h : s.Inv b) {c m l} : (s.checkLine c m l).Inv b := by
  unfold State.checkLine
  dsimp only
  split
  · next e =>
    split
    · exact (h.xlate.of_fst e).evictHome
    · exact h.xlate.of_fst e
  · next e => exact (h.xlate.of_fst e).of_eq.lateFault

theorem State.Inv.kendLines (h : s.Inv b) {c} : (s.kendLines c).1.Inv b :=
  State.Inv.foldl (fun _ _ hs => hs.cleanRdc) _ (State.Inv.foldl (fun _ _ hs => hs.passHome) _ h)

theorem State.Inv.kendCheck (h : s.Inv b) {l} : (s.kendCheck l).Inv b := by
  refine State.Inv.foldl (fun u x hu => ?_) _ h
  split
  · exact hu.checkLine
  · exact hu

theorem State.Inv.reportCells (h : s.Inv b) {i} : (s.reportCells i).Inv b := h.at_
theorem State.Inv.freeCells (h : s.Inv b) {c p} : (s.freeCells c p).Inv b := State.Inv.reportCells h.of_eq
theorem State.Inv.dropSubs (h : s.Inv b) {c} : (s.dropSubs c).Inv b := h.of_eq
theorem State.Inv.prst (h : s.Inv b) {c r} : (s.prst c r).Inv b := State.Inv.msi h.of_eq
theorem State.Inv.closeRuns (h : s.Inv b) : s.closeRuns.Inv b := State.Inv.foldl (fun _ _ hs => hs.prst) _ h.of_eq

theorem Goes.kendComplete (h : s.Inv b) : Goes b (execKendComplete s) := by
  unfold execKendComplete
  dsimp only
  split
  · exact .next h
  · have ht := (h.kendLines (c := s.ev.core)).kendCheck (l := (s.kendLines s.ev.core).2)
    split
    · exact .next (ht.modCore fun _ hk => hk.halt)
    · split
      · next e =>
        exact .next ((State.Inv.engineWrite (ht.of_eq)).of_fst e |>.memRecord.modCore fun _ hk => hk.halt).endCtx
      · next e =>
        exact .next (((State.Inv.engineWrite (ht.of_eq)).of_fst e).modCore fun _ hk => hk.halt.of_eq).at_.dropSubs.closeRuns

/-! ## The queues of the engines -/

theorem Goes.engineWord (h : s.Inv b) {op kd q ch ok} : Goes b (engineWord op kd q ch ok s) := by
  unfold Machine.engineWord
  dsimp only
  split
  · exact .next h.illegal
  · exact .issued h (h.modMe fun _ hk => hk.pend).addCmd

theorem Goes.cqPost (h : s.Inv b) {i q} : Goes b (execCqPost i q s) := by
  unfold execCqPost
  dsimp only
  split
  · split
    · next e =>
      split
      · exact .next (Goes.engineWord h _ e)
      · exact .next h.raiseAt
    · exact Goes.engineWord h
  · exact Goes.engineWord h

theorem Goes.amorWord (h : s.Inv b) {op kd q dw cas} : Goes b (amorWord op kd q dw cas s) := by
  unfold Machine.amorWord
  exact .engineWord h

theorem Goes.tkZero (h : s.Inv b) {i} : Goes b (execTkZero i s) := by
  unfold execTkZero
  split
  · exact .next h.illegal
  · exact .issued h (h.modMe fun _ hk => hk.setTok)

theorem Goes.tkJoin (h : s.Inv b) {i x y} : Goes b (execTkJoin i x y s) := by
  unfold execTkJoin
  split
  · exact .next h.illegal
  · exact .issued h (h.modMe fun _ hk => hk.pend).addCmd

theorem Goes.tkTest (h : s.Inv b) {d a} : Goes b (execTkTest d a s) := .issued h h.wg

theorem Core.Inv.seeTokens (h : k.Inv b) {n} : (k.seeTokens n).Inv b := h.of_eq
theorem Core.Inv.modCmd (h : k.Inv b) {i f} : (k.modCmd i f).Inv b := h.of_eq

theorem Core.Inv.startCmd (h : k.Inv b) {m} : (k.startCmd m).Inv b := by
  unfold Core.startCmd
  dsimp only
  split
  · exact h.modCmd.upd
  · exact h.modCmd

theorem Core.Inv.leave (h : k.Inv b) {i} : (k.leave i).Inv b := by
  unfold Core.leave
  split
  · exact h.dropCmd.upd
  · exact h.dropCmd

theorem State.Inv.finish (h : s.Inv b) {c m r} (hr : ∀ k : Core, k.Inv b → (r k).Inv b) : (s.finish c m r).Inv b :=
  h.modCore fun _ hk => by
    split
    · exact hk.leave
    · exact hr _ hk.leave

theorem State.Inv.finishDone (h : s.Inv b) {c m} : (s.finishDone c m).Inv b := h.finish fun _ hk => hk.done
theorem State.Inv.finishFail (h : s.Inv b) {c m x} : (s.finishFail c m x).Inv b := h.finish fun _ hk => hk.fail

theorem Core.Inv.switchFail (h : k.Inv b) {m i x} : (k.switchFail m i x).Inv b := by
  unfold Core.switchFail
  split
  · exact h.modVis
  · exact h

theorem Core.Inv.switchReady (h : k.Inv b) {m i} : (k.switchReady m i).Inv b := by
  unfold Core.switchReady
  split
  · exact h.modVis
  · exact h

theorem Goes.consumedTokenFailed (h : s.Inv b) : Goes b (execConsumedTokenFailed s) := by
  unfold execConsumedTokenFailed
  dsimp only
  split
  · exact .next h
  · split
    · exact .next (h.finishFail.modCore fun _ hk => hk.switchFail)
    · exact .next h.finishFail

end Sys2Proof.Machine
end

section
/-!
SUPPORT. Copies, links, collectives and error records keep the two invariants.
-/

namespace Sys2Proof.Machine

set_option Elab.async false

variable {b : Bool} {s t : State} {k : Core}

/-! ## Copies -/

theorem State.Inv.readable (h : s.Inv b) {c a n} : (s.readable c a n).1.Inv b := by
  unfold State.readable
  split
  · next e => exact h.engineRead.of_fst e
  · next e =>
    split
    · next e' => exact (h.engineRead.of_fst e).engineRead.of_fst e'
    · next e' => exact (h.engineRead.of_fst e).engineRead.of_fst e'

theorem State.Inv.copyPages (h : s.Inv b) {c n a m} : (s.copyPages c n a m).1.Inv b := by
  unfold State.copyPages
  refine State.Inv.foldl_fst (fun x p hx => ?_) _ h
  obtain ⟨u, _ | e⟩ := x
  · have hu : u.Inv b := hx
    have hn : (if (pagesOf a m).contains (p + 1) then (u.prefetch c 2 p).prefetch c 2 (p + 1) else u.prefetch c 2 p).Inv b := by
      split
      · exact hu.prefetch.prefetch
      · exact hu.prefetch
    dsimp only
    split
    · exact hn
    · exact hn
    · exact hu.prefetch
  · exact hx

theorem State.Inv.copyRead (h : s.Inv b) {c i a n} : (s.copyRead c i a n).1.Inv b := by
  unfold State.copyRead
  split
  · next e => exact (h.copyPages.of_fst e).readable
  · next e =>
    split
    next e' => exact (h.copyPages.of_fst e).readable.of_fst e'

theorem State.Inv.copyWrite (h : s.Inv b) {c i a n x m} : (s.copyWrite c i a n x m).1.Inv b := by
  unfold State.copyWrite
  split
  next e =>
    dsimp only
    split
    · next e' => exact (h.copyPages.of_fst e).engineWrite.of_fst e'
    · next e' => exact (h.copyPages.of_fst e).engineWrite.of_fst e'

theorem State.Inv.noteSend (h : s.Inv b) {d} : (s.noteSend d).Inv b := h.of_eq
theorem State.Inv.send (h : s.Inv b) {d m} : (s.send d m).Inv b := by
  unfold State.send
  exact h.noteSend.upd

theorem State.Inv.linkStart (h : s.Inv b) {c m q d} : (s.linkStart c m q d).Inv b := by
  unfold State.linkStart
  split
  · exact h.finishFail
  · extract_lets k inj u dev
    have hu : u.Inv b := .ite (h.modCore fun _ hk => hk.disarm) h
    clear_value u
    split
    exact hu.send

theorem State.Inv.copyStart (h : s.Inv b) {c m} : (s.copyStart c m).Inv b := by
  unfold State.copyStart
  extract_lets q cid n u start bad ends bound
  have hs : u.Inv b := h.modCore fun _ hk => hk.startCmd
  clear_value start bad bound u
  split
  · exact hs.finishFail
  · split
    · exact hs.finish fun _ hk => hk.done
    · split
      · exact hs.finishFail
      · split
        next w data err e =>
          have hw : w.Inv b := by
            split at e
            · cases e; exact hs
            · cases e; exact hs
            · exact hs.copyRead.of_fst e
          extract_lets x
          have hx : x.Inv b := hw.modCore fun _ hk => hk.modCmd
          clear_value x
          split
          · exact hx.linkStart
          · exact hx.linkStart
          · exact hx.linkStart
          · exact hx.within

theorem State.Inv.sumDone (h : s.Inv b) {c m v} : (s.sumDone c m v).Inv b := by
  unfold State.sumDone
  split
  · exact h.finishDone
  · exact h.finish fun _ hk => hk.done
  · split
    · exact h.finishDone
    · refine h.finishFail.modCore fun _ hk => ?_
      split
      · exact hk
      · exact hk.raise

theorem State.Inv.copyRefused (h : s.Inv b) {c m e} : (s.copyRefused c m e).Inv b := h.finishFail.accessEnd

theorem Goes.copyComplete (h : s.Inv b) : Goes b (execCopyComplete s) := by
  unfold execCopyComplete
  extract_lets c
  split
  · exact .next h
  · next m _ =>
    extract_lets q cid bytes
    split
    · extract_lets u
      have hu : u.Inv b := h.modCore fun _ hk => hk.less (ht := rising_tileWrite) (hg := by
        intro hg
        dsimp only
        split
        · exact rising_tagWrite hg
        · exact hg)
      clear_value u
      split
      · exact .next hu.copyRefused
      · exact .next hu.finishDone
    · split
      next u stop e =>
        have hu : u.Inv b := by
          split at e
          · cases e; exact h
          · exact h.copyWrite.of_fst e
        split
        · exact .next hu.copyRefused
        · split
          · exact .next hu.sumDone
          · exact .next hu.finishDone

theorem State.Inv.answer (h : s.Inv b) {a} : (s.answer a).Inv b := by
  have ho : (if s.routed then { s with outbox := s.outbox ++ [a] } else { s with ackHeld := s.ackHeld ++ [a] } : State).Inv b := by
    split <;> exact h.upd
  unfold State.answer
  dsimp only
  split
  · split
    · exact h.unbounded
    · exact ho
  · split
    · exact h.unbounded
    · exact ho
  · exact ho

theorem Goes.linkWriteArrival (h : s.Inv b) : Goes b (execLinkWriteArrival s) := by
  unfold execLinkWriteArrival
  dsimp only
  split
  · exact .next h.answer
  · split
    · next e => exact .next (h.engineWrite.of_fst e).answer
    · next e => exact .next (h.engineWrite.of_fst e).answer

theorem Goes.linkAck (h : s.Inv b) : Goes b (execLinkAck s) := by
  unfold execLinkAck
  dsimp only
  split
  · exact .next h
  · split
    · exact .next h.sumDone
    · exact .next h.finishFail

theorem State.Inv.atomic (h : s.Inv b) {c op dw a x n m} : (s.atomic c op dw a x n m).1.Inv b := by
  unfold State.atomic
  dsimp only
  split
  · next e => exact h.enginePage.of_fst e
  · next e =>
    have hp := h.enginePage.of_fst e
    split
    · next e => exact hp.engineRead.of_fst e
    · next e =>
      have hr := hp.engineRead.of_fst e
      split
      · exact hr
      · split
        · next e => exact hr.engineWrite.of_fst e
        · next e => exact hr.engineWrite.of_fst e

theorem State.Inv.amorStart (h : s.Inv b) {c m op dw} : (s.amorStart c m op dw).Inv b := by
  unfold State.amorStart
  have hs : (s.modCore c (·.startCmd m)).Inv b := h.modCore fun _ hk => hk.startCmd
  dsimp only
  split
  · exact hs.noteSend.unbounded
  · split
    · exact hs.finishFail
    · exact hs.send

theorem Goes.amorArrival (h : s.Inv b) : Goes b (execAmorArrival s) := by
  unfold execAmorArrival
  dsimp only
  split
  · exact .next h.answer
  · split
    · next e => exact .next (h.atomic.of_fst e).answer
    · next e => exact .next (h.atomic.of_fst e).answer

theorem Goes.amorAck (h : s.Inv b) : Goes b (execAmorAck s) := by
  unfold execAmorAck
  dsimp only
  split
  · exact .next h
  · split
    · exact .next h.finishDone
    · exact .next h.finishFail

/-! ## Counters, queue pairs and entries -/

theorem State.Inv.addCnt (h : s.Inv b) {n x} : (s.addCnt n x).Inv b := by
  unfold State.addCnt
  split
  · exact h
  · exact h.tables (hc := rising_sset)

theorem State.Inv.setQp (h : s.Inv b) {q x} : (s.setQp q x).Inv b := by
  unfold State.setQp
  exact h.tables (hq := rising_sset)

theorem State.Inv.modEnt (h : s.Inv b) {q i f} : (s.modEnt q i f).Inv b := h.setQp
theorem State.Inv.dropEnt (h : s.Inv b) {q i} : (s.dropEnt q i).Inv b := h.setQp
theorem State.Inv.entFail (h : s.Inv b) {q e x} : (s.entFail q e x).Inv b := h.dropEnt.setQp.msi
theorem State.Inv.entDone (h : s.Inv b) {q e} : (s.entDone q e).Inv b := h.dropEnt.addCnt

theorem Goes.entryComplete (h : s.Inv b) : Goes b (execEntryComplete s) := by
  unfold execEntryComplete
  dsimp only
  split
  · exact .next h
  · split
    · exact .next h.entFail
    · split
      · exact .next h.entDone
      · exact .next h.modEnt

theorem Goes.ackTimeout (h : s.Inv b) : Goes b (execAckTimeout s) := by
  unfold execAckTimeout
  split
  · split
    · exact .next h
    · exact .next h.entFail
  · split
    · exact .next h
    · exact .next h.finishFail

theorem Goes.entryFire (h : s.Inv b) : Goes b (execEntryFire s) := by
  unfold execEntryFire
  split
  · exact .next h
  · split
    · exact .next h.modEnt.bump
    · exact .next h.entFail

theorem State.Inv.cacheRank (h : s.Inv b) {r} : (s.cacheRank r).Inv b := by
  unfold State.cacheRank
  split
  · exact h.upd
  · split
    · exact h
    · exact h.upd

theorem State.Inv.entRead (h : s.Inv b) {c x lo n} : (s.entRead c x lo n).1.Inv b := by
  unfold State.entRead
  split
  · split
    · next e => exact h.engineRead.of_fst e
    · next e => exact h.engineRead.of_fst e
  · extract_lets w parts r
    have hr : r.1.Inv b := by
      refine State.Inv.foldl_fst (fun y j hy => ?_) _ h
      obtain ⟨u, ⟨es, f⟩ | e⟩ := y
      · have hu : u.Inv b := hy
        dsimp only
        split
        · next e => exact hu.engineRead.of_fst e
        · next e => split <;> exact hu.engineRead.of_fst e
      · exact hy
    clear_value r
    split
    · exact hr
    · exact hr

theorem State.Inv.sendChunk (h : s.Inv b) {d c} : (s.sendChunk d c).Inv b := by
  unfold State.sendChunk
  split
  · exact h.noteSend.unbounded
  · exact h.send

theorem State.Inv.sendChunks (h : s.Inv b) {q e l} : (s.sendChunks q e l).1.Inv b := by
  unfold State.sendChunks
  dsimp only
  refine State.Inv.foldl_fst (fun x p hx => ?_) _ h
  obtain ⟨u, _ | e⟩ := x
  · have hu : u.Inv b := hx
    dsimp only
    split
    · next e => exact hu.entRead.of_fst e
    · next e => exact State.Inv.foldl (fun _ _ hs => hs.sendChunk) _ (hu.entRead.of_fst e)
  · exact hx

theorem State.Inv.entLaunch (h : s.Inv b) {q e l} : (s.entLaunch q e l).Inv b := by
  unfold State.entLaunch
  dsimp only
  split
  · exact h.entDone
  · split
    · exact h.entFail
    · split
      · refine State.Inv.foldl (fun u d hu => ?_) _ h.modEnt
        split
        · exact hu.noteSend.unbounded
        · exact hu.send
      · split
        · next e => exact h.modEnt.sendChunks.of_fst e
        · next e => exact (h.modEnt.sendChunks.of_fst e).dropEnt.accessEndIn

theorem Goes.entryStart (h : s.Inv b) : Goes b (execEntryStart s) := by
  unfold execEntryStart
  split
  · exact .next h
  · split
    · dsimp only
      split
      · exact .next h.entLaunch
      · split
        · next e => exact .next (h.readRanks.of_fst e).cacheRank.entLaunch
        · next e => exact .next (h.readRanks.of_fst e).entFail
        · next e => exact .next (h.readRanks.of_fst e).dropEnt.accessEndIn
    · exact .next h.entLaunch

/-! ## Arrivals -/

/-- Every page of a list may be written, with the size of a page a parameter. -/
def allWritable (c : BitVec 12) (page : Nat) (l : List Nat) (x : State × Bool) : State × Bool :=
  l.foldl
    (fun (acc : State × Bool) p =>
      match acc.1.enginePage c (p * page) true with
      | (s, some _, _) => (s, acc.2)
      | (s, none, _) => (s, false)) x

theorem State.mayWrite_eq {c a n} :
    s.mayWrite c a n = allWritable c (2 ^ 21) (pagesOf a n) (s, decide (a + n ≤ 2 ^ 48)) := rfl

theorem inv_allWritable {c page l} {x : State × Bool} (h : x.1.Inv b) : (allWritable c page l x).1.Inv b := by
  unfold allWritable
  refine State.Inv.foldl_fst (fun x p hx => ?_) _ h
  split
  · next e => exact hx.enginePage.of_fst e
  · next e => exact hx.enginePage.of_fst e

theorem State.Inv.mayWrite (h : s.Inv b) {c a n} : (s.mayWrite c a n).1.Inv b := by
  rw [State.mayWrite_eq]
  exact inv_allWritable h

theorem State.Inv.answerChunk (h : s.Inv b) {c x} : (s.answerChunk c x).Inv b := h.answer

theorem State.Inv.reduceInto (h : s.Inv b) {l} : (s.reduceInto l).Inv b := by
  unfold State.reduceInto
  split
  · exact h
  · extract_lets w stamp count n
    split
    · next e => exact h.engineRead.of_fst e
    · next e =>
      have hr := h.engineRead.of_fst e
      extract_lets ins f0
      split
      extract_lets out f'
      split
      next e =>
        have hw := hr.engineWrite.of_fst e
        split
        · next e => exact hw.engineRead.of_fst e
        · next e =>
          extract_lets word
          split
          next e' => exact ((hw.engineRead.of_fst e).engineWrite.of_fst e').addCnt

theorem Goes.chunkArrival (h : s.Inv b) : Goes b (execChunkArrival s) := by
  unfold execChunkArrival
  extract_lets c n stamp
  clear_value n
  split
  · exact .next h.answerChunk
  · split
    · next e => exact .next (h.mayWrite.of_fst e).answerChunk
    · next u e =>
      have hu := h.mayWrite.of_fst e
      have hx {x : State × Bool} (hx : (if c.status = 0 then (u, true) else u.mayWrite c.rcid c.status 8) = x) : x.1.Inv b := by
        split at hx
        · cases hx; exact hu
        · exact hx ▸ hu.mayWrite
      split
      · next e => exact .next (State.Inv.answerChunk (hx e))
      · next w e =>
        have hw : w.Inv b := hx e
        split
        · split
          next e =>
            have hr := hw.engineWrite.of_fst e
            exact .next (State.Inv.addCnt (.ite hr hr.engineWrite)).answerChunk
        · split
          · next e => exact .next (hw.engineRead.of_fst e).answerChunk
          · next e =>
            have hr := hw.engineRead.of_fst e
            extract_lets held parts rest v
            clear_value held parts rest
            split
            · exact .next hr.answerChunk.endFor
            · split
              · exact .next hr.reduceInto.answerChunk
              · split
                · exact .next hr.at_
                · split
                  · exact .next hr.upd
                  · have hv : v.Inv b := State.Inv.reduceInto hr.upd
                    clear_value v
                    exact .next (State.Inv.foldl (fun _ _ hs => hs.answerChunk) _ hv)

theorem Goes.signalArrival (h : s.Inv b) : Goes b (execSignalArrival s) := by
  unfold execSignalArrival
  dsimp only
  refine .next (State.Inv.answer ?_)
  split
  · exact h.addCnt
  · exact h

/-! ## The commands of the collective engine -/

theorem State.Inv.cqPost (h : s.Inv b) {c m} : (s.cqPost c m).Inv b := by
  unfold State.cqPost
  dsimp only
  split
  · exact h.finishFail
  · split
    · exact h.finishFail
    · split
      · next e => exact (h.engineRead.of_fst e).copyRefused
      · next e =>
        have hr := h.engineRead.of_fst e
        split
        · next e => exact (hr.engineWrite.of_fst e).copyRefused
        · next e => exact (hr.engineWrite.of_fst e).setQp.finishDone

theorem Goes.cqPostAppended (h : s.Inv b) : Goes b (execCqPostAppended s) := by
  unfold execCqPostAppended
  split
  · exact .next h
  · exact .next h.cqPost

theorem State.Inv.cqArm (h : s.Inv b) {c m} : (s.cqArm c m).Inv b := by
  unfold State.cqArm
  dsimp only
  split
  · exact h.finishFail
  · split
    · exact h.finishFail
    · split
      · exact h.finishFail
      · exact h.modEnt.finishDone

theorem Goes.cntWaitReached (h : s.Inv b) : Goes b (execCntWaitReached s) := by
  unfold execCntWaitReached
  dsimp only
  split
  · exact .next h
  · exact .next h.finishDone

theorem State.Inv.collStart (h : s.Inv b) {c m} : (s.collStart c m).Inv b := by
  unfold State.collStart
  have hs : (s.modCore c (·.startCmd m)).Inv b := h.modCore fun _ hk => hk.startCmd
  dsimp only
  split
  · exact hs.unbounded
  · exact hs.cqArm
  · split
    · exact hs.addCnt.finishDone
    · exact hs.finishFail
  · split
    · exact hs
    · exact hs.finishFail
  · exact hs.upd.finishDone

/-! ## Errors -/

theorem State.Inv.correctable (h : s.Inv b) {d} : (s.correctable d).Inv b := h.of_eq
theorem State.Inv.errRecord (h : s.Inv b) {n d c i j a} : (s.errRecord n d c i j a).Inv b := State.Inv.msi h.upd

theorem State.Inv.uncorrectable (h : s.Inv b) {n d c i j a} : (s.uncorrectable n d c i j a).Inv b := by
  unfold State.uncorrectable
  dsimp only
  split
  · exact h.errRecord.record.endCtx
  · exact h.errRecord.record

theorem State.Inv.dropParity (h : s.Inv b) {d c i p} : (s.dropParity d c i p).Inv b := by
  unfold State.dropParity
  dsimp only
  split
  · exact h.modCore fun _ hk => hk.upd
  · refine State.Inv.foldl (fun u d hu => ?_) _ h
    split
    · exact hu.mtu
    · exact hu

theorem Core.Inv.withhold (h : k.Inv b) {i} : (k.withhold i).Inv b := by
  unfold Core.withhold
  exact h.less (hl := fun _ hx => List.mem_of_mem_filter hx)
    (hx := fun p hp => ⟨p, List.mem_of_mem_filter hp, fun _ h => h⟩)

theorem State.Inv.withholdEnt (h : s.Inv b) {q i} : (s.withholdEnt q i).Inv b := by
  unfold State.withholdEnt
  exact h.tables (hq := rising_map fun x => by split <;> rfl)

theorem Goes.correctableError (h : s.Inv b) : Goes b (execCorrectableError s) := by
  unfold execCorrectableError
  dsimp only
  refine .next ?_
  split
  · exact h.correctable.loosen
  · exact h.correctable

theorem Goes.uncorrectableError (h : s.Inv b) : Goes b (execUncorrectableError s) := by
  unfold execUncorrectableError
  extract_lets store core named cid die u v w
  have hu : u.Inv b := .ite h (h.modCore fun _ hk => hk.withhold)
  have hv : v.Inv b := .ite hu hu.withholdEnt
  have hw : w.Inv b := .ite hv.dropParity hv
  clear_value u v w
  exact .next hw.uncorrectable

end Sys2Proof.Machine
end

section
/-!
SUPPORT. Shapes, mailboxes, launches and starts keep the two invariants.
-/

namespace Sys2Proof.Machine

set_option Elab.async false

variable {b : Bool} {s t : State} {k : Core}

/-! ## Shapes -/

theorem State.Inv.own (h : s.Inv b) {c x l} : (s.own c x l).Inv b := by
  unfold State.own
  exact h.upd

theorem Core.Inv.modShape (h : k.Inv b) {x f} : (k.modShape x f).Inv b := h.of_eq

theorem Core.Inv.setRecord (h : k.Inv b) {x y} : (k.setRecord x y).Inv b := by
  unfold Core.setRecord
  split
  · exact h.upd
  · exact h.modVis

theorem Core.Inv.foldl {α : Type} {f : Core → α → Core} (hf : ∀ (k : Core) (a : α), k.Inv b → (f k a).Inv b) (l : List α)
    (h : k.Inv b) : (l.foldl f k).Inv b := by
  induction l generalizing k with
  | nil => exact h
  | cons a r ih => exact ih (hf _ _ h)

theorem Goes.shapeAlloc (h : s.Inv b) {i a x} : Goes b (execShapeAlloc i a x s) := by
  unfold execShapeAlloc
  dsimp only
  split
  · exact .next h.illegal
  · exact .issued h (State.Inv.first (State.Inv.upd (h.modMe fun _ hk => hk.pend.setRecord).addCmd))

theorem Goes.reshapeWord (h : s.Inv b) {i x l a} : Goes b (reshapeWord i x l a s) := by
  unfold Machine.reshapeWord
  exact .issued h ((h.modMe fun _ hk => Core.Inv.foldl (fun _ _ hk => hk.setRecord) _ hk.pend).addCmd.holds.at_)

theorem Goes.shapeFree (h : s.Inv b) {i x} : Goes b (execShapeFree i x s) := by
  unfold execShapeFree
  split
  · exact .next h.illegal
  · exact .reshapeWord h

theorem Goes.shapeCut (h : s.Inv b) {i a x y} : Goes b (execShapeCut i a x y s) := by
  unfold execShapeCut
  exact .ite (.next h.illegal) (.reshapeWord h)

theorem Goes.shapeChain (h : s.Inv b) {i x y} : Goes b (execShapeChain i x y s) := by
  unfold execShapeChain
  split
  · exact .next h.illegal
  · exact .reshapeWord h

theorem Goes.cbset (h : s.Inv b) {i a d} : Goes b (execCbset i a d s) := by
  unfold execCbset
  split
  · exact .next h.raise
  · exact .issued h (h.modMe fun _ hk => hk.modVis)

theorem Goes.cbclr (h : s.Inv b) {i} : Goes b (execCbclr i s) := .issued h (h.modMe fun _ hk => hk.modVis)

theorem Goes.allocatorServe (h : s.Inv b) : Goes b (execAllocatorServe s) := by
  unfold execAllocatorServe
  dsimp only
  split
  · exact .next h
  · split
    · split
      · exact .next h.at_
      · exact .next (h.own.modCore fun _ hk => hk.modShape).reportCells.at_
    · exact .next h

theorem State.Inv.reshapeNow (h : s.Inv b) {c m} : (s.reshapeNow c m).Inv b := by
  unfold State.reshapeNow
  dsimp only
  split
  · exact h.own.modCore fun _ hk => hk.modShape.modShape
  · split
    · exact h
    · exact h.own.modCore fun _ hk => hk.modShape.modShape
  · exact h

theorem Goes.drainPoint (h : s.Inv b) : Goes b (execDrainPoint s) := by
  unfold execDrainPoint
  dsimp only
  split
  · exact .next h
  · split
    · exact .next h
    · exact .next (h.reshapeNow.modCore fun _ hk => hk.modCmd).at_.at_

theorem Goes.drainReport (h : s.Inv b) : Goes b (execDrainReport s) := .next (h.modCore fun _ hk => hk.release)

theorem Goes.cellsLive (h : s.Inv b) : Goes b (execCellsLive s) := by
  unfold execCellsLive
  dsimp only
  split
  · exact .next h.freeCells
  · split
    · exact .next h
    · refine .next (State.Inv.at_ ?_)
      split
      · exact h.freeCells.modCore fun _ hk => hk.modShape
      · exact h

theorem Goes.shapeReport (h : s.Inv b) : Goes b (execShapeReport s) := by
  unfold execShapeReport
  dsimp only
  split
  · exact .next h
  · split
    · split
      · exact .next (h.finishFail.modCore fun _ hk => hk.setRecord)
      · exact .next h
    · refine .next (h.finishDone.modCore fun k hk => ?_)
      split
      · exact hk.setRecord
      · exact hk.setRecord
      · exact hk.setRecord.setRecord
      · exact hk.setRecord.setRecord
      · exact hk

theorem Goes.freeCellReport (h : s.Inv b) : Goes b (execFreeCellReport s) := by
  unfold execFreeCellReport
  split
  · exact .next h.upd
  · exact .next h.upd

/-! ## Mailboxes -/

theorem State.Inv.modMail (h : s.Inv b) {c f} : (s.modMail c f).Inv b := by
  unfold State.modMail
  dsimp only
  split
  · exact State.Inv.msi h.upd
  · exact h.upd

theorem State.Inv.form (h : s.Inv b) {r} : (s.form r).Inv b := by
  unfold State.form
  dsimp only
  split
  · exact State.Inv.bump h.upd
  · exact h

theorem State.Inv.accept (h : s.Inv b) {c r} : (s.accept c r).Inv b := h.modMail

theorem Goes.mailboxPost (h : s.Inv b) : Goes b (execMailboxPost s) := by
  unfold execMailboxPost
  dsimp only
  split
  · split
    · exact .next h.accept.form
    · exact .next (.ite h.modMail.msi h.modMail)
  · exact .next h

theorem Goes.mailboxCancel (h : s.Inv b) : Goes b (execMailboxCancel s) := by
  unfold execMailboxCancel
  extract_lets c m u
  split
  · have hu : u.Inv b := State.Inv.foldl (fun _ _ hs => .ite hs.modMail hs) _ h
    clear_value u
    exact .next hu.upd
  · exact .next h

theorem Goes.klaunchComplete (h : s.Inv b) : Goes b (execKlaunchComplete s) := by
  unfold execKlaunchComplete
  dsimp only
  split
  · exact .next h
  · split
    · exact .next h.finishFail
    · exact .next (State.Inv.foldl (fun _ _ hs => hs.accept) _ h).form.finishDone

/-! ## Transfers -/

theorem Core.Inv.loadOverlay (h : k.Inv b) {x n} : (k.loadOverlay x n).Inv b := by
  unfold Core.loadOverlay
  exact h.less (hi := rising_foldl (fun _ _ hm => rising_sset hm) _)

theorem Core.Inv.loadTiles (h : k.Inv b) {x n} : (k.loadTiles x n).Inv b := by
  unfold Core.loadTiles
  refine .foldl (fun k r hk => hk.less (ht := rising_tileWrite) (hg := rising_tagWrite)) _ ?_
  exact h.less (ht := fun _ => List.Pairwise.nil) (hg := fun _ => List.Pairwise.nil)

theorem State.Inv.dropArgs (h : s.Inv b) {c cid a n} : (s.dropArgs c cid a n).Inv b :=
  State.Inv.foldl (fun _ _ hs => hs.cleanToHome.dropBlock.dropRdc) _ h

theorem State.Inv.loaderRecord (h : s.Inv b) {cid c x p} : (s.loaderRecord cid c x p).Inv b := h.record

theorem State.Inv.loadPins (h : s.Inv b) {c r} : (s.loadPins c r).1.Inv b := by
  unfold State.loadPins
  split
  next e =>
    have hp := h.probePages.of_fst e
    split
    · exact hp.loaderRecord
    · split
      · exact hp.pinAll
      · split
        · exact hp.loaderRecord
        · exact hp.memRecord.endCtx

theorem State.Inv.modRun (h : s.Inv b) {i f} : (s.modRun i f).Inv b := by
  unfold State.modRun
  exact h.upd

theorem State.Inv.loadCore (h : s.Inv b) {r c a} : (s.loadCore r c a).Inv b := by
  unfold State.loadCore
  dsimp only
  split
  · exact h
  · have hl {x n} : (s.modCore c fun k => (k.loadOverlay x n).loadTiles x n).Inv b :=
      h.modCore fun _ hk => hk.loadOverlay.loadTiles
    exact .ite hl.dropArgs hl

theorem State.Inv.pinMember (h : s.Inv b) {r c} : (s.pinMember r c).Inv b := by
  unfold State.pinMember
  split
  · next e => exact h.loadPins.of_fst e
  · next e =>
    have hp := h.loadPins.of_fst e
    exact .ite hp.modRun.modMail hp.modRun

theorem State.Inv.resident (h : s.Inv b) {i} : (s.resident i).Inv b := .ite h.later h

theorem Goes.launchSelect (h : s.Inv b) : Goes b (execLaunchSelect s) := by
  unfold execLaunchSelect
  split
  · exact .next h
  · next r _ =>
    extract_lets cs u v w
    have hu : u.Inv b := h.modRun
    have hv : v.Inv b := State.Inv.foldl
      (fun _ _ hs => .ite (hs.modCore fun _ hk => hk.upd).modMail (hs.modCore fun _ hk => hk.upd)) _ hu
    have hw : w.Inv b := State.Inv.foldl (fun _ _ hs => hs.loadCore) _ hv
    exact .next (State.Inv.foldl (fun _ _ hs => hs.pinMember) _ hw).resident

theorem Core.Inv.missHeld (h : k.Inv b) {n} : (k.missHeld n).Inv b := by
  unfold Core.missHeld
  split
  · exact h
  · exact h.raise

theorem Goes.mailboxResume (h : s.Inv b) : Goes b (execMailboxResume s) := by
  unfold execMailboxResume
  dsimp only
  split
  · exact .next (h.modCore fun _ hk => Core.Inv.missHeld hk.upd)
  · split
    · exact .next h
    · exact .next (State.Inv.ite h.modRun.modMail h.modRun).pinMember.resident

/-! ## Starts -/

/-- The core at reset has both. -/
theorem Core.inv_reset : Core.reset.Inv b := by
  cases b with
  | false => exact reset_core 0 ▸ (reset_tablesRise.2.2.2.2 0)
  | true => exact reset_lanesFull

/-- A core at a start has whole registers and the tables the transfers left (R295). -/
theorem Core.Inv.launchAt (h : k.Inv b) {c i r p n} : (k.launchAt c i r p n).Inv b := by
  cases b with
  | true => exact reset_lanesFull
  | false =>
    obtain ⟨hi, -, ht, hg, -⟩ := h
    exact ⟨hi, List.Pairwise.nil, ht, hg, List.Pairwise.nil⟩

theorem Core.Inv.setPstate (h : k.Inv b) {n} : (k.setPstate n).Inv b := h.modVis

theorem Core.Inv.setPreempt (h : k.Inv b) {n} : (k.setPreempt n).Inv b := by
  unfold Core.setPreempt
  exact (h.modVis).upd

theorem State.Inv.startFresh (h : s.Inv b) {c i r n} : (s.startFresh c i r n).Inv b := by
  unfold State.startFresh
  split
  · exact h
  · exact h.modCore fun _ hk => hk.launchAt

theorem State.Inv.startImage (h : s.Inv b) {c i r g x y n} : (s.startImage c i r g x y n).Inv b := by
  unfold State.startImage
  split
  · exact h
  · exact h.modCore fun _ hk => (hk.launchAt.setPstate).upd

theorem State.Inv.placeShapes (h : s.Inv b) {c l} (e : s.placeShapes c l = some t) : t.Inv b := by
  unfold State.placeShapes at e
  refine foldl_some (P := (State.Inv b ·)) (fun u g v hu e => ?_) l h e
  obtain ⟨o, -, rfl⟩ := Option.map_eq_some_iff.1 e
  exact hu.own.modCore fun _ hk => hk.modShape

theorem State.Inv.keepCounts (h : s.Inv b) {c i} : (s.keepCounts c i).Inv b := by
  unfold State.keepCounts
  exact .ite h h.modRun

theorem State.Inv.dropPending (h : s.Inv b) {c} : (s.dropPending c).Inv b := by
  unfold State.dropPending
  exact h.upd

theorem Goes.launchStart (h : s.Inv b) : Goes b (execLaunchStart s) := by
  unfold execLaunchStart
  split
  · exact .next h
  · next r _ =>
    dsimp only
    split
    · exact .next h.at_
    · next t e =>
      have ht : t.Inv b := by
        refine foldl_some (P := (State.Inv b ·)) (fun u c v hu e => ?_) _ h e
        split at e
        · cases e; exact hu
        · exact (hu.modCore fun _ hk => hk.upd).placeShapes e
      refine .next (State.Inv.modRun (State.Inv.foldl (fun u c hu => ?_) _ ht.chosen))
      have hq : (((u.keepCounts c r.id).dropSubs c).dropPending c).Inv b := hu.keepCounts.dropSubs.dropPending
      have hm := State.Inv.ite (p := r.kind = .launch) (hq.modMail (c := c) (f := fun m => { m with st := .empty })) hq
      split
      · exact hm.startImage
      · exact .ite (hm.startFresh.modCore fun _ hk => hk.setPstate) hm.startFresh

end Sys2Proof.Machine
end

section
/-!
SUPPORT. Register writes, loads and stores keep the two invariants.
-/

namespace Sys2Proof.Machine

set_option Elab.async false

variable {b : Bool} {s t : State} {k : Core}

/-! ## Registers of the package -/

theorem State.Inv.modRegs (h : s.Inv b) {f} : (s.modRegs f).Inv b := h.of_eq
theorem State.Inv.act (h : s.Inv b) {i l} : (s.act i l).Inv b := h.first

theorem State.Inv.writeTlctl (h : s.Inv b) {x} : (s.writeTlctl x).Inv b := by
  unfold State.writeTlctl
  exact .ite (State.Inv.upd h.modRegs) h.modRegs

theorem State.Inv.writePreq (h : s.Inv b) {x} : (s.writePreq x).Inv b := by
  unfold State.writePreq
  dsimp only
  split
  · exact h.act
  · exact h.act
  · exact h.act
  · exact h

theorem State.Inv.writeMail (h : s.Inv b) {c i x} : (s.writeMail c i x).Inv b := by
  have hp {m} : ({ s with mail := m } : State).Inv b := h.upd
  unfold State.writeMail
  dsimp only
  split
  · exact .ite hp h
  · split
    · exact h.act
    · exact hp.act
    · exact hp.act
    · exact .ite hp h
    · exact h

theorem State.Inv.writeQpctl (h : s.Inv b) {q x} : (s.writeQpctl q x).Inv b := by
  unfold State.writeQpctl
  exact .ite h.setQp (.ite (.ite h.act h) h.setQp)

theorem State.Inv.mgmtEnd (h : s.Inv b) {n} : (s.mgmtEnd n).Inv b := h.later

theorem State.Inv.writeMcmd (h : s.Inv b) {x} : (s.writeMcmd x).Inv b := by
  unfold State.writeMcmd
  dsimp only
  split
  · split
    · exact h.modRegs.modRegs.act
    · exact h.modRegs.modRegs.mgmtEnd
  · exact h.modRegs

theorem State.Inv.writeDrst (h : s.Inv b) {x} : (s.writeDrst x).Inv b := by
  unfold State.writeDrst
  exact .ite (.ite h h.modRegs.act) h.modRegs

theorem State.Inv.setCnt (h : s.Inv b) {n x} : (s.setCnt n x).Inv b := by
  unfold State.setCnt
  exact h.tables (hc := rising_sset)

theorem State.Inv.writeCntctl (h : s.Inv b) {n x} : (s.writeCntctl n x).Inv b := h.setCnt

theorem State.Inv.regWrite (h : s.Inv b) {o x} : (s.regWrite o x).Inv b := by
  unfold State.regWrite
  refine .ite h.modRegs (.ite h.modRegs (.ite h.modRegs (.ite h.modRegs (.ite h.modRegs (.ite h.modRegs ?_)))))
  refine .ite h.modRegs (.ite h.modRegs (.ite h.act (.ite h.writePreq (.ite h.modRegs (.ite h.act ?_)))))
  refine .ite h.modRegs (.ite h.modRegs (.ite h.modRegs (.ite h.modRegs (.ite h.modRegs (.ite h.writeTlctl ?_)))))
  refine .ite h.writeDrst (.ite h.modRegs (.ite h.writeMcmd (.ite h.modRegs (.ite h.writeMail (.ite h.writeQpctl ?_)))))
  exact .ite (.ite h h.setQp) (.ite h.writeCntctl (.ite h.setCnt (.ite h.vecControl h)))

theorem Goes.registerWrite (h : s.Inv b) : Goes b (execRegisterWrite s) := by
  unfold execRegisterWrite
  exact .next (.ite h.regWrite h)

theorem getElem_vmap {α β : Type} {n : Nat} (f : α → β) (v : Vector α n) (i : Fin n) : (vmap f v)[i] = f v[i] := by
  simp [vmap]

/-- A change of every core that keeps the core's part, and of no dirty bitmap. -/
theorem State.Inv.each (h : s.Inv b) {f : Core → Core} (hf : ∀ k : Core, k.Inv b → (f k).Inv b)
    (hm : ∀ d : Fin 4, t.mtu[d].dirty = s.mtu[d].dirty) (hk : t.cores = vmap f s.cores)
    (hq : t.qps = s.qps := by with_reducible rfl) (hc : t.cnts = s.cnts := by with_reducible rfl)
    (hi : t.images = s.images := by with_reducible rfl) : t.Inv b := by
  refine ⟨fun c => ?_, fun e => ?_⟩
  · unfold State.core
    rw [hk, getElem_vmap]
    exact hf _ (h.core c)
  · obtain ⟨q, n, i, d⟩ := h.2 e
    exact ⟨hq ▸ q, hc ▸ n, hi ▸ i, fun j => hm j ▸ d j⟩

theorem Goes.tinv (h : s.Inv b) : Goes b (execTinv s) := by
  unfold execTinv
  refine .ite (.next h) (.ite (.next h) (.ite (.next h.modRegs) (.next (State.Inv.later (State.Inv.modRegs ?_)))))
  refine h.each (fun k hk => ?_) (fun d => ?_) (by with_reducible rfl)
  · split
    · exact hk.upd
    · exact hk
  · dsimp only
    rw [getElem_vmap]

theorem Goes.tinvComplete (h : s.Inv b) : Goes b (execTinvComplete s) := by
  unfold execTinvComplete
  exact .ite (.next h.at_) (.next h.modRegs)

theorem Goes.dbfc (h : s.Inv b) : Goes b (execDbfc s) := by
  unfold execDbfc
  refine .next (State.Inv.modRegs (h.modMtu fun m hm => ?_))
  dsimp only
  exact rising_sset hm

theorem Goes.qpctlOpen (h : s.Inv b) : Goes b (execQpctlOpen s) := by
  unfold execQpctlOpen
  exact .ite (.next h) (.next h.setQp)

/-! ## Accesses -/

theorem State.Inv.access (h : s.Inv b) (ht : t.Inv b) {l} : (s.access l t).Inv b := by
  unfold State.access
  refine .ite h.illegal (.ite h.endCtx (.ite h ?_))
  split
  · exact h.raiseAt
  · exact ht

theorem State.Inv.issuedFrom (h : s.Inv b) (ht : t.Inv b) : (s.issuedFrom t).Inv b := by
  unfold State.issuedFrom
  split
  · exact ht.settle
  · exact h.illegal

/-! ## Loads -/

theorem State.Inv.readAll (h : s.Inv b) {l} : (s.readAll l).1.Inv b := by
  unfold State.readAll
  refine State.Inv.foldl_fst (fun x p hx => ?_) _ h
  obtain ⟨u, y | e, ls⟩ := x
  · dsimp only
    split
    · next e => exact State.Inv.loadBytes (s := u) hx |>.of_fst e
    · next e => exact State.Inv.loadBytes (s := u) hx |>.of_fst e
  · exact hx

/-- What holds of a fold's state and the number of items taken. -/
theorem foldl_count {α β : Type} {f : β → α → β} {P : β → Nat → Prop} (hf : ∀ x a n, P x n → P (f x a) (n + 1)) (l : List α)
    {x : β} {n : Nat} (h : P x n) : P (l.foldl f x) (n + l.length) := by
  induction l generalizing x n with
  | nil => exact h
  | cons a r ih =>
    rw [List.length_cons, Nat.add_comm r.length, ← Nat.add_assoc]
    exact ih (hf _ _ _ h)

/-- A read binds one value for each range. -/
theorem State.readAll_length {l : List (Nat × Nat)} {vs w} (e : s.readAll l = (t, .inl vs, w)) : vs.length = l.length := by
  have H : ∀ vs, (s.readAll l).2.1 = .inl vs → vs.length = 0 + l.length := by
    unfold State.readAll
    refine foldl_count (P := fun (x : State × (List Nat ⊕ (Nat × Nat)) × List (Nat × Level)) n => ∀ vs, x.2.1 = .inl vs → vs.length = n) (fun x p n hx => ?_) l
      fun vs e => by cases e; rfl
    obtain ⟨u, y | e, ls⟩ := x
    · dsimp only
      split
      · intro vs hv
        cases hv
        simp [hx y rfl]
      · intro vs hv
        cases hv
    · intro vs hv
      cases hv
  rw [e, Nat.zero_add] at H
  exact H vs rfl

theorem State.Inv.loadInject (h : s.Inv b) {c l} : (s.loadInject c l).1.Inv b := by
  unfold State.loadInject
  dsimp only
  split
  · split
    · have hd : (s.modCore c Core.disarm).Inv b := h.modCore fun _ hk => hk.disarm
      split
      · exact hd.correctable
      · exact hd.uncorrectable
    · exact h
  · exact h

/-- The value on its way to a vector register is whole (R14). -/
def LoadVal.whole (v : LoadVal) : Prop := ∀ r x, v = .v r x → Full x

theorem whole_g {r x} : (LoadVal.g r x).whole := fun _ _ e => by cases e

theorem whole_v {r x} (h : Full x) : (LoadVal.v r x).whole := fun _ _ e => by cases e; exact h

theorem length_natWords (n x : Nat) : (natWords x n).length = n := by
  induction n generalizing x with
  | zero => rfl
  | succ n ih => simp [natWords, ih]

theorem full_vecOf {x : Nat} : Full (vecOf x) := full_rof (length_natWords 6144 x)

/-- A core takes one more load, of a whole value. -/
theorem Core.Inv.addLoad (h : k.Inv b) {n v m} (hv : b = true → v.whole) :
    ({ k with loads := k.loads ++ [⟨n, v, m⟩] } : Core).Inv b := by
  cases b with
  | false => exact h
  | true =>
    obtain ⟨fv, fm, fl, fx⟩ := h
    refine ⟨fv, fm, fun l hl => ?_, fx⟩
    rcases List.mem_append.1 hl with hl | hl
    · exact fl l hl
    · rw [List.mem_singleton.1 hl]; exact hv rfl

theorem State.Inv.bindLoad (h : s.Inv b) {v w} (hv : b = true → v.whole) : (t.bindLoad s v w).Inv b := by
  unfold State.bindLoad
  extract_lets c lines pages bound
  split
  next e =>
    have hi := h.loadInject.of_fst e
    exact .ite hi (hi.modMe fun _ hk => hk.addLoad hv).bump.within

/-- A load word that binds whole values. -/
theorem Goes.loadWord (h : s.Inv b) {i l val f} (hv : b = true → ∀ vs, vs.length = l.length → (val vs).whole)
    (hf : ∀ u : State, u.Inv b → (f u).Inv b) : Goes b (loadWord i l val f s) := by
  unfold Machine.loadWord
  refine .next (h.access (.ite h ?_))
  split
  · exact h.raiseAt
  · next e => exact h.issuedFrom (hf _ ((h.readAll.of_fst e).bindLoad fun hb => hv hb _ (State.readAll_length e)))

theorem Goes.ld (h : s.Inv b) {v a e} : Goes b (execLd v a e s) := by
  unfold execLd
  exact .ite (.next h.illegal) (.loadWord h (fun _ _ _ => whole_v full_vecOf) fun _ hu => hu)

theorem length_strideRows (x : Dword) (p : Int) : (strideRows x p).length = 48 := by simp [strideRows]

/-- A whole index register has an address for every element. -/
theorem length_elemAddrs (x y : Dword) {v : Runs Word} (h : Full v) : (elemAddrs x y v).length = 6144 := by
  simpa [elemAddrs] using h.take

theorem Goes.ldgStride (h : s.Inv b) {v a x} : Goes b (execLdgStride v a x s) := by
  unfold execLdgStride
  refine .ite (.next h.illegal) (.loadWord h (fun _ vs hl => whole_v (full_rof ?_)) fun _ hu => hu)
  rw [List.length_map, length_strideRows] at hl
  rw [List.length_flatten, List.map_map, show List.length ∘ (fun y => natWords y 128) = fun _ => 128 from
    funext fun y => length_natWords 128 y, List.map_const', List.sum_replicate, hl]
  rfl

theorem Goes.ldgGather (h : s.Inv b) {v a x j} : Goes b (execLdgGather v a x j s) := by
  unfold execLdgGather
  refine .ite (.next h.illegal) (.loadWord h (fun hb vs hl => whole_v (full_rof ?_)) fun _ hu => hu)
  subst hb
  rw [List.length_reverse, ← length_elemAddrs (s.la a) (s.rg x) (h.me.1 j)]
  have H := foldl_count (P := fun (x : List Word × List Nat) n => x.1.length = n) (f := fun acc (o : Option Nat) =>
      match o with
      | none => ((0 : Word) :: acc.1, acc.2)
      | some _ => (BitVec.ofNat 32 (acc.2.headD 0) :: acc.1, acc.2.tail)) (fun x o n hx => ?_)
    (elemAddrs (s.la a) (s.rg x) s.me.v[j]) (x := ([], vs)) (n := 0) rfl
  · rwa [Nat.zero_add] at H
  · cases o <;> simp [hx]

theorem State.Inv.enterLda (h : s.Inv b) {n a} : (enterLda n a s).Inv b := h.meQuiet

theorem Core.Inv.dropLda (h : k.Inv b) {z a n} : (k.dropLda z a n).Inv b := by
  unfold Core.dropLda
  exact h.upd

theorem Goes.lda (h : s.Inv b) {v a x n} : Goes b (execLda v a x n s) := by
  unfold execLda
  exact .ite (.next h.illegal) (.loadWord h (fun _ _ _ => whole_v full_vecOf) fun _ hu => hu.enterLda)

theorem Goes.chka (h : s.Inv b) {v a x n} : Goes b (execChka v a x n s) := by
  unfold execChka
  exact .ite (.issued h h)
    (.ite (.next h.illegal) (.loadWord h (fun _ _ _ => whole_v full_vecOf) fun _ hu => hu.enterLda))

theorem Goes.scalarLoad (h : s.Inv b) {i g z a} : Goes b (scalarLoad i g z a s) := by
  unfold Machine.scalarLoad
  exact .ite (.next h.illegal) (.loadWord h (fun _ _ _ => whole_g) fun _ hu => hu)

/-- A load's landing writes a whole value and leaves fewer loads (R16). -/
theorem Core.Inv.land (h : k.Inv b) {l : Load} (hl : l ∈ k.loads) {p : Load → Bool} :
    (match l.val with
      | .g r x => ({ k with loads := k.loads.filter p } : Core).modVis (·.wg r x)
      | .v r x => { k with loads := k.loads.filter p, v := k.v.set r x }).Inv b := by
  have hp : ({ k with loads := k.loads.filter p } : Core).Inv b := h.less (hl := fun _ hx => List.mem_of_mem_filter hx)
  split
  · exact hp.modVis
  · next r x e =>
    cases b with
    | false => exact h
    | true =>
      obtain ⟨fv, fm, fl, fx⟩ := hp
      refine ⟨fun q => ?_, fm, fl, fx⟩
      by_cases hq : r.val = q.val
      · simpa [hq] using h.2.2.1 l hl r x e
      · simpa [hq] using fv q

theorem Goes.loadLands (h : s.Inv b) : Goes b (execLoadLands s) := by
  unfold execLoadLands
  dsimp only
  split
  · exact .next h
  · next l e =>
    have hl := List.mem_of_find?_eq_some e
    exact .next (h.setCore ((h.core _).land hl))

theorem Goes.laSet (h : s.Inv b) {a g} : Goes b (execLaSet a g s) := .issued h h.meQuiet
theorem Goes.laAdd (h : s.Inv b) {a e} : Goes b (execLaAdd a e s) := .issued h h.meQuiet
theorem Goes.laAddg (h : s.Inv b) {a g} : Goes b (execLaAddg a g s) := .issued h h.meQuiet

theorem State.Inv.fetchBlock (h : s.Inv b) {c cid a n} : (s.fetchBlock c cid a n).1.Inv b := by
  unfold State.fetchBlock
  refine State.Inv.foldl_fst (fun x p hx => ?_) _ h
  obtain ⟨u, y | e⟩ := x
  · dsimp only
    split
    · exact hx
    · split
      · next e => exact State.Inv.belowLine (s := u) hx |>.of_fst e
      · next e => exact State.Inv.belowLine (s := u) hx |>.of_fst e
  · exact hx

theorem Goes.ldb (h : s.Inv b) {a k n} : Goes b (execLdb a k n s) := by
  unfold execLdb
  dsimp only
  refine .ite (.next h.illegal) (.next (h.access (.ite h ?_)))
  split
  · exact h.raiseAt
  · next e =>
    have hb := (State.Inv.foldl (fun _ _ hs => hs.evictBlock) _ h).fetchBlock.of_fst e
    exact h.issuedFrom (State.Inv.within (State.Inv.addCmd (State.Inv.foldl (fun _ _ hs => hs.makeRoom) _
      (hb.modMe fun _ hk => hk.pend.upd))))

theorem Core.Inv.endFill (h : k.Inv b) {n} : (k.endFill n).Inv b := by
  unfold Core.endFill
  exact h.upd

theorem Goes.ldbFillDone (h : s.Inv b) : Goes b (execLdbFillDone s) := by
  unfold execLdbFillDone
  dsimp only
  split
  · exact .next h
  · have he {n} : (s.modCore s.ev.core (·.endFill n)).Inv b := h.modCore fun _ hk => hk.endFill
    exact .next (State.Inv.ite he (State.Inv.foldl (fun _ _ hs => hs.putBlock) _ he)).finishDone

theorem Goes.ltv (h : s.Inv b) {v a x g} : Goes b (execLtv v a x g s) := by
  unfold execLtv
  exact .ite (.next h.illegal) (.ite (.next h.raise)
    (.issued h (h.modMe fun _ hk => hk.addLoad fun _ => whole_v full_vecOf).bump.within))

theorem State.Inv.syncWord (h : s.Inv b) {m} : (s.syncWord m).Inv b := by
  unfold State.syncWord
  exact (h.modMe fun _ hk => hk.upd).bump.holds

theorem Goes.ldacq (h : s.Inv b) {a g sc r q} : Goes b (execLdacq a g sc r q s) := by
  unfold execLdacq
  refine .ite (.next h.illegal) (.next (h.access (.ite h (h.issued ?_))))
  exact (State.Inv.ite (h.modMe fun _ hk => hk.dropLda) h).syncWord.unbounded

theorem State.Inv.acquireLine (h : s.Inv b) {c cid sc l} : (s.acquireLine c cid sc l).Inv b := by
  unfold State.acquireLine
  split
  · exact h
  · exact h.cleanBlock.dropBlock
  · exact h.cleanBlock.dropBlock
  · exact h.cleanToHome.dropBlock.dropRdc
  · exact h.cleanToHome.dropBlock.dropRdc

theorem State.Inv.readFlag (h : s.Inv b) {c cid sc a} : (s.readFlag c cid sc a).1.Inv b := by
  have hm : (match sc with
      | .core => s.loadLine c cid (lineOf a) (spanMask (a % 128) 8) false
      | .group | .zenith => s.belowLine c cid (lineOf a) (spanMask (a % 128) 8)
      | .package | .system => s.homeLine cid (lineOf a) (spanMask (a % 128) 8)).1.Inv b := by
    split
    · exact h.loadLine
    · exact h.belowLine
    · exact h.belowLine
    · exact h.homeLine
    · exact h.homeLine
  unfold State.readFlag
  dsimp only
  split
  · exact h.engineRead
  · split
    · next e => exact hm.of_fst e
    · next e => exact hm.of_fst e

theorem State.Inv.syncDone (h : s.Inv b) {c m} : (s.syncDone c m).Inv b := by
  unfold State.syncDone
  exact h.modCore fun _ hk => (hk.upd).release

theorem Goes.ldacqComplete (h : s.Inv b) : Goes b (execLdacqComplete s) := by
  unfold execLdacqComplete
  refine .served h fun u hu => ?_
  dsimp only
  split
  · exact .next hu
  · split
    · have hl {l cid sc x y} : (((List.foldl (fun s la => State.acquireLine s u.ev.core cid sc la) u l).acquireLine
          u.ev.core cid sc x).loadInject u.ev.core y).1.Inv b :=
        (State.Inv.foldl (fun _ _ hs => hs.acquireLine) _ hu).acquireLine.loadInject
      split
      · next e =>
        have hr := State.Inv.of_fst (State.Inv.readFlag hl) e
        exact .ite (.next hr) (.next (hr.syncDone.modCore fun _ hk => hk.modVis))
      · next e => exact .next (State.Inv.of_fst (State.Inv.readFlag hl) e).accessEnd
    · exact .next hu

theorem Goes.markWord (h : s.Inv b) {l} : Goes b (markWord l s) := .issued h h.meQuiet.holds

theorem Core.Inv.passMarks (h : k.Inv b) {n} : (k.passMarks n).Inv b := by
  unfold Core.passMarks
  split
  · exact h.release.release
  · exact h

theorem Goes.verchk (h : s.Inv b) {a g} : Goes b (execVerchk a g s) := by
  unfold execVerchk
  exact .ite (.next h.illegal) (.next (h.access (.ite h h.syncWord.unbounded)))

theorem Goes.verchkComplete (h : s.Inv b) : Goes b (execVerchkComplete s) := by
  unfold execVerchkComplete
  refine .served h fun u hu => ?_
  dsimp only
  split
  · exact .next hu
  · split
    · next e => exact .next (hu.acquireLine.engineRead.of_fst e).accessEnd
    · next m _ _ t x e =>
      have hd : ((t.syncDone u.ev.core m).turnTo u.ev.core .l).Inv b := (hu.acquireLine.engineRead.of_fst e).syncDone.turnTo
      exact .ite (.issued hd hd) (.next (hd.modCore fun _ hk => hk.raise))

/-! ## Stores -/

theorem Goes.waSet (h : s.Inv b) {a g} : Goes b (execWaSet a g s) := .issued h h.meQuiet
theorem Goes.waAdd (h : s.Inv b) {a e} : Goes b (execWaAdd a e s) := .issued h h.meQuiet
theorem Goes.waAddg (h : s.Inv b) {a g} : Goes b (execWaAddg a g s) := .issued h h.meQuiet

theorem State.Inv.storePiece (h : s.Inv b) {a n x} : (s.storePiece a n x).Inv b := by
  unfold State.storePiece
  exact State.Inv.foldl (fun _ _ hs => .ite (hs.modMe fun _ hk => hk.upd).bump.unbounded hs.storeBytes) _ h

theorem Goes.storeWord (h : s.Inv b) {i l} : Goes b (storeWord i l s) := by
  unfold Machine.storeWord
  exact .next (h.access (.ite h (h.issued
    (State.Inv.foldl (fun _ _ hs => hs.storePiece.modMe fun _ hk => hk.dropLda) _ h))))

theorem Goes.st (h : s.Inv b) {v a e} : Goes b (execSt v a e s) := .ite (.next h.illegal) (.storeWord h)
theorem Goes.stxStride (h : s.Inv b) {v a x} : Goes b (execStxStride v a x s) := .ite (.next h.illegal) (.storeWord h)
theorem Goes.stxScatter (h : s.Inv b) {v a x j} : Goes b (execStxScatter v a x j s) := .ite (.next h.illegal) (.storeWord h)
theorem Goes.scalarStore (h : s.Inv b) {i g z a} : Goes b (scalarStore i g z a s) := .ite (.next h.illegal) (.storeWord h)

theorem State.Inv.performStore (h : s.Inv b) {c u} : (s.performStore c u).1.Inv b := by
  have hd : (s.modCore c fun k => { k with ustores := k.ustores.filter (·.id != u.id) }).Inv b := h.modCore fun _ hk => hk.upd
  unfold State.performStore
  dsimp only
  split
  · next e => exact (hd.xlate.of_fst e).upd
  · next e => exact hd.xlate.of_fst e

theorem Goes.uncachedStorePerformed (h : s.Inv b) : Goes b (execUncachedStorePerformed s) := by
  unfold execUncachedStorePerformed
  dsimp only
  split
  · exact .next h
  · refine .ite (.next h.at_) ?_
    split
    · next e => exact .next (h.performStore.of_fst e)
    · next e => exact .next (h.performStore.of_fst e).accessEnd

theorem Goes.stt (h : s.Inv b) {v a x g} : Goes b (execStt v a x g s) := by
  unfold execStt
  exact .ite (.next h.illegal) (.ite (.next h) (.issued h (h.modMe fun _ hk => hk.upd).bump.within))

theorem Goes.sttComplete (h : s.Inv b) : Goes b (execSttComplete s) := by
  unfold execSttComplete
  dsimp only
  split
  · exact .next h
  · refine .next (h.modCore fun k hk => ?_)
    refine hk.less (ht := fun ht => rising_tileWrite ht) (hg := fun hg => ?_)
    dsimp only
    split
    · exact rising_tagWrite hg
    · exact hg

theorem Goes.strel (h : s.Inv b) {a g sc r q} : Goes b (execStrel a g sc r q s) := by
  unfold execStrel
  refine .ite (.next h.illegal) (.next (h.access (.ite h (h.issued ?_))))
  exact (h.modMe fun _ hk => hk.dropLda.dropLda).syncWord.unbounded

theorem State.Inv.releaseLine (h : s.Inv b) {c cid sc x l} : (s.releaseLine c cid sc x l).Inv b := by
  unfold State.releaseLine
  split
  · exact h
  · exact h.cleanBlock
  · exact h.cleanBlock
  · exact h.cleanToHome
  · exact h.cleanToHome.checkLine

theorem State.Inv.releaseFlag (h : s.Inv b) {c cid sc a x n} : (s.releaseFlag c cid sc a x n).Inv b := by
  unfold State.releaseFlag
  dsimp only
  split
  · exact h.storeBytes
  · exact h.putRdc.modCore fun _ hk => hk.upd
  · exact h.putRdc.modCore fun _ hk => hk.upd
  · split
    · exact (h.homeWrite.setRdc.modCore fun _ hk => hk.upd).checkLine
    · exact h.homeWrite.setRdc.modCore fun _ hk => hk.upd
  · split
    · exact (h.homeWrite.setRdc.modCore fun _ hk => hk.upd).checkLine
    · exact h.homeWrite.setRdc.modCore fun _ hk => hk.upd

theorem Goes.strelComplete (h : s.Inv b) : Goes b (execStrelComplete s) := by
  unfold execStrelComplete
  refine .served h fun u hu => ?_
  dsimp only
  split
  · exact .next hu
  · split
    · refine .ite (.next hu.at_) ?_
      have hr {c cid sc x l} : (List.foldl (fun s la => State.releaseLine s c cid sc x la) u l).Inv b :=
        State.Inv.foldl (fun _ _ hs => hs.releaseLine) _ hu
      split
      · split
        · next e => exact .next (hr.engineWrite.of_fst e).syncDone
        · next e => exact .next (hr.engineWrite.of_fst e).accessEnd
      · exact .next hr.releaseFlag.syncDone
    · exact .next hu

theorem Goes.fence (h : s.Inv b) {sc} : Goes b (execFence sc s) := .ite (.next h) (.issued h h)

theorem Goes.cmoWord (h : s.Inv b) {i a g k v} : Goes b (cmoWord i a g k v s) := by
  unfold Machine.cmoWord
  refine .ite (.next h.illegal) (.next (h.access (.ite h (.ite (h.issued (h.modMe fun _ hk => hk.done)) (h.issued ?_)))))
  refine State.Inv.unbounded (State.Inv.addCmd (h.modMe fun _ hk => ?_))
  split
  · exact hk.pend.dropLda
  · exact hk.pend

theorem State.Inv.cleanLine (h : s.Inv b) {c cid v l} : (s.cleanLine c cid v l).Inv b := by
  unfold State.cleanLine
  split
  · exact h.cleanBlock
  · exact h.cleanToHome
  · exact h.cleanToHome.cleanHome

theorem State.Inv.invLine (h : s.Inv b) {c cid v l} : (s.invLine c cid v l).Inv b := by
  unfold State.invLine
  dsimp only
  split
  · exact h.dropBlock
  · exact h.dropBlock.cleanRdc.dropRdc
  · exact h.dropBlock.cleanRdc.dropRdc.cleanHome.upd

theorem State.Inv.dropBlocks (h : s.Inv b) {c cid v l n} : (s.dropBlocks c cid v l n).Inv b := by
  unfold State.dropBlocks
  refine State.Inv.foldl (fun u x hu => ?_) _ h
  exact (State.Inv.foldl (fun _ _ hs => .ite hs hs.cleanLine.dropBlock) _ hu).modCore fun _ hk => hk.upd

theorem Goes.cmoComplete (h : s.Inv b) : Goes b (execCmoComplete s) := by
  unfold execCmoComplete
  dsimp only
  split
  · exact .next h
  · refine .ite (.next h.at_) ?_
    have fin {u : State} (hu : u.Inv b) {p : Prop} [Decidable p] {c m} : Goes b (.next (if p then u else u.finishDone c m)) :=
      .next (.ite hu hu.finishDone)
    split
    · exact fin (State.Inv.foldl (fun _ _ hs => hs.cleanLine) _ h)
    · exact fin (State.Inv.foldl (fun _ _ hs => hs.invLine) _ h.dropBlocks)
    · exact fin (State.Inv.foldl (fun _ _ hs => hs.cleanLine.invLine) _ h.dropBlocks)
    · exact .next h

theorem Goes.amoWord (h : s.Inv b) {i a x d k} : Goes b (amoWord i a x d k s) := by
  unfold Machine.amoWord
  refine .ite (.next h.illegal) (.next (h.access (.ite h (h.issued ?_))))
  exact (h.modMe fun _ hk => hk.pend.dropLda).addCmd.unbounded

theorem Goes.amoPerformed (h : s.Inv b) : Goes b (execAmoPerformed s) := by
  unfold execAmoPerformed
  refine .served h fun u hu => ?_
  dsimp only
  split
  · exact .next hu
  · split
    · exact .next hu
    · refine .ite (.next hu.at_) ?_
      split
      · next e => exact .next (hu.acquireLine.atomic.of_fst e).finishDone
      · next e => exact .next (hu.acquireLine.atomic.of_fst e).finishFail
      · next e => exact .next (hu.acquireLine.atomic.of_fst e).accessEnd

theorem Goes.blockCacheEviction (h : s.Inv b) : Goes b (execBlockCacheEviction s) := .ite (.next h) (.next h.evictLine)

theorem Goes.rdcEviction (h : s.Inv b) : Goes b (execRdcEviction s) := .next h.cleanRdc.dropRdc

theorem Goes.homeEviction (h : s.Inv b) : Goes b (execHomeEviction s) := .next h.evictHome

end Sys2Proof.Machine
end

section
/-!
SUPPORT. Traps, pre-emption, replay, the end of a context, resets, links and management keep the two invariants.
-/

namespace Sys2Proof.Machine

set_option Elab.async false

variable {b : Bool} {s t : State} {k : Core}

/-! ## Traps and the return -/

theorem State.Inv.faultRecord (h : s.Inv b) {c r} : (s.faultRecord c r).Inv b := .ite h.memRecord h

theorem State.Inv.takeTrap (h : s.Inv b) {c} : (s.takeTrap c).Inv b := by
  unfold State.takeTrap
  dsimp only
  split
  · exact h
  · have ht {r} : (s.modCore c fun k => (k.stopAtCut r).halt).Inv b := h.modCore fun _ hk => hk.stopAtCut.halt
    refine .ite h (.ite (h.modCore fun _ hk => hk.upd) (.ite ht.faultRecord.endCtx
      (.ite (ht.faultRecord.modCore fun _ hk => hk.noteCause).endCtx (State.Inv.ite ?_
        (.ite (h.modCore fun _ hk => hk.enterHandler) ht.faultRecord.endCtx)))))
    split
    · exact ht.later
    · exact ht

theorem Goes.illegalEncoding (h : s.Inv b) : Goes b (execIllegalEncoding s) := .next h.raise

theorem Goes.rettResume (h : s.Inv b) : Goes b (execRettResume s) := by
  unfold execRettResume
  refine .ite (.next h) (.next (State.Inv.modCore (State.Inv.modCore (.ite h h.freeCells) fun _ hk => hk.upd) fun _ hk => ?_))
  exact hk.leaveHandler.missHeld

/-! ## Replay points and pre-emption -/

/- The image is 409600 bytes. The kernel, told to compare two forms of the match on their write, would run it piece by piece: so
the definition is opened as a function, under an equation, and the write is made a variable before anything else. -/

theorem State.Inv.writeImage (h : s.Inv b) {c} : (s.writeImage c).1.Inv b := by
  suffices H : ∀ r, s.writeImage c = r → r.1.Inv b from H _ rfl
  intro r hr
  generalize e : @State.writeImage = f at hr
  delta State.writeImage at e
  subst e
  beta_reduce at hr
  extract_lets k at hr
  generalize hx : s.engineWrite _ _ _ _ _ = x at hr
  have hw : x.1.Inv b := hx ▸ h.engineWrite
  obtain ⟨t, y | e⟩ := x
  · subst hr
    exact hw.useFree
  · subst hr
    exact hw.useFree

theorem Core.Inv.goOn (h : k.Inv b) {n} : (k.goOn n).Inv b := by
  unfold Core.goOn
  exact h.upd

theorem Core.Inv.ite {p : Prop} [Decidable p] {l : Core} (h : k.Inv b) (h' : l.Inv b) : (if p then k else l).Inv b := by
  split <;> assumption

/-- What follows the image of a replay point. -/
theorem Goes.replayImage {e : Option (Nat × Nat)} {y : Byte} {c : Fin 64} {n : Nat} {pc : BitVec 16} (h : t.Inv b) :
    Goes b (match (t, e) with
      | (t, some (a, cause)) => .next ((t.modCore c Core.halt).accessEnd c .c 0 pc a cause)
      | (t, none) =>
        let t := t.modCore c fun k =>
          ({ (if k.vis.csr.pstate = 3 then k.setPstate 0 else k) with replay := some (k.imageAt y) }).goOn n
        .next (match t.runOf c with
          | none => t
          | some r => t.modRun r.id fun x => { x with retry := 0 })) := by
  cases e with
  | some p => exact .next (h.modCore fun _ hk => hk.halt).accessEnd
  | none =>
    have hg : ∀ k : Core, k.Inv b →
        (({ (if k.vis.csr.pstate = 3 then k.setPstate 0 else k) with replay := some (k.imageAt y) } : Core).goOn n).Inv b :=
      fun k hk => ((Core.Inv.ite hk.setPstate hk).upd).goOn
    dsimp only
    split
    · exact .next (h.modCore hg)
    · exact .next (h.modCore hg).modRun

theorem Goes.replayPoint (h : s.Inv b) : Goes b (execReplayPoint s) := by
  unfold execReplayPoint
  extract_lets c k
  have hw := h.writeImage (c := c)
  generalize s.writeImage c = x at hw ⊢
  generalize k.yieldHeld = o
  cases o with
  | none => exact .next h
  | some y =>
    obtain ⟨t, e⟩ := x
    exact .ite (.next h) (.ite (.next (h.modCore fun _ hk => hk.goOn)) (.replayImage hw))

theorem Goes.preemptionPoint (h : s.Inv b) : Goes b (execPreemptionPoint s) := by
  suffices H : ∀ o, execPreemptionPoint s = o → Goes b o from H _ rfl
  intro o ho
  generalize e : @execPreemptionPoint = f at ho
  delta execPreemptionPoint at e
  subst e
  beta_reduce at ho
  extract_lets +onlyGivenNames c k at ho
  have hw := h.writeImage (c := c)
  generalize s.writeImage c = x at hw ho
  generalize k.preemptAt = y at ho
  subst ho
  cases y with
  | none => exact .next h
  | some y =>
    obtain ⟨t, e⟩ := x
    cases e with
    | some p => exact .next (hw.modCore fun _ hk => hk.halt).memRecord.endCtxNote
    | none =>
      refine .next (hw.modCore fun k hk => ?_)
      have hp : (k.setPstate 2).Inv b := hk.setPstate
      generalize k.setPstate 2 = q at hp ⊢
      have hg := (hp.upd (l := { q with replay := some (q.imageAt y), phase := .saving y, deadln := none })).goOn (n := s.zc + 1)
      exact hg.upd

theorem Goes.saveComplete (h : s.Inv b) : Goes b (execSaveComplete s) := by
  unfold execSaveComplete
  extract_lets c k u v w
  have hu : u.Inv b := by
    unfold u
    split
    · exact h
    · exact h.modRun
  have hv : v.Inv b := hu.freeCells
  have hw : w.Inv b := hv.modCore fun _ hk => (hk.setPreempt.halt).upd
  clear_value w
  exact .ite (.next h) (.next (hw.modCore fun _ hk => hk.modVis).closeRuns)

theorem Goes.preqReq (h : s.Inv b) : Goes b (execPreqReq s) := by
  unfold execPreqReq
  refine .next (State.Inv.at_ (State.Inv.foldl (fun u c hu => ?_) _ h))
  exact .ite (hu.modCore fun _ hk => (hk.modVis).upd) hu

theorem Goes.preemptDeadline (h : s.Inv b) : Goes b (execPreemptDeadline s) := by
  unfold execPreemptDeadline
  refine .ite (.next h) (.next (State.Inv.prst (State.Inv.foldl (fun u c hu => ?_) _ h)))
  refine hu.modCore fun k hk => ?_
  have hq : (if k.vis.csr.req then k.setPreempt 0 else { k with deadln := none }).Inv b := .ite hk.setPreempt hk.upd
  generalize (if k.vis.csr.req then k.setPreempt 0 else { k with deadln := none }) = q at hq ⊢
  exact hq.upd

theorem Goes.preqRes (h : s.Inv b) : Goes b (execPreqRes s) := by
  unfold execPreqRes
  exact .next h.upd

theorem Goes.preqEnd (h : s.Inv b) : Goes b (execPreqEnd s) := .next h.endCtx

theorem Core.Inv.reload (h : k.Inv b) {g n} : (k.reload g n).Inv b := by
  unfold Core.reload
  exact h.upd

theorem Goes.restoreComplete (h : s.Inv b) : Goes b (execRestoreComplete s) := by
  unfold execRestoreComplete
  dsimp only
  split
  · exact .next h
  · next g replay _ =>
    have hr : (s.modCore s.ev.core fun k => k.reload g (s.zc + 1)).Inv b := h.modCore fun _ hk => hk.reload
    exact .next (State.Inv.ite (State.Inv.ite hr hr.psubWritten) (State.Inv.ite hr hr.psubWritten).prst)

/-! ## Replay -/

theorem Core.Inv.stopForReplay (h : k.Inv b) {n} : (k.stopForReplay n).Inv b := by
  unfold Core.stopForReplay
  exact ((Core.Inv.ite h.cutHere h).halt).upd

theorem State.Inv.reloadMember (h : s.Inv b) {r c} : (s.reloadMember r c).Inv b := by
  unfold State.reloadMember
  dsimp only
  split
  · exact h.freeCells.dropPending.loadCore
  · exact h.freeCells.dropPending.loadCore.pinMember

theorem Goes.replayRestart (h : s.Inv b) : Goes b (execReplayRestart s) := by
  unfold execReplayRestart
  dsimp only
  split
  · exact .next h
  · refine .ite (.ite (.next h) (.ite (.next h.endCtx) (.next ?_))) (.ite (.next ?_) (.next h.at_))
    · exact (State.Inv.foldl (fun _ _ hs => hs.modCore fun _ hk => hk.stopForReplay) _ h.modRun).at_
    · exact (State.Inv.foldl (fun _ _ hs => hs.reloadMember) _ h).resident

/-! ## The end of a context -/

/-- A change of every MTU that leaves the dirty bitmaps alone. -/
theorem State.Inv.mtus (h : s.Inv b) {g : Mtu → Mtu} (hg : ∀ m : Mtu, (g m).dirty = m.dirty) :
    ({ s with mtu := vmap g s.mtu } : State).Inv b := by
  refine ⟨h.1, fun e => ?_⟩
  obtain ⟨q, n, i, d⟩ := h.2 e
  exact ⟨q, n, i, fun j => by rw [getElem_vmap, hg]; exact d j⟩

theorem Core.Inv.ended (h : k.Inv b) {n x} : (k.ended n x).Inv b := by
  unfold Core.ended
  exact (Core.Inv.foldl (fun _ _ hk => .ite hk hk.fail) _ h).halt.upd

theorem State.Inv.refuseHeld (h : s.Inv b) {cid} : (s.refuseHeld cid).Inv b := by
  unfold State.refuseHeld
  exact State.Inv.foldl (fun _ _ hs => State.Inv.foldl (fun _ _ hs => hs.answerChunk) _ hs) _ h.upd

theorem State.Inv.dropUnfired (h : s.Inv b) {cid} : (s.dropUnfired cid).Inv b := by
  unfold State.dropUnfired
  exact h.tables (hq := rising_map fun x => by split <;> rfl)

theorem State.Inv.flushStores (h : s.Inv b) {c} : (s.flushStores c).Inv b := by
  unfold State.flushStores
  refine State.Inv.foldl (fun u x hu => ?_) _ h
  split
  · next e => exact hu.performStore.of_fst e
  · next e => exact (hu.performStore.of_fst e).memRecord

theorem Core.Inv.stopForEnd (h : k.Inv b) {x} : (k.stopForEnd x).Inv b := by
  have hc : (if k.live then k.cutHere else k).Inv b := .ite h.cutHere h
  unfold Core.stopForEnd
  dsimp only
  split
  · exact hc.halt
  · exact hc.modVis.halt

theorem Goes.contextEnd (h : s.Inv b) : Goes b (execContextEnd s) := by
  unfold execContextEnd
  extract_lets z cid mine u v gone open3 own3 w x y z' r
  have hu : u.Inv b := State.Inv.foldl (fun _ _ hs => hs.modCore fun _ hk => hk.stopForEnd) _ h
  clear_value u
  have hv : v.Inv b := by
    refine State.Inv.foldl (fun t c ht => ?_) _ hu
    have he {q : State} (hq : q.Inv b) {n x} : (q.chosen.modCore c fun k => k.ended n x).Inv b :=
      hq.chosen.modCore fun _ hk => hk.ended
    exact .ite (he ht.flushStores).freeCells (he ht.flushStores)
  clear_value v
  have hw : w.Inv b := State.Inv.foldl (fun _ _ hs => hs.dropSubs) _ hv
  have hx : x.Inv b := State.Inv.foldl
    (fun _ _ hs => .ite (State.Inv.foldl (fun _ _ hs => hs.modMail) _ hs) hs) _ hw
  have hy : y.Inv b := hx.refuseHeld.dropUnfired
  clear_value y
  have hz : z'.Inv b := hy.each (f := fun k => { k with bc := keepLines cid k.bc }) (fun _ hk => hk.upd)
    (fun d => by show (vmap (fun m : Mtu => m.without cid) y.mtu)[d].dirty = _; rw [getElem_vmap]; rfl) rfl
  clear_value z'
  exact .ite (.next hu) (.next hz.record.prst)

/-! ## Refills -/

theorem Goes.plbRefill (h : s.Inv b) : Goes b (execPlbRefill s) := by
  unfold execPlbRefill
  dsimp only
  split
  · exact .next (h.modCore fun _ hk => hk.raise)
  · next e => exact .next ((h.xlate.of_fst e).modCore fun _ hk => hk.upd)

theorem State.Inv.enterPages (h : s.Inv b) {c cl l} : (s.enterPages c cl l).Inv b := by
  unfold State.enterPages
  split
  · exact h
  · exact State.Inv.foldl (fun _ _ hs => hs.prefetch) _ h

/-! ## Readiness and die resets -/

theorem State.Inv.setReady (h : s.Inv b) {x y} : (s.setReady x y).Inv b := .ite h.modRegs h.modRegs.msi

theorem State.Inv.setDrst (h : s.Inv b) {n} : (s.setDrst n).Inv b := h.modRegs.msi

theorem Goes.functionReady (h : s.Inv b) : Goes b (execFunctionReady s) := by
  unfold execFunctionReady
  have hs {x y z} : (State.setReady { s with trust := x } y z).Inv b := State.Inv.setReady h.upd
  exact .ite (.next hs.setDrst) (.next hs)

theorem State.Inv.abortCmd (h : s.Inv b) {c m} : (s.abortCmd c m).Inv b := by
  unfold State.abortCmd
  refine State.Inv.finishDone ?_
  split
  · exact h.modCore fun _ hk => hk.endFill
  · exact h

theorem State.Inv.abortSync (h : s.Inv b) {c m} : (s.abortSync c m).Inv b := by
  unfold State.abortSync
  split
  · exact h.syncDone.turnTo.issued h.syncDone.turnTo
  · exact h.syncDone

theorem Core.Inv.stopMoving (h : k.Inv b) : k.stopMoving.Inv b := by
  unfold Core.stopMoving
  refine h.less (hl := fun _ hx => List.mem_of_mem_filter hx) (hx := fun p hp => ?_)
  obtain ⟨q, hq, rfl⟩ := List.mem_map.1 hp
  exact ⟨q, hq, fun _ hw => List.mem_of_mem_filter hw⟩

/-- The cores take what each becomes. -/
theorem State.Inv.cores (h : s.Inv b) {f : Fin 64 → Core} (hf : ∀ c, (f c).Inv b) (hk : t.cores = Vector.ofFn f)
    (hq : t.qps = s.qps := by with_reducible rfl) (hc : t.cnts = s.cnts := by with_reducible rfl)
    (hi : t.images = s.images := by with_reducible rfl) (hm : t.mtu = s.mtu := by with_reducible rfl) : t.Inv b := by
  refine ⟨fun c => ?_, fun e => ?_⟩
  · have e : (Vector.ofFn f)[c] = f c := by simp
    unfold State.core
    rw [hk, e]
    exact hf c
  · unfold State.pkgRise
    rw [hq, hc, hi, hm]
    exact h.2 e

theorem State.Inv.discard (h : s.Inv b) {n} : (s.discard n).Inv b := by
  unfold State.discard
  refine State.Inv.foldl (fun u c hu => ?_) _ (State.Inv.chosen (h.cores (fun c => ?_) (by with_reducible rfl)))
  · exact State.Inv.foldl (fun _ _ hs => hs.abortSync) _ (State.Inv.foldl (fun _ _ hs => hs.abortCmd) _ hu)
  · have hk : (if storesOn c n then s.cores[c].stopMoving else s.cores[c]).Inv b := .ite (h.core c).stopMoving (h.core c)
    exact hk.less (hl := fun _ hx => List.mem_of_mem_filter hx)

theorem Goes.dieResetGo (h : s.Inv b) : Goes b (execDieResetGo s) := by
  unfold execDieResetGo
  refine .ite (.next h) (.next (State.Inv.later (State.Inv.at_ (State.Inv.foldl (fun _ _ hs => hs.endCtx) _
    (State.Inv.setDrst (State.Inv.modRegs (State.Inv.setReady ?_)))))))
  exact h.upd

theorem State.Inv.fenceDie (h : s.Inv b) {n x} : (s.fenceDie n x).Inv b := h.modRegs.setDrst.later

theorem Goes.dieResetFenced (h : s.Inv b) : Goes b (execDieResetFenced s) := by
  unfold execDieResetFenced
  exact .ite (.next (.ite h.at_ h.fenceDie)) (.next h)

theorem Goes.dieResetDeadline (h : s.Inv b) : Goes b (execDieResetDeadline s) := by
  unfold execDieResetDeadline
  exact .ite (.next h.discard.fenceDie) (.next h)

theorem Core.Inv.clearStores (h : k.Inv b) : k.clearStores.Inv b := by
  unfold Core.clearStores
  exact h.less (ha := fun _ => List.Pairwise.nil) (ht := fun _ => List.Pairwise.nil) (hg := fun _ => List.Pairwise.nil)
    (hb := fun _ => List.Pairwise.nil)

theorem Core.Inv.clearZenith (h : k.Inv b) : k.clearZenith.Inv b := by
  cases b with
  | true => exact reset_lanesFull
  | false =>
    obtain ⟨-, ha, ht, hg, hb⟩ := h
    exact ⟨List.Pairwise.nil, ha, ht, hg, hb⟩

theorem State.Inv.clearDie (h : s.Inv b) {n} : (s.clearDie n).Inv b := by
  unfold State.clearDie
  refine .ite (h.cores (fun c => ?_) (by with_reducible rfl)) (.ite (State.Inv.reportCells ?_) h)
  · exact .ite (h.core c).clearZenith (h.core c)
  · have hc : ({ s with cores := Vector.ofFn fun c : Fin 64 =>
        (if cumIdx c = Fin.ofNat 4 (n - 2) then (s.cores[c]).clearStores else s.cores[c]) } : State).Inv b :=
      h.cores (f := fun c => if cumIdx c = Fin.ofNat 4 (n - 2) then (s.cores[c]).clearStores else s.cores[c])
        (fun c => .ite (h.core c).clearStores (h.core c)) rfl
    have hm := hc.modMtu (d := Fin.ofNat 4 (n - 2)) (f := fun _ => Mtu.reset) fun _ _ => List.Pairwise.nil
    exact hm.of_eq

theorem Goes.dieResetCleared (h : s.Inv b) : Goes b (execDieResetCleared s) := by
  unfold execDieResetCleared
  refine .ite (.ite (.next h) (.next h.setDrst.clearDie.later)) (.ite (.next h) (.next ?_))
  exact State.Inv.foldl (fun _ _ hs => hs.later) _ h.setDrst

theorem State.inv_reset : State.reset.Inv b := by
  cases b with
  | true => exact State.inv_lanes.2 fun c => reset_core c ▸ reset_lanesFull
  | false => exact State.inv_tables.2 reset_tablesRise

theorem Goes.deviceReset : Goes b (execDeviceReset s) := by
  unfold execDeviceReset
  extract_lets w v reset t
  have ht : t.Inv b := State.inv_reset.upd
  clear_value t
  exact .next (.ite ht.later ht)

theorem Goes.hostPortLinkDown (h : s.Inv b) : Goes b (execHostPortLinkDown s) := .next h.modRegs

/-! ## Links and the host window -/

theorem Goes.flitReceive (h : s.Inv b) : Goes b (execFlitReceive s) := by
  unfold execFlitReceive
  extract_lets p n u v w x
  have hv : v.Inv b := .ite h.modRegs h.modRegs.noteSend
  clear_value v
  have hx : x.Inv b := State.Inv.modRegs hv.upd
  clear_value x
  exact .ite (.next h.upd) (.ite (.next hv.upd) (.next hx.setReady))

theorem Goes.portTrained (h : s.Inv b) : Goes b (execPortTrained s) := by
  unfold execPortTrained
  exact .next (State.Inv.setReady (State.Inv.upd h.modRegs))

theorem State.Inv.bar2Fail (h : s.Inv b) {a} : (s.bar2Fail a).Inv b := h.errRecord

theorem Goes.bar2Read (h : s.Inv b) : Goes b (execBar2Read s) := by
  unfold execBar2Read
  dsimp only
  refine .ite (.next h) (.ite (.next h.bar2Fail.upd) ?_)
  split
  · next e => exact .next (h.engineRead.of_fst e).upd
  · exact .next h.bar2Fail.upd

theorem State.Inv.entriesWritten (h : s.Inv b) {a n} : (s.entriesWritten a n).Inv b := by
  unfold State.entriesWritten
  exact h.upd

theorem Goes.bar2Write (h : s.Inv b) : Goes b (execBar2Write s) := by
  unfold execBar2Write
  dsimp only
  refine .ite (.next h) (.ite (.next h.bar2Fail) ?_)
  split
  · next e => exact .next (h.engineWrite.of_fst e).entriesWritten
  · exact .next h.bar2Fail

/-! ## Management -/

theorem State.Inv.hostRead (h : s.Inv b) {a n} : (s.hostRead a n).1.Inv b := by
  unfold State.hostRead
  split
  · exact h
  · split
    · next e => exact h.engineRead.of_fst e
    · next e => exact h.engineRead.of_fst e

theorem State.Inv.hostWrite (h : s.Inv b) {a n x} : (s.hostWrite a n x).1.Inv b := by
  unfold State.hostWrite
  split
  · exact h
  · split
    next e => exact State.Inv.foldl (fun _ _ hs => hs.cleanHome) _ (h.engineWrite.of_fst e)

theorem Goes.resync (h : s.Inv b) : Goes b (execResync s) := by
  unfold execResync
  dsimp only
  exact .ite (.next h.mgmtEnd) (.next h.hostWrite.mgmtEnd)

theorem Goes.loadimg (h : s.Inv b) : Goes b (execLoadimg s) := by
  unfold execLoadimg
  dsimp only
  refine .ite (.next h.mgmtEnd) (.ite (.next h.mgmtEnd) (.ite (.next h.mgmtEnd) ?_))
  split
  · next e => exact .next (h.hostRead.of_fst e).mgmtEnd
  · next e =>
    have hr := h.hostRead.of_fst e
    exact .ite (.next hr.mgmtEnd) (.next (State.Inv.mgmtEnd (hr.tables (hi := rising_sput))))

theorem Goes.unloadimg (h : s.Inv b) : Goes b (execUnloadimg s) := by
  unfold execUnloadimg
  exact .ite (.next h.mgmtEnd) (.ite (.next h.mgmtEnd) (.ite (.next h.mgmtEnd)
    (.next (State.Inv.mgmtEnd (h.tables (hi := rising_sdel))))))

theorem Goes.ackend (h : s.Inv b) : Goes b (execAckend s) := by
  unfold execAckend
  refine .ite (.next h.mgmtEnd) (.ite (.next h.mgmtEnd) (.ite (.next h.mgmtEnd) (.next (State.Inv.mgmtEnd ?_))))
  exact h.mtus fun _ => rfl

theorem Goes.clrarr (h : s.Inv b) : Goes b (execClrarr s) := by
  unfold execClrarr
  exact .ite (.next h.mgmtEnd) (.ite (.next h.mgmtEnd) (.next (State.Inv.mgmtEnd h.upd)))

theorem Goes.fwstage (h : s.Inv b) : Goes b (execFwstage s) := by
  unfold execFwstage
  dsimp only
  refine .ite (.next h.mgmtEnd) ?_
  split
  · next e => exact .next (h.hostRead.of_fst e).mgmtEnd
  · next e =>
    have hr := h.hostRead.of_fst e
    exact .ite (.next (State.Inv.mgmtEnd hr.upd)) (.next hr.mgmtEnd)

theorem Goes.attest (h : s.Inv b) : Goes b (execAttest s) := by
  unfold execAttest
  refine .ite (.next h.mgmtEnd) ?_
  split
  · next e => exact .next (h.hostRead.of_fst e).mgmtEnd
  · next e =>
    split
    next e' => exact .next ((h.hostRead.of_fst e).useFree.hostWrite.of_fst e').mgmtEnd

theorem Goes.mgmtCommandComplete (h : s.Inv b) : Goes b (execMgmtCommandComplete s) := .next h.modRegs.msi

end Sys2Proof.Machine
end

section
/-!
SUPPORT. Basis slots, Nimbus commands and the vector words of X keep the two invariants: every value an X word is to land is whole.
-/

namespace Sys2Proof.Machine

set_option Elab.async false

variable {b : Bool} {s t : State} {k : Core}

/-! ## Basis slots and Nimbus commands -/

theorem rising_basisWrite {m : Sparse (BitVec 16)} {a l} (h : Rising m) : Rising (basisWrite m a l) := by
  induction l generalizing m a with
  | nil => exact h
  | cons x r ih => exact ih (rising_sset h)

theorem Goes.slotWord (h : s.Inv b) {i x a k} : Goes b (slotWord i x a k s) := by
  unfold Machine.slotWord
  refine .ite (.next h.illegal) (.next (h.access (h.issued ?_)))
  exact (h.modMe fun _ hk => hk.pend).addCmd.unbounded

theorem State.Inv.cmdRefused (h : s.Inv b) {c m e} : (s.cmdRefused c m e).Inv b := by
  unfold State.cmdRefused
  dsimp only
  refine State.Inv.accessEnd ?_
  split
  · exact h.finishFail
  · exact h

theorem Goes.slotTransferComplete (h : s.Inv b) : Goes b (execSlotTransferComplete s) := by
  unfold execSlotTransferComplete
  refine .served h fun u hu => ?_
  dsimp only
  split
  · exact .next hu
  · split
    · split
      · next e => exact .next (hu.engineRead.of_fst e).cmdRefused
      · next e =>
        have hr := hu.engineRead.of_fst e
        split
        · next e => exact .next (hr.engineRead.of_fst e).cmdRefused
        · next e =>
          have hd := hr.engineRead.of_fst e
          refine .ite (.next hd.finishFail) (.next (State.Inv.finishDone (hd.modCore fun k hk => ?_)))
          refine hk.less (hb := fun hb => ?_)
          dsimp only
          split
          · exact rising_basisWrite (rising_basisWrite hb)
          · exact rising_basisWrite hb
    · split
      · next e => exact .next (hu.engineWrite.of_fst e).cmdRefused
      · next e => exact .next (hu.engineWrite.of_fst e).finishDone

theorem Goes.hseed (h : s.Inv b) {x a} : Goes b (execHseed x a s) := by
  unfold execHseed
  exact .ite (.next h.illegal) (.issued h (h.modMe fun _ hk => hk.modVis))

theorem Goes.nimbusWord (h : s.Inv b) {i k a x ok f} (hf : ∀ n (k : Core), k.Inv b → (f n k).Inv b) :
    Goes b (nimbusWord i k a x ok f s) := by
  unfold Machine.nimbusWord
  refine .ite (.next h.illegal) (.next (h.access (h.issued ?_)))
  exact (h.modMe fun _ hk => hf _ _ hk.pend).addCmd

theorem Goes.nbqr (h : s.Inv b) {k a x} : Goes b (execNbqr k a x s) := .nimbusWord h fun _ _ hk => hk
theorem Goes.nbrot (h : s.Inv b) {k a x} : Goes b (execNbrot k a x s) := .nimbusWord h fun _ _ hk => hk
theorem Goes.nbcarry (h : s.Inv b) {k a r x} : Goes b (execNbcarry k a r x s) := .nimbusWord h fun _ _ hk => hk

theorem Goes.nbswitch (h : s.Inv b) {k a x} : Goes b (execNbswitch k a x s) := by
  unfold execNbswitch
  exact .nimbusWord h fun _ _ hk => hk.upd

theorem State.Inv.nimbusStart (h : s.Inv b) {c m} : (s.nimbusStart c m).Inv b := by
  have hs : (s.modCore c (·.startCmd m)).Inv b := h.modCore fun _ hk => hk.startCmd
  unfold State.nimbusStart
  dsimp only
  split
  · exact (hs.modCore fun _ hk => hk.switchReady).finishDone
  · exact hs.unbounded

theorem State.Inv.nimbusRun (h : s.Inv b) {cid m} : (s.nimbusRun cid m).1.Inv b := by
  unfold State.nimbusRun
  dsimp only
  split
  · split
    · next e => exact h.engineRead.of_fst e
    · next e => exact h.engineRead.of_fst e
  · split
    · next e => exact h.engineRead.of_fst e
    · next e =>
      split
      · next e' => exact (h.engineRead.of_fst e).engineRead.of_fst e'
      · next e' => exact (h.engineRead.of_fst e).engineRead.of_fst e'
  · split
    · next e => exact h.engineRead.of_fst e
    · next e =>
      have h1 := h.engineRead.of_fst e
      split
      · next e => exact h1.engineRead.of_fst e
      · next e =>
        have h2 := h1.engineRead.of_fst e
        have h3 {x : EngRes} {p : Prop} [Decidable p] {u cid a n} (hu : u.Inv b)
            (e : (if p then (u, .inl 0) else State.engineRead u cid a n) = x) : x.1.Inv b := by
          split at e
          · exact e ▸ hu
          · exact e ▸ hu.engineRead
        split
        · next e => exact h3 h2 e
        · next e => exact h3 h2 e
  · exact h

theorem Goes.nimbusComplete (h : s.Inv b) : Goes b (execNimbusComplete s) := by
  unfold execNimbusComplete
  extract_lets c k cid stamp
  split
  · exact .next h
  · next m _ =>
    split
    · next e => exact .next (h.nimbusRun.of_fst e).cmdRefused
    · next e => exact .next (h.nimbusRun.of_fst e).finishFail
    · next e =>
      extract_lets r
      have hr : r.1.Inv b := by
        refine State.Inv.foldl_fst (fun x o hx => ?_) _ (h.nimbusRun.of_fst e)
        obtain ⟨u, _ | e⟩ := x
        · have hu : u.Inv b := hx
          dsimp only
          split
          · next e => exact hu.engineWrite.of_fst e
          · next e => exact hu.engineWrite.of_fst e
        · exact hx
      clear_value r
      split
      · exact .next hr.cmdRefused
      · split
        · exact .next (State.Inv.modCore hr fun _ hk => hk.modCmd)
        · exact .next (State.Inv.finishDone hr)

theorem Goes.nbqrBasisWrite (h : s.Inv b) : Goes b (execNbqrBasisWrite s) := by
  unfold execNbqrBasisWrite
  dsimp only
  split
  · exact .next h
  · refine .next (State.Inv.finishDone (h.modCore fun k hk => ?_))
    exact hk.less (hb := fun hb => rising_basisWrite hb)

/-! ## Results of X on their way -/

/-- A result of an X word is whole (R14). -/
def XWrite.whole : XWrite → Prop
  | .v _ x => Full x
  | .vm _ x y => Full x ∧ Full y
  | .m _ x => Full x
  | .acc _ _ _ | .zero _ => True

/-- The third part of the lane invariant says that every pending result is whole. -/
theorem xpend_whole {p : XPend} :
    ((∀ r x, .v r x ∈ p.writes → Full x) ∧ (∀ r x y, .vm r x y ∈ p.writes → Full x ∧ Full y) ∧ ∀ r x, .m r x ∈ p.writes → Full x)
      ↔ ∀ w ∈ p.writes, w.whole := by
  constructor
  · rintro ⟨hv, hvm, hm⟩ w hw
    cases w with
    | v r x => exact hv r x hw
    | vm r x y => exact hvm r x y hw
    | m r x => exact hm r x hw
    | acc => trivial
    | zero => trivial
  · intro h
    exact ⟨fun r x hw => h _ hw, fun r x y hw => h _ hw, fun r x hw => h _ hw⟩

theorem Core.Inv.xpend (h : k.Inv true) {p : XPend} (hp : p ∈ k.xpend) : ∀ w ∈ p.writes, w.whole := xpend_whole.1 (h.2.2.2 p hp)

theorem Core.Inv.addX (h : k.Inv b) {p : XPend} (hp : b = true → ∀ w ∈ p.writes, w.whole) {u : Vector Nat 8} :
    ({ k with units := u, xpend := k.xpend ++ [p] } : Core).Inv b := by
  cases b with
  | false => exact h
  | true =>
    obtain ⟨fv, fm, fl, fx⟩ := h
    refine ⟨fv, fm, fl, fun q hq => ?_⟩
    rcases List.mem_append.1 hq with hq | hq
    · exact fx q hq
    · rw [List.mem_singleton.1 hq]; exact xpend_whole.2 (hp rfl)

theorem State.Inv.beats (h : s.Inv b) {x} : (s.beats x).Inv b := .ite h.works h

/-- An X word issues with whole results. -/
theorem State.Inv.xIssue (h : s.Inv b) {x ws f g} (hw : b = true → ∀ w ∈ ws, w.whole)
    (hg : ∀ k : Core, k.Inv b → (g k).Inv b) (hx : ∀ k : Core, (g k).xpend = k.xpend) : (s.xIssue x ws f g).Inv b := by
  unfold State.xIssue
  refine h.issued (State.Inv.at_ (State.Inv.beats (State.Inv.bump (h.modMe fun k hk => ?_))))
  rw [← hx k]
  exact (hg k hk).addX hw

theorem Goes.vecWord (h : s.Inv b) {i x ok r} (hw : b = true → ∀ w ∈ r.1, w.whole) : Goes b (vecWord i x ok r s) := by
  unfold Machine.vecWord
  exact .ite (.next h.raise) (.ite (.next h.illegal) (.next (h.xIssue hw (fun _ hk => hk) fun _ => rfl)))

/-! ## What an X word computes is whole -/

theorem State.Inv.vr (h : s.Inv true) (r : Fin 16) : Full (s.vr r) := h.me.1 r

theorem State.Inv.rm (h : s.Inv true) (r : Fin 8) : Full (s.me.rm r) := by
  unfold Core.rm
  split
  · exact full_one true
  · exact h.me.2.1 r

/-- Runs whose elements change one by one keep their number. -/
theorem full_map {α β : Type} [DecidableEq β] {r : Runs α} (h : Full r) (f : Nat × α → β) :
    Full (rnorm (r.map fun x => (x.1, f x))) := by
  refine ⟨?_, solid_rnorm _⟩
  rw [rlist_rnorm, ← h.1]
  clear h
  induction r with
  | nil => rfl
  | cons x r ih => simp [rlist, ih]

theorem length_chunksOf {α : Type} (n f : Nat) (l : List α) : (chunksOf n f l).length = f := by
  induction f generalizing l with
  | zero => rfl
  | succ f ih => simp [chunksOf, ih]

theorem full_vecOfElems (w : Nat) (l : List Nat) : Full (vecOfElems w l) :=
  full_rof (by rw [List.length_map, length_chunksOf])

theorem full_vecMap {c mk f a x d} (hm : Full mk) (ha : Full a) (hx : Full x) (hd : Full d) : Full (vecMap c mk f a x d).1 := by
  unfold vecMap
  dsimp only
  rw [List.map_map]
  exact full_map (hm.rzip (ha.rzip (hx.rzip hd))) _

theorem full_laneMask {mk : Runs Bool} (h : Full mk) : Full (laneMask mk) := h.rmap

theorem whole_one {w : XWrite} (h : w.whole) : ∀ x ∈ [w], x.whole := by simpa using h

/-- A result under a mask, whole when both its parts are. -/
theorem whole_vm {r x y} (hx : Full x) (hy : Full y) : ∀ w ∈ [XWrite.vm r x y], w.whole := whole_one ⟨hx, hy⟩

theorem Goes.elemWord (h : s.Inv b) {i x l d a y mk fs f} : Goes b (elemWord i x l d a y mk fs f s) := by
  unfold Machine.elemWord
  refine .vecWord h fun e => ?_
  subst e
  exact whole_vm (full_vecMap (h.rm mk) (h.vr a) (h.vr y) (h.vr d)) (full_laneMask (h.rm mk))

theorem Goes.cmpWord (h : s.Inv b) {i c d a y fs z} : Goes b (cmpWord i c d a y fs z s) := by
  unfold Machine.cmpWord
  refine .vecWord h fun e => whole_one ?_
  subst e
  have hr := ((h.vr a).rzip (h.vr y)).rmap (f := fun p : Word × Word => elCmp c (s.efmt fs) p.1.toNat p.2.toNat)
  unfold XWrite.whole
  dsimp only
  split
  · exact ((h.rm d).rzip hr).rmap
  · exact hr

theorem Goes.vsel (h : s.Inv b) {d a y mk fs} : Goes b (execVsel d a y mk fs s) := by
  unfold execVsel
  refine .vecWord h fun e => whole_one ?_
  subst e
  exact ((h.rm mk).rzip ((h.vr a).rzip (h.vr y))).rmap

theorem Goes.vcvt (h : s.Inv b) {d a c mk fs} : Goes b (execVcvt d a c mk fs s) :=
  .vecWord h fun _ => whole_vm (full_vecOfElems ..) (full_vecOfElems ..)

theorem Goes.vcvts (h : s.Inv b) {d a y c} : Goes b (execVcvts d a y c s) :=
  .vecWord h fun _ => whole_vm (full_vecOfElems ..) (full_vecOfElems ..)

theorem Goes.vcadd (h : s.Inv b) {d a y mk} : Goes b (execVcadd d a y mk s) := by
  unfold execVcadd
  refine .vecWord h fun e => ?_
  subst e
  exact whole_vm (full_vecMap (h.rm mk) (h.vr a) (h.vr y) (h.vr d)) (full_laneMask (h.rm mk))

theorem Goes.vcsplit (h : s.Inv b) {d a mk} : Goes b (execVcsplit d a mk s) := by
  unfold execVcsplit
  refine .vecWord h fun e => ?_
  subst e
  exact whole_vm (full_vecMap (h.rm mk) (h.vr a) (h.vr a) (h.vr d)) (full_laneMask (h.rm mk))

theorem Goes.vrng (h : s.Inv b) {d a mk} : Goes b (execVrng d a mk s) := by
  unfold execVrng
  refine .vecWord h fun e => ?_
  subst e
  exact whole_vm (full_vecMap (h.rm mk) (h.vr a) (h.vr a) (h.vr d)) (full_laneMask (h.rm mk))

theorem Goes.vqdx (h : s.Inv b) {d a y fs} : Goes b (execVqdx d a y fs s) := by
  unfold execVqdx
  refine .vecWord h fun _ w hw => ?_
  rcases List.mem_cons.1 hw with rfl | hw
  · exact full_rof (length_natWords ..)
  · rw [List.mem_singleton.1 hw]
    exact full_rof (length_natWords ..)

theorem Goes.vdqdx (h : s.Inv b) {d a y fs} : Goes b (execVdqdx d a y fs s) := by
  unfold execVdqdx
  exact .vecWord h fun _ => whole_one (full_rof (by rw [List.length_map, List.length_range]))

theorem Goes.redWord (h : s.Inv b) {i n d a mk fs} : Goes b (redWord i n d a mk fs s) := by
  unfold Machine.redWord
  exact .vecWord h fun _ => whole_one (full_one _)

theorem full_moveElems {c mk v f} : Full (moveElems c mk v f) := full_vecOfElems ..

theorem Goes.vperm (h : s.Inv b) {d a y mk fs} : Goes b (execVperm d a y mk fs s) := by
  unfold execVperm
  refine .vecWord h fun e => ?_
  subst e
  exact whole_vm full_moveElems (full_laneMask (h.rm mk))

theorem Goes.vrote (h : s.Inv b) {d a g mk fs} : Goes b (execVrote d a g mk fs s) := by
  unfold execVrote
  refine .vecWord h fun e => ?_
  subst e
  exact whole_vm full_moveElems (full_laneMask (h.rm mk))

theorem Goes.viota (h : s.Inv b) {d mk fs} : Goes b (execViota d mk fs s) := by
  unfold execViota
  refine .vecWord h fun e => ?_
  subst e
  exact whole_vm full_moveElems (full_laneMask (h.rm mk))

theorem Goes.maskWord (h : s.Inv b) {i d a y f} : Goes b (maskWord i d a y f s) := by
  unfold Machine.maskWord
  refine .vecWord h fun e => whole_one ?_
  subst e
  exact ((h.rm a).rzip (h.rm y)).rmap

theorem Goes.mlogPopc (h : s.Inv b) {d y} : Goes b (execMlogPopc d y s) := by
  unfold execMlogPopc
  exact .vecWord h fun _ => whole_one (full_one _)

theorem Goes.dqpush (h : s.Inv b) {a y mk n} : Goes b (execDqpush a y mk n s) := by
  unfold execDqpush
  exact .ite (.next h.raise) (.ite (.next h.raise) (.next (h.xIssue (by simp) (fun _ hk => hk.upd) fun _ => rfl)))

/-- Elements of the deferral queue, with zeros after them, fill a register (R151). -/
theorem full_column {α : Type} (l : List α) (f : α → Word) (h : l.length ≤ 6144) :
    Full (rapp (rof (l.map f)) (rcons (6144 - l.length) 0 [])) := by
  refine ⟨?_, solid_rnorm _⟩
  unfold rapp
  simp [rlist_append, rlist]
  omega

theorem Goes.dqdrain (h : s.Inv b) {d a y} : Goes b (execDqdrain d a y s) := by
  unfold execDqdrain
  refine .ite (.next h.raise) (.ite (.next h.illegal) (.next (h.xIssue (fun _ w hw => ?_) (fun _ hk => hk.upd) fun _ => rfl)))
  have hc (f : Nat × Word × Word → Word) := full_column (s.me.dq.take 6144) f (List.length_take_le ..)
  simp only [List.mem_cons, List.not_mem_nil, or_false] at hw
  rcases hw with rfl | rfl | rfl
  · exact hc _
  · exact hc _
  · exact hc _

end Sys2Proof.Machine
end

section
/-!
SUPPORT. Landings of X, matrix commands, the power governor and the starts of commands keep the two invariants.
-/

namespace Sys2Proof.Machine

set_option Elab.async false

variable {b : Bool} {s t : State} {k : Core}

/-! ## X_RESULT_LANDS -/

theorem rising_accWrite {m : Sparse Word} {t r v} (h : Rising m) : Rising (accWrite m t r v) := by
  unfold accWrite
  refine rising_foldl (fun m x hm => ?_) _ h
  split
  · exact rising_sset hm
  · exact hm

theorem rising_filter {α : Type} {m : Sparse α} {p : Nat × α → Bool} (h : Rising m) : Rising (m.filter p) :=
  List.Pairwise.filter p h

theorem full_mergeVec {x y z : Runs Word} (hx : Full x) (hy : Full y) (hz : Full z) : Full (mergeVec x y z) :=
  (hx.rzip (hy.rzip hz)).rmap

theorem whole_cleared {w : XWrite} (h : w.whole) {t} : (w.cleared t).whole := by
  cases w with
  | v | vm | m => exact h
  | acc | zero => trivial

/-- A core takes a whole value for a vector register. -/
theorem Core.Inv.setV (h : k.Inv b) {r : Fin 16} {x} (hx : b = true → Full x) : ({ k with v := k.v.set r x } : Core).Inv b := by
  cases b with
  | false => exact h
  | true =>
    obtain ⟨fv, fm, fl, fx⟩ := h
    refine ⟨fun q => ?_, fm, fl, fx⟩
    by_cases hq : r.val = q.val
    · simpa [hq] using hx rfl
    · simpa [hq] using fv q

theorem Core.Inv.wm (h : k.Inv b) {r : Fin 8} {x} (hx : b = true → Full x) : (k.wm r x).Inv b := by
  unfold Core.wm
  split
  · exact h
  · cases b with
    | false => exact h
    | true =>
      obtain ⟨fv, fm, fl, fx⟩ := h
      refine ⟨fv, fun q => ?_, fl, fx⟩
      by_cases hq : r.val = q.val
      · simpa [hq] using hx rfl
      · simpa [hq] using fm q

theorem Core.Inv.xLand (h : k.Inv b) {n} {w : XWrite} (hw : b = true → w.whole) : (k.xLand n w).Inv b := by
  cases w with
  | v r x => exact h.setV hw
  | vm r x y => exact h.setV fun e => by subst e; exact full_mergeVec (h.1 r) (hw rfl).1 (hw rfl).2
  | m r x => exact h.wm hw
  | acc t r x =>
    unfold Core.xLand
    exact h.less (ha := rising_accWrite)
  | zero t =>
    cases b with
    | false =>
      obtain ⟨hi, ha, ht, hg, he⟩ := h
      exact ⟨hi, rising_filter ha, ht, hg, he⟩
    | true =>
      obtain ⟨fv, fm, fl, fx⟩ := h
      refine ⟨fv, fm, fl, fun p hp => ?_⟩
      obtain ⟨q, hq, rfl⟩ := List.mem_map.1 hp
      have hx := xpend_whole.1 (fx q hq)
      refine xpend_whole.2 fun w hw => ?_
      split at hw
      · obtain ⟨v, hv, rfl⟩ := List.mem_map.1 hw
        exact whole_cleared (hx v hv)
      · exact hx w hw

/-- What an X word lands is whole, one result after another. -/
theorem Core.Inv.xLands (h : k.Inv b) {n} {l : List XWrite} (hl : b = true → ∀ w ∈ l, w.whole) : (l.foldl (Core.xLand n) k).Inv b := by
  induction l generalizing k with
  | nil => exact h
  | cons w r ih => exact ih (h.xLand fun e => hl e w (by simp)) fun e v hv => hl e v (by simp [hv])

theorem Goes.xResultLands (h : s.Inv b) : Goes b (execXResultLands s) := by
  unfold execXResultLands
  dsimp only
  split
  · exact .next h
  · next x e =>
    refine .next (h.setCore ?_)
    have hp : ({ s.core s.ev.core with xpend := (s.core s.ev.core).xpend.filter (·.id != x.id) } : Core).Inv b :=
      (h.core _).less (hx := fun p hp => ⟨p, List.mem_of_mem_filter hp, fun _ h => h⟩)
    exact (hp.xLands fun e' => by subst e'; exact (h.core _).xpend (List.mem_of_find?_eq_some e)).orFlags

/-! ## The accumulator port -/

theorem Goes.apWord (h : s.Inv b) {i t m n ok ws f} (hw : b = true → ∀ w ∈ ws, w.whole) : Goes b (apWord i t m n ok ws f s) := by
  unfold Machine.apWord
  exact .ite (.next h.raise) (.ite (.next h.illegal) (.ite (.next h.raise) (.ite (.next h.raise) (.ite (.next h.raise)
    (.next (h.xIssue hw (fun _ hk => hk) fun _ => rfl))))))

theorem Goes.vaccrd (h : s.Inv b) {d t g mk fs} : Goes b (execVaccrd d t g mk fs s) := by
  unfold execVaccrd
  exact .apWord h fun _ => whole_vm full_moveElems (full_vecOfElems ..)

theorem Goes.vaccwr (h : s.Inv b) {t a g mk} : Goes b (execVaccwr t a g mk s) := by
  unfold execVaccwr
  exact .apWord h fun _ => whole_one trivial

theorem Goes.mxZero (h : s.Inv b) {t} : Goes b (execMxZero t s) := by
  unfold execMxZero
  exact .apWord h fun _ => whole_one trivial

/-! ## Product commands -/

theorem Core.Inv.foldl_fst {α β : Type} {f : Core × β → α → Core × β}
    (hf : ∀ (x : Core × β) (a : α), x.1.Inv b → (f x a).1.Inv b) (l : List α) {x : Core × β} (h : x.1.Inv b) :
    (l.foldl f x).1.Inv b := by
  induction l generalizing x with
  | nil => exact h
  | cons a r ih => exact ih (hf _ _ h)

theorem Core.Inv.loadPortion (h : k.Inv b) {x m p} : (k.loadPortion x m p).Inv b := h.modShape

theorem rising_accPut {m : Sparse Word} {t i j x} (h : Rising m) : Rising (accPut m t i j x) := rising_sset h

theorem Core.Inv.putBody (h : k.Inv b) {t i j x} : (k.putBody t i j x).Inv b := by
  unfold Core.putBody
  dsimp only
  split
  · exact (h.less (ha := fun ha => rising_sset ha)).disarm
  · exact h.less (ha := fun ha => rising_sset ha)

theorem Core.Inv.projectRow (h : k.Inv b) {m i x} : (k.projectRow m i x).1.Inv b := by
  unfold Core.projectRow
  exact Core.Inv.foldl_fst (fun _ _ hx => Core.Inv.foldl_fst (fun _ _ hy => hy.putBody) _ hx) _ h

theorem Core.Inv.sketchRow (h : k.Inv b) {m i x} : (k.sketchRow m i x).1.Inv b := by
  unfold Core.sketchRow
  exact Core.Inv.foldl_fst (fun _ _ hx => hx.putBody) _ h

theorem Core.Inv.haloZero (h : k.Inv b) {m} : (k.haloZero m).Inv b := by
  unfold Core.haloZero
  have hp {q : Core} (hq : q.Inv b) {t rows cols : Nat} {f : Nat → Nat → Nat} :
      ((List.range rows).foldl (fun k r => (List.range cols).foldl
        (fun (k : Core) c => k.putBody (t + f r c) (r % 128) (c % 128) 0) k) q).Inv b :=
    .foldl (fun _ _ hk => .foldl (fun _ _ hk => hk.putBody) _ hk) _ hq
  exact .ite h (.ite (hp (.ite (hp h) h)) (.ite (hp h) h))

theorem Core.Inv.landRow (h : k.Inv b) {x m q} : (k.landRow x m q).1.Inv b := by
  unfold Core.landRow
  extract_lets e a g cols written
  have hw : written.1.Inv b := by
    unfold written
    split
    · exact h
    · refine Core.Inv.foldl_fst (fun y c hy => ?_) _ h
      dsimp only
      split
      · exact hy.putBody
      · exact hy.putBody
  clear_value written
  split
  · obtain ⟨q, f0⟩ := written
    have hq : q.Inv b := hw
    dsimp only
    have hp {n y} : (if cbProj m.cb then q.projectRow m n y else (q, 0)).1.Inv b := by
      split
      · exact hq.projectRow
      · exact hq
    split
    · exact hp.sketchRow
    · exact hp
  · exact hw

theorem Core.Inv.landSkipped (h : k.Inv b) {m} : (k.landSkipped m).Inv b :=
  .foldl (fun _ _ hk => .foldl (fun _ _ hk => hk.putBody) _ hk) _ h

theorem Core.Inv.sideArea (h : k.Inv b) {x m} : (k.sideArea x m).Inv b := by
  unfold Core.sideArea
  extract_lets e isInt t M N K val a c at_ body ca rb pcol prow ocol orow count clear put acc₁ acc₂ acc₃ acc₄
  refine h.less (ha := fun ha => ?_)
  have hput {acc : Sparse Word} (ha : Rising acc) (key : Nat → Nat × Nat) (l : List Nat) : Rising (put acc key l) :=
    rising_foldl (fun _ _ hm => rising_accPut hm) _ ha
  have hc : Rising clear := rising_filter ha
  clear_value put clear count
  have h₁ : Rising acc₁ := hput hc _ _
  have h₂ : Rising acc₂ := hput h₁ _ _
  have h₃ : Rising acc₃ := hput h₂ _ _
  have h₄ : Rising acc₄ := hput h₃ _ _
  exact rising_accPut (rising_accPut h₄)

theorem Goes.mxWord (h : s.Inv b) {i c x z k} : Goes b (mxWord i c x z k s) := by
  unfold Machine.mxWord
  dsimp only
  refine .ite (.next h.raise) (.ite (.next h.raise) (.ite (.next h.illegal) ?_))
  split
  · exact .next h.raise
  · refine .ite (.next h.raise) (.ite (.next h.raise) (.ite (.next h.raise) (.issued h ?_)))
    exact (h.modMe fun _ hk => (hk.modShape).upd).bump.first.first

theorem Goes.mxDrain (h : s.Inv b) {x} : Goes b (execMxDrain x s) := by
  unfold execMxDrain
  exact .ite (.issued h h) (.next h.raise)

theorem Goes.mxLacc (h : s.Inv b) {c} : Goes b (execMxLacc c s) := by
  unfold execMxLacc
  refine .ite (.next h.illegal) (.ite (.next h.raise) (.ite (.next h.raise) (.ite (.next h.raise) (.issued h ?_))))
  exact (h.modMe fun _ hk => hk.upd).bump.first

theorem State.Inv.dieFault (h : s.Inv b) {c x y q p} : (s.dieFault c x y q p).Inv b := h.at_

theorem Core.Inv.laccRow (h : k.Inv b) {x q} : (k.laccRow x q).1.Inv b := by
  unfold Core.laccRow
  refine Core.Inv.foldl_fst (fun y p hy => ?_) _ h
  dsimp only
  exact hy.less (ha := fun ha => rising_sset ha)

theorem Goes.laccStart (h : s.Inv b) : Goes b (execLaccStart s) := by
  unfold execLaccStart
  dsimp only
  split
  · exact .next h
  · have hd {c n} : (s.modCore c fun k => { k with laccs := k.laccs.filter (·.id != n) }).Inv b := h.modCore fun _ hk => hk.upd
    have hr {x q} : ((s.core s.ev.core).laccRow x q).1.Inv b := (h.core _).laccRow
    refine .ite (.next hd.dieFault) (.ite (.next hd.dieFault) (.ite (.next (h.setCore ?_)) (.next (State.Inv.first (h.setCore ?_)))))
    · exact Core.Inv.orFlags hr.upd
    · exact hr.upd

theorem Core.Inv.modQueued (h : k.Inv b) {x i f} : (k.modQueued x i f).Inv b := h.modShape

theorem Goes.commandArrival (h : s.Inv b) : Goes b (execCommandArrival s) := .next (h.modCore fun _ hk => hk.modQueued)

theorem State.Inv.loadB (h : s.Inv b) {c x m p} : (s.loadB c x m p).Inv b := by
  have hl : (if p < m.portions then s.modCore c (·.loadPortion x m p) else s).Inv b := .ite (h.modCore fun _ hk => hk.loadPortion) h
  unfold State.loadB
  exact .ite hl.first (.ite hl.at_ hl.first)

theorem Goes.matrixCommandStart (h : s.Inv b) : Goes b (execMatrixCommandStart s) := by
  unfold execMatrixCommandStart
  dsimp only
  split
  · exact .next h
  · refine .ite (.next h.loadB) (.ite (.next h) ?_)
    split
    · exact .next h.dieFault
    · exact .next (h.setCore (h.core _).modQueued.haloZero).loadB

theorem State.Inv.rowWork (h : s.Inv b) {c x m q} : (s.rowWork c x m q).Inv b := by
  unfold State.rowWork
  refine State.Inv.foldl (fun _ _ hs => State.Inv.foldl (fun _ _ hs => ?_) _ hs) _ h
  exact .ite hs hs.works

theorem State.Inv.rowEnters (h : s.Inv b) {c x m i} : (s.rowEnters c x m i).Inv b := by
  unfold State.rowEnters
  have hr {f n} : ((s.setCore c ((s.core c).modQueued x m.id f)).rowWork c x m n).Inv b := (h.setCore (h.core _).modQueued).rowWork
  exact .ite hr.at_.first hr.at_

theorem Goes.outputRowLands (h : s.Inv b) : Goes b (execOutputRowLands s) := by
  unfold execOutputRowLands
  dsimp only
  split
  · exact .next h
  · have hk {x m q i f} : (((s.core s.ev.core).landRow x m q).1.modQueued x i f).Inv b := (h.core _).landRow.modQueued
    exact .ite (.next h.rowEnters) (.ite (.next (h.setCore hk)) (.next (h.setCore hk.orFlags).at_))

theorem Goes.matrixCommandFinish (h : s.Inv b) : Goes b (execMatrixCommandFinish s) := by
  unfold execMatrixCommandFinish
  dsimp only
  split
  · exact .next h
  · refine .next (State.Inv.foldl (fun _ _ hs => hs.at_) _ (h.setCore (Core.Inv.modShape ?_)))
    exact .ite (h.core _).landSkipped.sideArea (h.core _).landSkipped

theorem Goes.faultReportArrival (h : s.Inv b) : Goes b (execFaultReportArrival s) := .next (h.modCore fun _ hk => hk.raise)

theorem Goes.chargeBalanceWindow (h : s.Inv b) : Goes b (execChargeBalanceWindow s) := by
  unfold execChargeBalanceWindow
  exact .next h.upd

/-! ## The governor, telemetry and the clock -/

theorem State.Inv.readSubs (h : s.Inv b) {m c a} : (s.readSubs m c a).Inv b := by
  unfold State.readSubs
  dsimp only
  split
  · exact h.upd
  · split
    · next e => exact (h.engineRead.of_fst e).upd
    · next e => exact (h.engineRead.of_fst e).upd

theorem State.Inv.testSub (h : s.Inv b) {m u} : (s.testSub m u).1.Inv b := by
  unfold State.testSub
  dsimp only
  split
  · split
    · exact h
    · next e => exact h.engineWrite.of_fst e
  · exact h

theorem State.Inv.testSubs (h : s.Inv b) {m} : (s.testSubs m).Inv b := by
  unfold State.testSubs
  extract_lets r due u
  have hr : r.1.Inv b := State.Inv.foldl_fst (fun x u hx => ?_) _ h
  · clear_value r
    have hu : u.Inv b := hr.upd
    clear_value u
    exact State.Inv.foldl (fun _ _ hs => hs.readSubs) _ hu
  · exact State.Inv.testSub hx

theorem State.Inv.addFiller (h : s.Inv b) {f} : (s.addFiller f).Inv b := by
  unfold State.addFiller
  exact h.upd

theorem State.Inv.meter (h : s.Inv b) : s.meter.Inv b := by
  unfold State.meter
  extract_lets n u v r w
  have hu : u.Inv b := h.upd
  clear_value u
  have hw : w.Inv b := hu.addFiller.addFiller
  clear_value w
  exact State.Inv.useFree hw.upd

theorem Goes.windowEnd (h : s.Inv b) : Goes b (execWindowEnd s) := by
  unfold execWindowEnd
  extract_lets n u g ipkg m rise fall v gov w
  have hv : v.Inv b := h.meter.modRegs
  clear_value v
  have hw : w.Inv b := hv.upd
  clear_value w
  exact .ite (.next h) (.next hw.testSubs)

theorem State.Inv.watch (h : s.Inv b) : s.watch.Inv b := by
  unfold State.watch
  exact h.upd

theorem Goes.packagePhaseBoundary (h : s.Inv b) : Goes b (execPackagePhaseBoundary s) := by
  unfold execPackagePhaseBoundary
  refine .ite (.ite (.next h) (.next (State.Inv.at_ h.upd))) (.ite (.next h.upd) (.next (State.Inv.at_ h.upd)))

theorem Goes.clockStep (h : s.Inv b) : Goes b (execClockStep s) := by
  unfold execClockStep
  exact .next h.modRegs.upd

theorem Goes.telemetrySample (h : s.Inv b) : Goes b (execTelemetrySample s) := by
  unfold execTelemetrySample
  exact .ite (.next h) (.next (State.Inv.modRegs h.meter.upd))

theorem Goes.ptpSync (h : s.Inv b) : Goes b (execPtpSync s) := by
  unfold execPtpSync
  exact .next (State.Inv.modRegs h.upd)

theorem Goes.ptpSyncTimeout (h : s.Inv b) : Goes b (execPtpSyncTimeout s) := by
  unfold execPtpSyncTimeout
  exact .ite (.next h) (.next (State.Inv.modRegs h.upd))

/-! ## Starts -/

theorem State.Inv.startOne (h : s.Inv b) {c m} : (s.startOne c m).Inv b := by
  unfold State.startOne
  split
  · exact h.finishDone
  · exact h.nimbusStart
  · exact h.nimbusStart
  · exact h.nimbusStart
  · exact h.nimbusStart
  · exact h.collStart
  · exact h.collStart
  · exact h.collStart
  · exact h.collStart
  · exact h.collStart
  · split
    · exact h.amorStart
    · exact h.copyStart

theorem Goes.commandStart (h : s.Inv b) : Goes b (execCommandStart s) := by
  unfold execCommandStart
  dsimp only
  split
  · exact .next h
  · exact .next h.startOne

end Sys2Proof.Machine
end

section
/-!
SUPPORT. Every step keeps the two invariants (R14, R123).
-/

namespace Sys2Proof.Machine

set_option Elab.async false

variable {b : Bool} {s t : State} {k : Core}

theorem Goes.vbcast (h : s.Inv b) {d g mk fs} : Goes b (execVbcast d g mk fs s) := by
  unfold execVbcast
  exact .elemWord h

theorem Goes.optWord (h : s.Inv b) {i x d a g mk fs f} : Goes b (optWord i x d a g mk fs f s) := by
  unfold Machine.optWord
  exact .elemWord h

theorem Goes.cpFill (h : s.Inv b) {k q x} : Goes b (execCpFill k q x s) := by
  unfold execCpFill
  exact .engineWord h

theorem Goes.cpLink (h : s.Inv b) {k q} : Goes b (execCpLink k q s) := by
  unfold execCpLink
  exact .engineWord h

theorem Goes.cpTileTo (h : s.Inv b) {k q x} : Goes b (execCpTileTo k q x s) := by
  unfold execCpTileTo
  exact .engineWord h

theorem Goes.cpTileFrom (h : s.Inv b) {k q x} : Goes b (execCpTileFrom k q x s) := by
  unfold execCpTileFrom
  exact .engineWord h

/-- What each word and each event of the table keeps. -/
theorem Goes.exec (h : s.Inv b) (i : Instr) : Goes b (exec i s) := by
  cases i with
  | nop | nopX => exact .issued h h
  | add | sub | and | or | xor | andn | shl | shr | sha | rol | min | max | minn | maxn | clz | ctz | popc | sext | zext |
    addsh | sel | addi | andi | ori | xori | shli | shri | shai | li | lih | cmpEq | cmpNe | cmpLt | cmpLe | cmpLtn | cmpLen |
    cmpiEq | cmpiNe | cmpiLt | cmpiLe | cmpiLtn | cmpiLen => exact .alu h
  | vfma | vfms | vfnma => exact .elemWord h
  | vadd => show Goes b (execVadd _ _ _ _ _ s); exact .elemWord h
  | vsub => show Goes b (execVsub _ _ _ _ _ s); exact .elemWord h
  | vmul => show Goes b (execVmul _ _ _ _ _ s); exact .elemWord h
  | vmin => show Goes b (execVmin _ _ _ _ _ s); exact .elemWord h
  | vmax => show Goes b (execVmax _ _ _ _ _ s); exact .elemWord h
  | vunNeg => show Goes b (execVunNeg _ _ _ _ s); exact .elemWord h
  | vunAbs => show Goes b (execVunAbs _ _ _ _ s); exact .elemWord h
  | vunRcp => show Goes b (execVunRcp _ _ _ _ s); exact .elemWord h
  | vunRsq => show Goes b (execVunRsq _ _ _ _ s); exact .elemWord h
  | vunSqrt => show Goes b (execVunSqrt _ _ _ _ s); exact .elemWord h
  | vunExp2 => show Goes b (execVunExp2 _ _ _ _ s); exact .elemWord h
  | vunLog2 => show Goes b (execVunLog2 _ _ _ _ s); exact .elemWord h
  | vunTanh => show Goes b (execVunTanh _ _ _ _ s); exact .elemWord h
  | vunSigm => show Goes b (execVunSigm _ _ _ _ s); exact .elemWord h
  | vunNot => show Goes b (execVunNot _ _ _ _ s); exact .elemWord h
  | vand => show Goes b (execVand _ _ _ _ _ s); exact .elemWord h
  | vor => show Goes b (execVor _ _ _ _ _ s); exact .elemWord h
  | vxor => show Goes b (execVxor _ _ _ _ _ s); exact .elemWord h
  | vshl => show Goes b (execVshl _ _ _ _ _ s); exact .elemWord h
  | vshr => show Goes b (execVshr _ _ _ _ _ s); exact .elemWord h
  | vsha => show Goes b (execVsha _ _ _ _ _ s); exact .elemWord h
  | vbcast => exact .vbcast h
  | vscalex => show Goes b (execVscalex _ _ _ _ _ s); exact .elemWord h
  | vmom1 => show Goes b (execVmom1 _ _ _ _ _ s); exact .optWord h
  | vmom2 => show Goes b (execVmom2 _ _ _ _ _ s); exact .optWord h
  | vadstep => show Goes b (execVadstep _ _ _ _ _ s); exact .optWord h
  | cpLinkFold | cpLinkCrc => exact .engineWord h
  | cpCopy => show Goes b (execCpCopy _ _ s); exact .engineWord h
  | cpSumFold => show Goes b (execCpSumFold _ _ _ s); exact .engineWord h
  | cpSumCrc => show Goes b (execCpSumCrc _ _ _ s); exact .engineWord h
  | cpFill => exact .cpFill h
  | cpLink => exact .cpLink h
  | cpTileTo => exact .cpTileTo h
  | cpTileFrom => exact .cpTileFrom h
  | cqArm => show Goes b (execCqArm _ _ s); exact .engineWord h
  | cntAdd => show Goes b (execCntAdd _ _ s); exact .engineWord h
  | cntWait => show Goes b (execCntWait _ _ s); exact .engineWord h
  | rlInv => show Goes b (execRlInv _ _ s); exact .engineWord h
  | mul | mulh | mulhn | div | divn | rem | remn | shapeQry => exact .aluLater h
  | amoAdd | amoMin | amoMax | amoOr | amoAnd | amoXchg | amoCas => exact .amoWord h
  | amorAdd | amorMin | amorMax | amorOr | amorAnd | amorXchg | amorCas => exact .amorWord h
  | vcmpEq | vcmpNe | vcmpLt | vcmpLe | vcmpGt | vcmpGe | vcmpUo => exact .cmpWord h
  | lbreak | lbreakA | lbreakX | lbreakAX => exact .breakWord h
  | mlogAnd | mlogOr | mlogXor => exact .maskWord h
  | mlogNot => show Goes b (execMlogNot _ _ s); exact .maskWord h
  | brT | brZ | brA => exact .branchWord h
  | csrw | csrs | csrc => exact .csrWriteWord h
  | probeR | probeW | probeRw => exact .probeWord h
  | cmoClean | cmoInv | cmoClinv => exact .cmoWord h
  | vredSum | vredMax | vredMin => exact .redWord h
  | mxMma | mxMmat | mxMmac => exact .mxWord h
  | loop | loopX => exact .loopWord h
  | hbload | hbstore => exact .slotWord h
  | lds | lsg => exact .scalarLoad h
  | markL | markW => exact .markWord h
  | sts | ssg => exact .scalarStore h
  | waitk => exact .waitk h
  | waitkX => exact .waitWord h
  | pbr => exact .pbr h
  | pbrg => exact .pbrg h
  | call => exact .call h
  | ret => exact .ret h
  | trap => exact .trap h
  | rett => exact .rett h
  | csrr => exact .csrr h
  | yield => exact .yield h
  | unpin => exact .unpin h
  | realign => exact .realign h
  | phase => exact .phase h
  | domsync => exact .domsync h
  | stepadv => exact .stepadv h
  | klaunch => exact .klaunch h
  | kend => exact .kend h
  | tkZero => exact .tkZero h
  | tkJoin => exact .tkJoin h
  | tkTest => exact .tkTest h
  | shapeAlloc => exact .shapeAlloc h
  | shapeFree => exact .shapeFree h
  | shapeCut => exact .shapeCut h
  | shapeChain => exact .shapeChain h
  | cbset => exact .cbset h
  | cbclr => exact .cbclr h
  | hseed => exact .hseed h
  | nbqr => exact .nbqr h
  | nbrot => exact .nbrot h
  | nbcarry => exact .nbcarry h
  | nbswitch => exact .nbswitch h
  | ld => exact .ld h
  | ldgStride => exact .ldgStride h
  | ldgGather => exact .ldgGather h
  | lda => exact .lda h
  | chka => exact .chka h
  | ldb => exact .ldb h
  | ldacq => exact .ldacq h
  | ltv => exact .ltv h
  | laSet => exact .laSet h
  | laAdd => exact .laAdd h
  | laAddg => exact .laAddg h
  | verchk => exact .verchk h
  | st => exact .st h
  | stxStride => exact .stxStride h
  | stxScatter => exact .stxScatter h
  | stt => exact .stt h
  | strel => exact .strel h
  | fence => exact .fence h
  | waSet => exact .waSet h
  | waAdd => exact .waAdd h
  | waAddg => exact .waAddg h
  | cqPost => exact .cqPost h
  | vsel => exact .vsel h
  | vcvt => exact .vcvt h
  | vcvts => exact .vcvts h
  | vcadd => exact .vcadd h
  | vcsplit => exact .vcsplit h
  | vqdx => exact .vqdx h
  | vdqdx => exact .vdqdx h
  | vperm => exact .vperm h
  | vrote => exact .vrote h
  | viota => exact .viota h
  | vrng => exact .vrng h
  | mlogPopc => exact .mlogPopc h
  | dqpush => exact .dqpush h
  | dqdrain => exact .dqdrain h
  | vaccrd => exact .vaccrd h
  | vaccwr => exact .vaccwr h
  | mxZero => exact .mxZero h
  | mxDrain => exact .mxDrain h
  | mxLacc => exact .mxLacc h
  | cResultLands => exact .cResultLands h
  | xResultLands => exact .xResultLands h
  | loadLands => exact .loadLands h
  | plbRefill => exact .plbRefill h
  | ldbFillDone => exact .ldbFillDone h
  | sttComplete => exact .sttComplete h
  | blockCacheEviction => exact .blockCacheEviction h
  | rdcEviction => exact .rdcEviction h
  | homeEviction => exact .homeEviction h
  | ldacqComplete => exact .ldacqComplete h
  | strelComplete => exact .strelComplete h
  | verchkComplete => exact .verchkComplete h
  | cmoComplete => exact .cmoComplete h
  | amoPerformed => exact .amoPerformed h
  | amorArrival => show Goes b (execAmorArrival s); exact .amorArrival h
  | amorAck => exact .amorAck h
  | ackTimeout => exact .ackTimeout h
  | commandStart => exact .commandStart h
  | consumedTokenFailed => exact .consumedTokenFailed h
  | copyComplete => exact .copyComplete h
  | linkWriteArrival => show Goes b (execLinkWriteArrival s); exact .linkWriteArrival h
  | linkAck => exact .linkAck h
  | nimbusComplete => exact .nimbusComplete h
  | nbqrBasisWrite => exact .nbqrBasisWrite h
  | slotTransferComplete => exact .slotTransferComplete h
  | cqPostAppended => exact .cqPostAppended h
  | cntWaitReached => exact .cntWaitReached h
  | klaunchComplete => exact .klaunchComplete h
  | kendComplete => exact .kendComplete h
  | probeComplete => exact .probeComplete h
  | stepSwitch => exact .stepSwitch h
  | realignRelease => exact .realignRelease h
  | domsyncComplete => exact .domsyncComplete h
  | domsyncArrival => exact .domsyncArrival h
  | allocatorServe => exact .allocatorServe h
  | cellsLive => exact .cellsLive h
  | shapeReport => exact .shapeReport h
  | drainPoint => exact .drainPoint h
  | drainReport => exact .drainReport h
  | commandArrival => exact .commandArrival h
  | matrixCommandStart => exact .matrixCommandStart h
  | laccStart => exact .laccStart h
  | outputRowLands => exact .outputRowLands h
  | matrixCommandFinish => exact .matrixCommandFinish h
  | faultReportArrival => exact .faultReportArrival h
  | rettResume => exact .rettResume h
  | replayRestart => exact .replayRestart h
  | preqReq => exact .preqReq h
  | preqRes => exact .preqRes h
  | preqEnd => exact .preqEnd h
  | preemptionPoint => exact .preemptionPoint h
  | preemptDeadline => exact .preemptDeadline h
  | saveComplete => exact .saveComplete h
  | restoreComplete => exact .restoreComplete h
  | contextEnd => exact .contextEnd h
  | mailboxPost => exact .mailboxPost h
  | mailboxCancel => exact .mailboxCancel h
  | mailboxResume => exact .mailboxResume h
  | launchSelect => exact .launchSelect h
  | launchStart => exact .launchStart h
  | freeCellReport => exact .freeCellReport h
  | entryFire => exact .entryFire h
  | entryStart => exact .entryStart h
  | chunkArrival => show Goes b (execChunkArrival s); exact .chunkArrival h
  | signalArrival => exact .signalArrival h
  | entryComplete => exact .entryComplete h
  | flitReceive => exact .flitReceive h
  | portTrained => exact .portTrained h
  | chargeBalanceWindow => exact .chargeBalanceWindow h
  | windowEnd => exact .windowEnd h
  | packagePhaseBoundary => exact .packagePhaseBoundary h
  | clockStep => exact .clockStep h
  | telemetrySample => exact .telemetrySample h
  | ptpSync => exact .ptpSync h
  | ptpSyncTimeout => exact .ptpSyncTimeout h
  | correctableError => exact .correctableError h
  | uncorrectableError => exact .uncorrectableError h
  | deviceReset => exact .deviceReset
  | dieResetGo => exact .dieResetGo h
  | dieResetFenced => exact .dieResetFenced h
  | dieResetDeadline => exact .dieResetDeadline h
  | dieResetCleared => exact .dieResetCleared h
  | functionReady => exact .functionReady h
  | tinv => exact .tinv h
  | tinvComplete => exact .tinvComplete h
  | dbfc => exact .dbfc h
  | qpctlOpen => exact .qpctlOpen h
  | resync => show Goes b (execResync s); exact .resync h
  | loadimg => exact .loadimg h
  | unloadimg => exact .unloadimg h
  | ackend => exact .ackend h
  | clrarr => exact .clrarr h
  | fwstage => exact .fwstage h
  | attest => exact .attest h
  | mgmtCommandComplete => exact .mgmtCommandComplete h
  | bar2Read => exact .bar2Read h
  | bar2Write => exact .bar2Write h
  | registerWrite => exact .registerWrite h
  | illegalEncoding => exact .illegalEncoding h
  | replayPoint => exact .replayPoint h
  | uncachedStorePerformed => exact .uncachedStorePerformed h
  | hostPortLinkDown => exact .hostPortLinkDown h

/-! ## The word whose turn it is -/

theorem Goes.issueWord (h : s.Inv b) {x} : Goes b (s.issueWord x) := by
  unfold State.issueWord
  split
  · exact .exec h _
  · refine .ite (.next (.ite h.raise ?_)) (.ite (.next (.ite h.raise h)) (.ite (.next h.raise) (.ite (.next h.raise)
      (.ite (.next h.raise) (.exec h _)))))
    exact State.Inv.issued h.of_eq h.of_eq

/-! ## The end of a cycle -/

theorem Core.Inv.passed (h : k.Inv b) {n m} : ((k.seeTokens n).passMarks m).Inv b := h.seeTokens.passMarks

theorem State.Inv.closeCore (h : s.Inv b) {c} : (s.closeCore c).Inv b := (h.modCore fun _ hk => hk.passed).takeTrap

theorem State.Inv.periodic (h : s.Inv b) : s.periodic.Inv b := .ite (State.Inv.foldl (fun _ _ hs => hs.reportCells) _ h) h

theorem State.Inv.reportNimbus (h : s.Inv b) : s.reportNimbus.Inv b := by
  unfold State.reportNimbus
  exact .ite h (State.Inv.at_ h.upd)

theorem State.Inv.refills (h : s.Inv b) {c cl} : (s.refills c cl).Inv b := by
  unfold State.refills
  dsimp only
  split
  · exact h
  · exact .ite h (.ite h.enterPages (State.Inv.foldl (fun _ _ hs => hs.later) _ h))

theorem State.Inv.endCycle (h : s.Inv b) : s.endCycle.Inv b := by
  unfold State.endCycle
  extract_lets u v w x
  have hu : u.Inv b := (State.Inv.foldl (fun _ _ hs => hs.closeCore) _ h).reportNimbus.watch
  clear_value u
  have hv : v.Inv b := hu.each (f := Core.nextCycle u.nextId) (fun _ hk => hk.of_eq) (fun _ => rfl) rfl
  clear_value v
  have hx : x.Inv b := State.Inv.foldl
    (fun _ _ hs => .ite (State.Inv.foldl (fun _ _ hs => hs.refills) _ hs) hs) _ hv.periodic
  clear_value x
  exact hx.unbound.upd

/-! ## One step -/

theorem Goes.waiting (h : s.Inv b) : Goes b s.waiting := by
  unfold State.waiting
  split
  · exact .exec h.of_eq _
  · exact .next h.endCycle

theorem Goes.otherwise (h : s.Inv b) : Goes b s.otherwise := by
  unfold State.otherwise
  split
  · exact .ite (.exec h.of_eq _) (.waiting h)
  · exact .waiting h

theorem Goes.step (h : s.Inv b) : Goes b (step s) := by
  unfold Machine.step State.advance
  split
  · exact .issueWord h.of_eq
  · split
    · exact .ite (.exec h.of_eq _) (.otherwise h)
    · exact .otherwise h

/-- Settles O57: every word, event and end of a cycle keeps each core's registers whole and its tables rising, and so does the
step that chooses among them. -/
theorem lanesAndTables : Obligations.LanesAndTables :=
  ⟨fun _ _ h e => State.inv_lanes.1 (Goes.step (State.inv_lanes.2 h) _ e),
    fun _ _ h e => State.inv_tables.1 (Goes.step (State.inv_tables.2 h) _ e)⟩

end Sys2Proof.Machine
end

section
/-!
SUPPORT. The branches, calls and returns of C (R96-R101).
-/

namespace Sys2Proof.Machine

/-! ## Branch targets and branches (R96-R98, R101) -/

theorem issued_setB (s : State) (u : Cluster) (b : Fin 8) (t : BitVec 16) (h : s.goesTo u) :
    s.issued (setB b t) = (setB b t s).settle u 0 := s.issued_modMe u _ h rfl rfl

/-- The body of a level holds a word (R101). -/
def Loop.bodyHas (l : Loop) (t : BitVec 16) : Prop := l.start ≤ t ∧ t.toNat ≤ l.stop

/-- A branch to `t` leaves the level: the word lies outside its body, or outside that of an active level 0 (R101). -/
theorem Loop.leaves_iff (l o : Loop) (t : BitVec 16) :
    (l.active && ((o.active && !(decide (o.start ≤ t) && decide (t.toNat ≤ o.stop)))
        || !(decide (l.start ≤ t) && decide (t.toNat ≤ l.stop)))) = true
      ↔ l.active = true ∧ ¬(l.bodyHas t ∧ (o.active = true → o.bodyHas t)) := by
  unfold Loop.bodyHas
  simp only [Bool.and_eq_true, Bool.or_eq_true, Bool.not_eq_true', ← Bool.not_eq_true, decide_eq_true_eq]
  tauto

/-- A taken branch keeps a level as it is, or leaves it inactive (R101). -/
theorem Cluster.branch_loop (u : Cluster) (t : BitVec 16) (lv : Fin 2) :
    let l := u.loops[lv]
    let o := u.loops[(0 : Fin 2)]
    (((u.branch t).loops[lv]).active = true ↔ l.active = true ∧ l.bodyHas t ∧ (o.active = true → o.bodyHas t))
      ∧ (((u.branch t).loops[lv]).active = true → (u.branch t).loops[lv] = l) := by
  unfold Cluster.branch
  dsimp only
  rw [getElem_vmap]
  split
  · next h =>
    obtain ⟨-, hk⟩ := (Loop.leaves_iff ..).1 h
    exact ⟨⟨fun e => absurd e Bool.false_ne_true, fun e => absurd e.2 hk⟩, fun e => absurd e Bool.false_ne_true⟩
  · next h =>
    rw [Loop.leaves_iff] at h
    exact ⟨⟨fun ha => ⟨ha, Classical.not_not.1 fun hk => h ⟨ha, hk⟩⟩, And.left⟩, fun _ => rfl⟩

theorem branchWord_invalid (s : State) (b : Fin 8) (taken : Bool) (h : s.me.b[b].valid = false) :
    branchWord b taken s = .next s.illegal := by
  simp only [branchWord, h, Bool.not_false, if_true]

theorem branchWord_taken (s : State) (b : Fin 8) (h : s.me.b[b].valid = true) :
    branchWord b true s = .next (s.jumped s.me.b[b].target (s.bubbles s.me.b[b])) := by
  simp only [branchWord, h, Bool.not_true, Bool.false_eq_true, if_false, if_true]

theorem branchWord_not_taken (s : State) (u : Cluster) (b : Fin 8) (hu : s.goesTo u) (h : s.me.b[b].valid = true) :
    branchWord b false s = .next (s.settle u 0) := by
  simp only [branchWord, h, s.issued_id u hu, Bool.not_true, Bool.false_eq_true, if_false]

/-! ## The return stack (R99, R100) -/

/-- Entries read back are those written. -/
theorem unpackRs_packRs (l : List (BitVec 16)) : unpackRs (packRs l) l.length = l := by
  induction l with
  | nil => rfl
  | cons x r ih =>
    have hx := x.isLt
    rw [List.length_cons, packRs, unpackRs, show (x.toNat + 65536 * packRs r) / 65536 = packRs r by omega, ih]
    congr 1
    apply BitVec.eq_of_toNat_eq
    rw [BitVec.toNat_ofNat]
    omega

theorem execCall_push (s : State) (b : Fin 8) (hv : s.me.b[b].valid = true) (h : s.me.rs.length < 16) :
    execCall b s = .next ((s.modMe fun k => { k with rs := k.rs ++ [s.clu.pc + 1] }).settle
      { s.clu with pc := s.me.b[b].target } (s.bubbles s.me.b[b])) := by
  simp only [execCall, hv, h, Bool.not_true, Bool.false_eq_true, if_false, if_true]

theorem execCall_spill (s t : State) (b : Fin 8) (x : Nat) (hv : s.me.b[b].valid = true) (h : ¬ s.me.rs.length < 16)
    (hs : s.me.sc ≠ 4096) (hw : s.engineWrite s.csr.cid (s.spillAt s.me.sc) 16 (packRs (s.me.rs.take 8)) s.stamp = (t, .inl x)) :
    execCall b s = .next (((t.modMe fun k => { k with rs := k.rs.drop 8, sc := k.sc + 1 }).modMe fun k =>
      { k with rs := k.rs ++ [s.clu.pc + 1] }).chosen.settle { s.clu with pc := s.me.b[b].target }
        (s.bubbles s.me.b[b] + s.choices.headD 0)) := by
  unfold execCall
  simp only [hv, h, hs, hw, Bool.not_true, Bool.false_eq_true, if_false]

theorem execRet_pop (s : State) (below : List (BitVec 16)) (top : BitVec 16) (h : s.me.rs = below ++ [top]) :
    execRet s = .next ((s.modMe fun k => { k with rs := below }).settle { s.clu with pc := top } 1) := by
  unfold execRet
  simp only [h, List.getLast?_concat]
  have hm : (s.modMe fun k => { k with rs := k.rs.dropLast }) = s.modMe fun k => { k with rs := below } :=
    congrArg (s.setCore s.turn.core) (by dsimp only; rw [show (s.core s.turn.core).rs = below ++ [top] from h, List.dropLast_concat])
  rw [hm]

theorem execRet_fill (s t : State) (es : List (BitVec 16)) (top : BitVec 16) (h : s.me.rs = []) (hs : s.me.sc ≠ 0)
    (hl : es.length = 7)
    (hr : s.engineRead s.csr.cid (s.spillAt (s.me.sc - 1)) 16 = (t, .inl (packRs (es ++ [top])))) :
    execRet s = .next ((t.modMe fun q => { q with rs := es, sc := q.sc - 1 }).chosen.settle { s.clu with pc := top }
      (1 + s.choices.headD 0)) := by
  have hu : unpackRs (packRs (es ++ [top])) 8 = es ++ [top] := by
    have h8 : (es ++ [top]).length = 8 := by rw [List.length_append, hl]; rfl
    rw [← h8]
    exact unpackRs_packRs _
  unfold execRet
  simp only [h, hs, hr, hu, List.getLast?_nil, if_false]
  simp [← hl]

theorem execPbr_inside (s : State) (u : Cluster) (b : Fin 8) (off : BitVec 18) (t : BitVec 16) (hu : s.goesTo u)
    (h : (t.toNat : Int) = s.clu.pc.toNat + off.toInt) : execPbr b off s = .next ((setB b t s).settle u 0) := by
  have ht := t.isLt
  unfold execPbr
  dsimp only
  rw [← h, if_pos (by omega), BitVec.ofInt_natCast, BitVec.ofNat_toNat, BitVec.setWidth_eq, issued_setB s u b t hu]

theorem execPbrg_inside (s : State) (u : Cluster) (b : Fin 8) (a : Fin 64) (t : BitVec 16) (hu : s.goesTo u)
    (h : (s.rg a).toNat = t.toNat) : execPbrg b a s = .next ((setB b t s).settle u 0) := by
  have ht := t.isLt
  have hx : (s.rg a).extractLsb' 0 16 = t := by
    apply BitVec.eq_of_toNat_eq
    rw [BitVec.extractLsb'_toNat, h]
    simpa using ht
  unfold execPbrg
  dsimp only
  rw [if_pos (by omega), hx, issued_setB s u b t hu]

/-- Settles O10: each word by its cases, and a taken branch's loops by what it keeps of a level. -/
theorem branchesAndCalls : Obligations.BranchesAndCalls := by
  refine ⟨fun s u b off a hu => ?_, ?_, fun s b => ?_⟩
  · refine ⟨fun t h => execPbr_inside s u b off t hu h, fun h => ?_, fun t h => execPbrg_inside s u b a t hu h, fun h => ?_⟩
    · exact if_neg (by omega)
    · exact if_neg (by omega)
  · intro s u b a hu r l holds spec
    have branch {taken : Bool} {p : Prop} (hp : taken = true ↔ p) : spec (branchWord b taken s) p := by
      refine ⟨fun hv h => ?_, fun hv h => ?_, branchWord_invalid s b taken⟩
      · obtain ⟨h0, k0⟩ := s.clu.branch_loop r.target 0
        obtain ⟨h1, k1⟩ := s.clu.branch_loop r.target 1
        rw [hp.2 h, branchWord_taken s b hv]
        refine ⟨_, rfl, rfl, h0.trans ?_, h1, fun lv => (s.clu.branch_loop r.target lv).2⟩
        exact and_congr_right fun ha => ⟨And.left, fun hb => ⟨hb, fun _ => hb⟩⟩
      · rw [Bool.eq_false_iff.2 fun e => h (hp.1 e), branchWord_not_taken s u b hu hv]
    exact ⟨branch (by simp), branch bne_iff_ne, branch beq_iff_eq⟩
  · refine ⟨execCall_push s b, fun hv h16 hs t x hw => ⟨_, execCall_spill s t b x hv (by omega) (by omega) hw⟩, fun hv h hs => ?_,
      fun hv => ?_, fun top below => execRet_pop s below top, fun h hs t es top hl hr => ⟨_, execRet_fill s t es top h (by omega) hl hr⟩, fun h hs => ?_⟩
    · exact (if_neg (by simp only [hv]; decide)).trans ((if_neg (Nat.not_lt.2 h)).trans (if_pos hs))
    · exact if_pos (by simp only [hv]; decide)
    · change execRet s = _
      simp only [execRet, h, hs, List.getLast?_nil, if_true]
      rfl

end Sys2Proof.Machine
end

section
/-!
SUPPORT. TRAP, the entry of a handler and the return from it (R109, R110, R317-R322).
-/

namespace Sys2Proof.Machine

/-! ## TRAP and RETT (R109, R110) -/

theorem Core.raise_of_none (k : Core) (r : TrapReq) (h : k.trap = none) : k.raise r = { k with trap := some r } := by
  unfold Core.raise
  rw [h]

theorem State.modMe_congr (s : State) {f g : Core → Core} (h : f s.me = g s.me) : s.modMe f = s.modMe g :=
  congrArg (s.setCore s.turn.core) h

theorem State.issued_goesTo (s : State) (u : Cluster) (f : State → State) (h : (f s).goesTo u) :
    s.issued f = (f s).settle u 0 := by
  unfold State.issued State.issuedFrom
  rw [show (f s).clu.next (f s).csr.req = some u from h]

/-- A word that issues and traps (R109). -/
theorem State.issued_raise (s : State) (u : Cluster) (r : TrapReq) (h : s.goesTo u) (ht : s.me.trap = none) :
    s.issued (fun t => t.modMe (·.raise r)) = (s.modMe fun k => { k with trap := some r }).settle u 0 := by
  rw [s.issued_modMe u (·.raise r) h rfl rfl, s.modMe_congr (f := (·.raise r)) (g := fun k => { k with trap := some r }) (s.me.raise_of_none r ht)]

/-! ## Taking a trap with a handler (R317-R321) -/

theorem replayable_of_handled {n : Nat} (h : handled n = true) : replayable n = false := by
  simp only [handled, List.contains_iff_mem, List.mem_cons, List.not_mem_nil, or_false] at h
  rcases h with h | h | h | h | h | h | h | h | h <;> subst h <;> rfl

theorem State.takeTrap_handler (s : State) (c : Fin 64) (r : TrapReq) (hr : (s.core c).trap = some r)
    (hl : (s.core c).live = true) (hs : (s.core c).saving = false) (hn : (s.core c).shadow = none)
    (hh : handled r.cause = true) (hv : (s.core c).vis.csr.trapvec.extractLsb' 0 16 ≠ 0) :
    s.takeTrap c = s.modCore c fun k => k.enterHandler r (s.zc + 1) s.nextId := by
  have hst : (s.core c).st ≠ .suspended := fun e => by simp [Core.live, e] at hl
  have hv : ((s.core c).vis.csr.trapvec.extractLsb' 0 16 != 0) = true := bne_iff_ne.2 hv
  unfold State.takeTrap
  simp only [hr, hl, hs, hn, hh, hv, hst, replayable_of_handled hh, Bool.not_true, Option.isSome_none, Bool.false_eq_true,
    Bool.and_true, if_false, if_true]

/-- The core as the cut finds it: after a version mismatch L stands at the word behind its VERCHK (R317). -/
def Core.atCut (k : Core) (r : TrapReq) : Core := if r.cause = causeVersion then k.pastVerchk else k

/-- A VERCHK that issues again leaves the CUT words as they were: its cluster is held at it. -/
theorem Core.cuts_dropVerchk (k : Core) : k.dropVerchk.cuts = k.cuts := by
  have hpc (cl : Cl) : (k.dropVerchk.clus[clIx cl]).pc = (k.clus[clIx cl]).pc := by
    unfold Core.dropVerchk
    dsimp only
    rw [getElem_vmap]
    split <;> rfl
  unfold Core.cuts
  simp only [hpc]
  rfl

/-- The cut moves at most the clusters and what holds them. -/
theorem Core.cut_eq (k : Core) (r : TrapReq) : ∃ v y, (k.atCut r).dropVerchk = { k with clus := v, syncs := y } := by
  unfold Core.atCut
  split
  · exact ⟨_, _, rfl⟩
  · exact ⟨_, _, rfl⟩

/-- A core that was `a` at its cut when its handler starts (R318-R321). -/
def Core.inHandler (a : Core) (r : TrapReq) (n i : Nat) : Core :=
  let tv := a.vis.csr.trapvec
  { a with
    vis := { a.vis with
      csr := { a.vis.csr with cut := a.cuts, trapcause := r.causeWord, trappc := r.pcWord }
      sh := vmap (fun h => if h = .free then .free else .frozen) a.vis.sh
      ring := Vector.replicate 8 0 }
    shape := vmap (fun h => { h with held := true }) a.shape
    trap := none
    frozen := a.vis.csr.accmask
    shadow := some ⟨a.clus, a.vis.ring, a.rs, a.sc, a.vis.csr.accmask, a.vis.sh, i, r.cause⟩
    rs := []
    sc := 0
    clus := #v[Cluster.handler (tv.extractLsb' 0 16) n, Cluster.handler (tv.extractLsb' 16 16) n,
      Cluster.handler (tv.extractLsb' 32 16) n, Cluster.handler (tv.extractLsb' 48 16) n] }

/-- Each cluster's handler word is its field of TRAPVEC (R28). -/
theorem Core.inHandler_clus (a : Core) (r : TrapReq) (n i : Nat) (cl : Cl) :
    (a.inHandler r n i).clus[clIx cl] = Cluster.handler (a.vis.csr.trapvec.extractLsb' (16 * cl.code) 16) n := by
  cases cl <;> rfl

theorem Core.inHandler_ring (a : Core) (r : TrapReq) (n i : Nat) (j : Fin 8) : (a.inHandler r n i).vis.ring[j] = 0 :=
  Vector.getElem_replicate ..

theorem Core.inHandler_sh (a : Core) (r : TrapReq) (n i : Nat) (h : Fin 8) :
    (a.inHandler r n i).vis.sh[h] = if a.vis.sh[h] = .free then .free else .frozen := getElem_vmap ..

theorem Core.inHandler_shape (a : Core) (r : TrapReq) (n i : Nat) (h : Fin 8) :
    (a.inHandler r n i).shape[h] = { a.shape[h] with held := true } := getElem_vmap ..

theorem Core.enterHandler_eq (k : Core) (r : TrapReq) (n i : Nat) :
    k.enterHandler r n i = (k.atCut r).dropVerchk.inHandler r n i := by
  unfold Core.enterHandler Core.stopAtCut Core.cutHere Core.noteCause Core.modVis Core.freeze Core.inHandler Core.atCut
  dsimp only

/-- Of the queues of a core none holds a command whose σ has passed. -/
theorem Core.missHeld_of_ahead (k : Core) (n : Nat) (h : ∀ g : Fin 8, ∀ m ∈ k.shape[g].queue, m.started = true ∨ n < m.sigma) :
    k.missHeld n = k := by
  have ho : k.overdue n = none := by
    refine List.findSome?_eq_none_iff.2 fun g _ => Option.map_eq_none_iff.2 (List.find?_eq_none.2 fun m hm => ?_)
    rcases h g m hm with hs | hs
    · simp [hs]
    · simp [hs]
  unfold Core.missHeld
  rw [ho]

theorem Core.leaveHandler_of (k : Core) (h : Shadow) (n : Nat) (e : k.shadow = some h) :
    k.leaveHandler n =
      { k with
        shadow := none
        frozen := 0
        clus := vmap (fun u => { u with nextAt := max u.nextAt n }) h.clus
        rs := h.rs
        sc := h.sc
        shape := vmap (fun g => { g with held := false }) k.shape
        cmds := k.cmds.map fun m => if m.started then m else { m with at_ := max m.at_ (n - 1) }
        vis := { k.vis with
          ring := h.ring
          csr := { k.vis.csr with accmask := h.accmask }
          sh := Vector.ofFn fun i : Fin 8 => if k.vis.sh[i] = .frozen then h.sh[i] else k.vis.sh[i] } } := by
  unfold Core.leaveHandler
  rw [e]

/-- A return whose handler owns no shape restores the core alone (R322). -/
theorem execRettResume_of (s : State) (hr : (s.core s.ev.core).rettReady = true) (ho : (s.core s.ev.core).ownShapes = []) :
    execRettResume s = .next (s.modCore s.ev.core fun k => (k.leaveHandler (s.zc + 1)).missHeld s.zc) := by
  unfold execRettResume
  simp only [hr, ho, Bool.not_true, List.any_nil, Bool.false_or, Bool.false_eq_true, if_false, List.isEmpty_nil, if_true, List.foldl_nil]
  rw [show (s.modCore s.ev.core fun k => { k with shape := k.shape, vis := { k.vis with sh := k.vis.sh } }) = s from
    s.setCore_core s.ev.core]

/-- Settles O11: the entry and the return are each one equation of the core, read field by field. -/
theorem trapsAndReturn : Obligations.TrapsAndReturn := by
  refine ⟨fun s u n h ht => ?_, ?_, fun s u => ⟨fun hn => ?_, fun h hs hr hg => ?_, fun h hs hr => ?_, ?_⟩⟩
  · exact congrArg _ (s.issued_raise u _ h ht)
  · intro s c r k htrap hl hs hn hh hv t l past at_
    have ht : t = at_.inHandler r (s.zc + 1) s.nextId := by
      unfold t
      rw [s.takeTrap_handler c r htrap hl hs hn hh hv, State.core_modCore, Core.enterHandler_eq]
      rfl
    have hcut : at_.cuts = past.cuts := past.cuts_dropVerchk
    obtain ⟨v, y, e⟩ := k.cut_eq r
    have ha : at_ = { k with clus := v, syncs := y } := e
    clear_value t at_
    subst ht ha
    rw [← hcut]
    refine ⟨rfl, rfl, fun cl => ?_, fun i => Core.inHandler_ring .., rfl, rfl, rfl, rfl, fun h => Core.inHandler_sh .., fun h => Core.inHandler_shape ..,
      rfl, rfl, rfl, rfl, rfl, rfl, rfl, rfl, rfl, rfl, ?_, fun d hd => ?_⟩
    · dsimp only
      rw [Core.inHandler_clus]
      exact ⟨rfl, rfl, rfl, fun lv => congrArg Loop.active (Vector.getElem_replicate ..)⟩
    · rw [s.takeTrap_handler c r htrap hl hs hn hh hv]; rfl
    · rw [s.takeTrap_handler c r htrap hl hs hn hh hv]; exact s.core_modCore_ne c d _ hd
  · change execRett s = _
    unfold execRett
    rw [hn]
    rfl
  · change execRett s = _
    unfold execRett
    rw [hs]
    dsimp only
    rw [if_pos hr, s.issued_goesTo u (·.holds .rett) hg]
  · change execRett s = _
    unfold execRett
    rw [hs]
    dsimp only
    rw [if_neg (by simp [hr])]
    rfl
  · intro k h hs hr ho hq
    refine ⟨_, execRettResume_of s hr ho, ?_, rfl, fun d hd => s.core_modCore_ne _ d _ hd⟩
    have hm : ((k.leaveHandler (s.zc + 1)).missHeld s.zc) = k.leaveHandler (s.zc + 1) := by
      refine Core.missHeld_of_ahead _ _ fun g m hm => hq g m ?_
      rw [Core.leaveHandler_of k h _ hs] at hm
      simpa only [getElem_vmap] using hm
    dsimp only
    rw [State.core_modCore, show s.core s.ev.core = k from rfl, hm, Core.leaveHandler_of k h _ hs]
    refine ⟨rfl, rfl, rfl, rfl, rfl, rfl, fun cl => getElem_vmap .., fun g => getElem_vmap .., fun g => ?_, rfl, rfl⟩
    exact Vector.getElem_ofFn ..

end Sys2Proof.Machine
end

section
/-!
SUPPORT. Basis slots, their images and their transfers (R21, R203, R208).
-/

namespace Sys2Proof.Machine

/-! ## Access words whose pages admit them (R158, R159) -/

theorem mem_spanPages {xs : List Span} {p : Nat} (h : p ∈ spanPages xs) : ∃ x ∈ xs, p ∈ pagesOf x.a x.n := by
  rw [spanPages, List.mem_dedup, List.mem_flatten] at h
  obtain ⟨l, hl, hp⟩ := h
  obtain ⟨x, hx, rfl⟩ := List.mem_map.1 hl
  exact ⟨x, (List.mem_filter.1 hx).1, hp⟩

theorem Core.unknown_eq_nil {k : Core} {cl : Cl} {ps : List Nat} (h : ∀ p ∈ ps, ∃ a, k.pageAns cl p = some a) :
    k.unknown cl ps = [] := by
  refine List.filter_eq_nil_iff.2 fun p hp => ?_
  obtain ⟨a, ha⟩ := h p hp
  simp [ha]

theorem Core.refused_eq_none {k : Core} {cl : Cl} {ps : List Nat} {n : Need}
    (h : ∀ p ∈ ps, ∃ a, k.pageAns cl p = some a ∧ a.meets n = true) : k.refused cl ps n = none := by
  refine List.findSome?_eq_none_iff.2 fun p hp => ?_
  obtain ⟨a, ha, hm⟩ := h p hp
  rw [ha]
  cases a with
  | none => exact absurd hm Bool.false_ne_true
  | page r w u => exact if_pos hm

/-- An access word that its pages admit does what it does. -/
theorem State.access_of_admits (s : State) (i : Instr) (go : State) (h : s.admits i) : s.access (s.spans i) go = go := by
  have hp {p : Nat} (hp : p ∈ spanPages (s.spans i)) : s.dieBusy (homeDie (p * 2 ^ 21)).val = false
      ∧ ∃ a, s.me.pageAns s.turn.cl p = some a := by
    obtain ⟨x, hx, hpx⟩ := mem_spanPages hp
    obtain ⟨hb, a, ha, -⟩ := (h x hx).2 p hpx
    exact ⟨hb, a, ha⟩
  have hr : s.refusal (s.spans i) = none := by
    refine List.findSome?_eq_none_iff.2 fun x hx => ?_
    rw [Core.refused_eq_none fun p hpx => ((h x hx).2 p hpx).2]
    rfl
  unfold State.access
  rw [if_neg, if_neg, if_neg, hr]
  · rw [Core.unknown_eq_nil fun p h => (hp h).2]; decide
  · rw [List.any_eq_false.2 fun p h => by rw [(hp h).1]; decide]; decide
  · rw [List.all_eq_true.2 fun x hx => (h x hx).1]; decide

/-! ## The image of a slot (R21) -/

theorem ofNat_eq_of_mod {w : Nat} {x : BitVec w} {n : Nat} (h : n % 2 ^ w = x.toNat) : BitVec.ofNat w n = x :=
  BitVec.eq_of_toNat_eq (by rw [BitVec.toNat_ofNat, h])

theorem Slot.ofImage_image (x : Slot) : Slot.ofImage x.image = x := by
  obtain ⟨boff, rows, rank, kw, rowoff, gen, pgen, pvalid, pready, pfail, pcode, seed, swstep⟩ := x
  have h0 := boff.isLt; have h1 := rows.isLt; have h2 := rank.isLt; have h3 := kw.isLt; have h4 := rowoff.isLt
  have h5 := gen.isLt; have h6 := pgen.isLt; have h7 := pvalid.toNat_lt; have h8 := pready.toNat_lt; have h9 := pfail.toNat_lt
  have h10 := pcode.isLt; have h11 := seed.isLt; have h12 := swstep.isLt
  have hb (p : Bool) (n : Nat) (h : n % 2 = p.toNat) : (n % 2 == 1) = p := by cases p <;> simp_all
  simp only [Slot.ofImage, Slot.image, Slot.mk.injEq]
  refine ⟨ofNat_eq_of_mod ?_, ofNat_eq_of_mod ?_, ofNat_eq_of_mod ?_, ofNat_eq_of_mod ?_, ofNat_eq_of_mod ?_, ofNat_eq_of_mod ?_,
    ofNat_eq_of_mod ?_, hb _ _ ?_, hb _ _ ?_, hb _ _ ?_, ofNat_eq_of_mod ?_, ofNat_eq_of_mod ?_, ofNat_eq_of_mod ?_⟩ <;> omega

theorem Slot.ofImage_fields (n lo w : Nat) :
    let f := n / 2 ^ lo % 2 ^ w
    let x := Slot.ofImage n
    (lo = 0 → w = 19 → x.boff.toNat = f) ∧ (lo = 32 → w = 20 → x.rows.toNat = f) ∧ (lo = 64 → w = 9 → x.rank.toNat = f)
    ∧ (lo = 80 → w = 7 → x.kw.toNat = f) ∧ (lo = 96 → w = 32 → x.rowoff.toNat = f) ∧ (lo = 128 → w = 16 → x.gen.toNat = f)
    ∧ (lo = 144 → w = 16 → x.pgen.toNat = f) ∧ (lo = 160 → w = 1 → x.pvalid.toNat = f)
    ∧ (lo = 161 → w = 1 → x.pready.toNat = f) ∧ (lo = 162 → w = 1 → x.pfail.toNat = f)
    ∧ (lo = 163 → w = 8 → x.pcode.toNat = f) ∧ (lo = 176 → w = 16 → x.seed.toNat = f)
    ∧ (lo = 192 → w = 64 → x.swstep.toNat = f) := by
  have bits {l v : Nat} : lo = l → w = v → (BitVec.ofNat v (n / 2 ^ l)).toNat = n / 2 ^ lo % 2 ^ w := by
    rintro rfl rfl
    exact BitVec.toNat_ofNat ..
  have bit {l : Nat} : lo = l → w = 1 → (n / 2 ^ l % 2 == 1).toNat = n / 2 ^ lo % 2 ^ w := by
    rintro rfl rfl
    rcases Nat.mod_two_eq_zero_or_one (n / 2 ^ lo) with h | h <;> simp [h]
  exact ⟨bits, bits, bits, bits, bits, bits, bits, bit, bit, bit, bits, bits, bits⟩

/-! ## A slot transfer at issue (R208) -/

theorem slotWord_bad (op : Instr) (h : Fin 16) (a k : Fin 64) (s : State)
    (hb : (s.tok k).st = .pending ∨ (s.rg a).toNat % 32 ≠ 0 ∨ s.me.namesSlot h = true) :
    slotWord op h a k s = .next s.illegal := if_pos hb

/-- A command queued at issue changes neither the clusters nor what stood at the start of the cycle. -/
theorem State.queued_clu (s : State) (f : Core → Core) (m : Cmd) (hf : (f s.me).clus = s.me.clus) :
    ((s.modMe f).addCmd m).clu = s.clu := by
  unfold State.clu
  rw [State.addCmd_me, State.me_modMe]
  exact congrArg (·[clIx s.turn.cl]) hf

theorem State.queued_csr (s : State) (f : Core → Core) (m : Cmd) (hf : (f s.me).old = s.me.old) :
    ((s.modMe f).addCmd m).csr = s.csr := by
  unfold State.csr
  rw [State.addCmd_me, State.me_modMe]
  exact congrArg (·.csr) hf

/-- A slot transfer that no check stops is queued, and ends at an open count. -/
theorem slotWord_queued (op : Instr) (h : Fin 16) (a k : Fin 64) (s : State) (u : Cluster)
    (hb : ¬((s.tok k).st = .pending ∨ (s.rg a).toNat % 32 ≠ 0 ∨ s.me.namesSlot h = true)) (ha : s.admits op) (hu : s.goesTo u) :
    slotWord op h a k s = .next ((((s.modMe fun c => c.pend k).addCmd
        { s.newCmd op k [(s.rg a).toNat] with slot := s.me.old.slot[h], started := true }).later 1 (s.choices.headD 0)
          .slotTransferComplete ⟨s.turn.core, s.nextId, [], []⟩).settle u 0) := by
  unfold slotWord
  rw [if_neg hb, s.access_of_admits op _ ha, s.issued_of u _ hu]
  · rfl
  · exact s.queued_clu (·.pend k) _ rfl
  · exact s.queued_csr (·.pend k) _ rfl

/-! ## The basis store (R203) -/

/-- What a run of elements leaves at each place. -/
theorem srd_basisWrite {b : Sparse (BitVec 16)} (hb : Rising b) (at_ j : Nat) (xs : List Nat) :
    srd 0 j (basisWrite b at_ xs) = if at_ ≤ j ∧ j < at_ + xs.length then BitVec.ofNat 16 (xs.getD (j - at_) 0) else srd 0 j b := by
  induction xs generalizing b at_ with
  | nil => exact (if_neg (by simp)).symm
  | cons x r ih =>
    rw [basisWrite, ih (rising_sset hb)]
    by_cases e : j = at_
    · subst e
      rw [if_neg (by omega), if_pos (by simp), srd_sset hb]
      simp
    · rw [srd_sset_ne hb e, List.length_cons]
      by_cases hj : at_ + 1 ≤ j ∧ j < at_ + 1 + r.length
      · rw [if_pos hj, if_pos (by omega), show j - at_ = (j - (at_ + 1)) + 1 by omega, List.getD_cons_succ]
      · rw [if_neg hj, if_neg (by omega)]

/-- The two regions of a slot lie apart (R203). -/
theorem Slot.region_apart (x : Slot) (i j : Nat) (hi : i < x.elems) (hj : j < x.elems) :
    x.region x.gen.toNat + i ≠ x.region (x.gen.toNat + 1) + j := by
  unfold Slot.region
  change i < x.elems at hi
  rw [show x.rows.toNat * x.rank.toNat = x.elems from rfl]
  rcases Nat.mod_two_eq_zero_or_one x.gen.toNat with h | h
  · rw [h, show (x.gen.toNat + 1) % 2 = 1 by omega]; omega
  · rw [h, show (x.gen.toNat + 1) % 2 = 0 by omega]; omega

/-! ## The end of a slot transfer (R208) -/

/-- Elements `lo` onwards of what a slot's load has read (R203, R208). -/
def Slot.elemsFrom (x : Slot) (d lo : Nat) : List Nat := (List.range x.elems).map fun i => d / 2 ^ (16 * (lo + i)) % 65536

/-- The basis store with a loaded slot's regions (R208). -/
def Slot.loadInto (x : Slot) (d : Nat) (b : Sparse (BitVec 16)) : Sparse (BitVec 16) :=
  let b := basisWrite b (x.region x.gen.toNat) (x.elemsFrom d 0)
  if x.pready then basisWrite b (x.region (x.gen.toNat + 1)) (x.elemsFrom d x.elems) else b

theorem Slot.ofNat_elemsFrom (x : Slot) (d lo i : Nat) (hi : i < x.elems) :
    (BitVec.ofNat 16 ((x.elemsFrom d lo).getD i 0)).toNat = d / 2 ^ (16 * (lo + i)) % 2 ^ 16 := by
  rw [Slot.elemsFrom, List.getD_eq_getElem?_getD, List.getElem?_map, List.getElem?_range hi]
  simp

theorem Slot.length_elemsFrom (x : Slot) (d lo : Nat) : (x.elemsFrom d lo).length = x.elems := by simp [Slot.elemsFrom]

/-- What a load leaves in the slot's regions. -/
theorem Slot.srd_loadInto (x : Slot) (d : Nat) {b : Sparse (BitVec 16)} (hb : Rising b) (i : Nat) (hi : i < x.elems) :
    (srd 0 (x.region x.gen.toNat + i) (x.loadInto d b)).toNat = d / 2 ^ (16 * i) % 2 ^ 16
      ∧ (x.pready = true → (srd 0 (x.region (x.gen.toNat + 1) + i) (x.loadInto d b)).toNat
        = d / 2 ^ (16 * (x.elems + i)) % 2 ^ 16) := by
  have h1 := rising_basisWrite (a := x.region x.gen.toNat) (l := x.elemsFrom d 0) hb
  have first : (srd 0 (x.region x.gen.toNat + i) (basisWrite b (x.region x.gen.toNat) (x.elemsFrom d 0))).toNat
      = d / 2 ^ (16 * i) % 2 ^ 16 := by
    rw [srd_basisWrite hb, if_pos (by rw [x.length_elemsFrom]; omega), Nat.add_sub_cancel_left, x.ofNat_elemsFrom d 0 i hi, Nat.zero_add]
  unfold Slot.loadInto
  dsimp only
  split
  · refine ⟨?_, fun _ => ?_⟩
    · rw [srd_basisWrite h1, if_neg, first]
      rw [x.length_elemsFrom]
      intro ⟨hle, hlt⟩
      exact x.region_apart i (x.region x.gen.toNat + i - x.region (x.gen.toNat + 1)) hi (by omega) (by omega)
    · rw [srd_basisWrite h1, if_pos (by rw [x.length_elemsFrom]; omega), Nat.add_sub_cancel_left, x.ofNat_elemsFrom d _ i hi]
  · next hp => exact ⟨first, fun h => absurd h hp⟩

theorem Core.leave_vis (k : Core) (id : Nat) : (k.leave id).vis = k.vis := by unfold Core.leave; split <;> rfl
theorem Core.leave_basis (k : Core) (id : Nat) : (k.leave id).basis = k.basis := by unfold Core.leave; split <;> rfl

theorem State.core_finishDone (s : State) (c : Fin 64) (m : Cmd) (h : m.gone = false) :
    (s.finishDone c m).core c = ((s.core c).leave m.id).done m.tok none := by
  rw [State.finishDone, State.finish, State.core_modCore, if_neg (by rw [h]; decide)]

/-- A command that completes leaves its token DONE. -/
theorem State.tok_finishDone (s : State) (c : Fin 64) (m : Cmd) (h : m.gone = false) :
    ((s.finishDone c m).core c).vis.tok[m.tok] = ⟨.done, 0, none⟩ := by
  rw [s.core_finishDone c m h]
  exact Vector.getElem_set_self ..

/-- The state with a loaded slot in place (R208). -/
def State.slotLoaded (s : State) (c : Fin 64) (h : Fin 16) (x : Slot) (d : Nat) : State :=
  s.modCore c fun k =>
    { k with
      basis := x.loadInto d k.basis
      switch := k.switch.set h none
      vis := { k.vis with slot := k.vis.slot.set h x } }

theorem execSlot_load (s t w : State) (m : Cmd) (h : Fin 16) (a k : Fin 64) (img d : Nat) (hs : ¬s.drains)
    (hc : (s.core s.ev.core).cmd s.ev.id = some m) (ho : m.op = .hbload h a k)
    (hr : s.engineRead (s.core s.ev.core).vis.csr.cid (m.args.getD 0 0) 32 = (t, .inl img))
    (hw : t.engineRead (s.core s.ev.core).vis.csr.cid (m.args.getD 0 0 + 32) ((Slot.ofImage img).imageBytes - 32) = (w, .inl d)) :
    execSlotTransferComplete s = .next (if (Slot.ofImage img).imageOk = false then w.finishFail s.ev.core m 0x24
      else (w.slotLoaded s.ev.core h (Slot.ofImage img) d).finishDone s.ev.core m) := by
  unfold execSlotTransferComplete
  rw [s.served_calm _ hs]
  simp only [hc, ho, hr, hw]
  cases (Slot.ofImage img).imageOk
  · rfl
  · rfl

theorem execSlot_refused (s t : State) (m : Cmd) (h : Fin 16) (a k : Fin 64) (e : Nat × Nat) (hs : ¬s.drains)
    (hc : (s.core s.ev.core).cmd s.ev.id = some m) (ho : m.op = .hbload h a k)
    (hr : s.engineRead (s.core s.ev.core).vis.csr.cid (m.args.getD 0 0) 32 = (t, .inr e)) :
    execSlotTransferComplete s
      = .next ((t.finishFail s.ev.core m 0x10).accessEnd s.ev.core m.cl m.cl.code m.pc e.1 e.2) := by
  have hq : cmdQueue m = m.cl.code := by simp only [cmdQueue, ho, engineOf, Option.map_none, Option.getD_none]
  unfold execSlotTransferComplete
  rw [s.served_calm _ hs]
  simp only [hc, ho, hr, State.cmdRefused, hq]

/-- The bytes a store of a slot writes (R203, R208). -/
def Slot.storeBytes (x : Slot) (b : Sparse (BitVec 16)) : Nat :=
  x.image + 2 ^ 256 * bytesNat ((basisRead b (x.region x.gen.toNat) x.elems
    ++ if x.pready then basisRead b (x.region (x.gen.toNat + 1)) x.elems else []).map (natBytes 2)).flatten

theorem execSlot_store (s t : State) (m : Cmd) (h : Fin 16) (a k : Fin 64) (n : Nat) (hs : ¬s.drains)
    (hc : (s.core s.ev.core).cmd s.ev.id = some m) (ho : m.op = .hbstore h a k)
    (hw : s.engineWrite (s.core s.ev.core).vis.csr.cid (m.args.getD 0 0) m.slot.imageBytes
      (m.slot.storeBytes (s.core s.ev.core).basis)
      (stampOf (s.core s.ev.core).vis.csr.cid s.ev.core (s.core s.ev.core).seqs[(3 : Fin 15)]) = (t, .inl n)) :
    execSlotTransferComplete s = .next (t.finishDone s.ev.core m) := by
  unfold Slot.storeBytes at hw
  unfold execSlotTransferComplete
  rw [s.served_calm _ hs]
  simp only [hc, ho, hw]

/-- What a load that passes leaves: the slot, its token DONE, its regions, and memory as the reads left it. -/
theorem State.slotLoaded_spec (w : State) (c : Fin 64) (h : Fin 16) (x : Slot) (d : Nat) (m : Cmd) (hg : m.gone = false) :
    let r := (w.slotLoaded c h x d).finishDone c m
    (r.core c).vis.slot[h] = x ∧ (r.core c).vis.tok[m.tok] = ⟨.done, 0, none⟩ ∧ r.mem = w.mem
      ∧ (r.core c).basis = x.loadInto d (w.core c).basis := by
  have hv : ((w.slotLoaded c h x d).core c).vis.slot[h] = x := by
    rw [State.slotLoaded, State.core_modCore]
    exact Vector.getElem_set_self ..
  refine ⟨?_, State.tok_finishDone _ c m hg, rfl, ?_⟩
  · rw [State.core_finishDone _ c m hg]
    show (((w.slotLoaded c h x d).core c).leave m.id).vis.slot[h] = x
    rw [Core.leave_vis, hv]
  · rw [State.core_finishDone _ c m hg]
    show (((w.slotLoaded c h x d).core c).leave m.id).basis = _
    rw [Core.leave_basis, State.slotLoaded, State.core_modCore]

/-- Settles O21: the image by its places, a transfer at issue by its checks, its end by what the engine reads and writes. -/
theorem basisSlots : Obligations.BasisSlots := by
  refine ⟨⟨Slot.ofImage_image, Slot.ofImage_fields⟩, fun s u h a k => ⟨⟨slotWord_bad _ h a k s, fun hb ha hu => ?_⟩,
    slotWord_bad _ h a k s, fun hb ha hu => ?_⟩, ?_⟩
  · exact ⟨_, _, rfl, rfl, rfl, rfl, rfl, slotWord_queued _ h a k s u hb ha hu⟩
  · exact ⟨_, _, rfl, rfl, rfl, rfl, rfl, slotWord_queued _ h a k s u hb ha hu⟩
  · intro s t w m h a k img d e c q cid base x hb hc hg hs old new
    refine ⟨fun ho hr hw => ?_, fun ho hr => execSlot_refused s t m h a k e hs hc ho hr,
      fun ho n hw => execSlot_store s t m h a k n hs hc ho hw⟩
    have he := execSlot_load s t w m h a k img d hs hc ho hr hw
    refine ⟨fun hx => he.trans (congrArg _ (if_pos hx)), fun hx => ?_⟩
    have hq : w.core c = q := by
      have h1 := (engineRead_keeps s cid base 32).core c
      have h2 := (engineRead_keeps t cid (base + 32) (x.imageBytes - 32)).core c
      rw [hr] at h1
      rw [hw] at h2
      exact h2.trans h1
    obtain ⟨h1, h2, h3, h4⟩ := w.slotLoaded_spec c h x d m hg
    refine ⟨_, he.trans (congrArg _ (if_neg (by rw [hx]; decide))), h1, h2, h3, fun i hi => ?_⟩
    rw [h4]
    exact x.srd_loadInto d (hq ▸ hb) i hi

end Sys2Proof.Machine
end

section
/-!
SUPPORT. What a load's reads leave of its own core: all but the block cache (R160, R266).
-/

namespace Sys2Proof.Machine

/-- What a path through the caches of core `c` leaves of the core: all but its block-cache lines and its blocks. -/
structure FillKeeps (c : Fin 64) (s t : State) : Prop where
  core : ∃ ls bs, t.core c = { s.core c with bc := ls, blocks := bs }
  turn : t.turn = s.turn
  zc : t.zc = s.zc

theorem FillKeeps.refl (c : Fin 64) (s : State) : FillKeeps c s s := ⟨⟨(s.core c).bc, (s.core c).blocks, rfl⟩, rfl, rfl⟩

theorem FillKeeps.trans {c : Fin 64} {s t u : State} (h : FillKeeps c s t) (g : FillKeeps c t u) : FillKeeps c s u := by
  obtain ⟨⟨ls, bs, e⟩, ht, hz⟩ := h
  obtain ⟨⟨ls', bs', e'⟩, ht', hz'⟩ := g
  exact ⟨⟨ls', bs', by rw [e', e]⟩, ht'.trans ht, hz'.trans hz⟩

theorem PathKeeps.fill {s t : State} (h : PathKeeps s t) (c : Fin 64) : FillKeeps c s t :=
  ⟨⟨(s.core c).bc, (s.core c).blocks, h.core c⟩, h.turn, h.zc⟩

theorem modCore_fill (s : State) (c : Fin 64) {f : Core → Core} (hf : ∀ k : Core, ∃ ls bs, f k = { k with bc := ls, blocks := bs }) :
    FillKeeps c s (s.modCore c f) := by
  refine ⟨?_, rfl, rfl⟩
  rw [State.core_modCore]
  exact hf _

theorem FillKeeps.fold {α : Type} {c : Fin 64} (f : State → α → State) (h : ∀ s a, FillKeeps c s (f s a)) (l : List α)
    (s : State) : FillKeeps c s (l.foldl f s) := by
  induction l generalizing s with
  | nil => exact .refl c s
  | cons a r ih => exact (h s a).trans (ih _)

theorem cleanBlock_fill (s : State) (c : Fin 64) (cid : BitVec 12) (la : Nat) : FillKeeps c s (s.cleanBlock c cid la) := by
  unfold State.cleanBlock
  split
  · exact .refl c s
  · split
    · exact .refl c s
    · exact ((mergeRdc_keeps _ _ _).fill c).trans (modCore_fill _ _ fun k => ⟨_, k.blocks, rfl⟩)

theorem dropBlock_fill (s : State) (c : Fin 64) (cid : BitVec 12) (la : Nat) : FillKeeps c s (s.dropBlock c cid la) :=
  modCore_fill _ _ fun k => ⟨_, k.blocks, rfl⟩

theorem evictBlock_fill (s : State) (c : Fin 64) (b : Block) : FillKeeps c s (s.evictBlock c b) := by
  unfold State.evictBlock
  dsimp only
  exact (FillKeeps.fold _ (fun s i => (cleanBlock_fill s c _ _).trans (dropBlock_fill _ _ _ _)) _ _).trans
    (modCore_fill _ _ fun k => ⟨k.bc, _, rfl⟩)

theorem evictLine_fill (s : State) (c : Fin 64) (cid : BitVec 12) (la : Nat) : FillKeeps c s (s.evictLine c cid la) := by
  unfold State.evictLine
  split
  · exact evictBlock_fill _ _ _
  · exact (cleanBlock_fill _ _ _ _).trans (dropBlock_fill _ _ _ _)

theorem makeRoom_fill (s : State) (c : Fin 64) (cid : BitVec 12) (la : Nat) : FillKeeps c s (s.makeRoom c cid la) := by
  unfold State.makeRoom
  dsimp only
  split
  · exact .refl c s
  · exact ((chosen_keeps s).fill c).trans (evictLine_fill _ _ _ _)

theorem putBlock_fill (s : State) (c : Fin 64) (l : Line) : FillKeeps c s (s.putBlock c l) :=
  (modCore_fill _ _ fun k => ⟨_, k.blocks, rfl⟩).trans (makeRoom_fill _ _ _ _)

theorem loadLine_fill (s : State) (c : Fin 64) (cid : BitVec 12) (la : Nat) (need : BitVec 128) (unc : Bool) :
    FillKeeps c s (s.loadLine c cid la need unc).1 := by
  unfold State.loadLine
  split
  · have h := xlate_keeps s cid (la * 128 / 2 ^ 21)
    split
    · next e => rw [e] at h; exact h.fill c
    · next e => rw [e] at h; exact h.fill c
  · dsimp only
    split
    · exact .refl c s
    · have h := belowLine_keeps s c cid la (need &&& ~~~(lineOr (s.core c).bc cid la).valid)
      split
      · next e =>
        rw [e] at h
        dsimp only
        split
        · exact (h.fill c).trans (putBlock_fill _ _ _)
        · exact h.fill c
      · next e => rw [e] at h; exact h.fill c

/-- A fold that carries a value beside the state. -/
theorem FillKeeps.fold_fst {α β : Type} {c : Fin 64} {f : State × β → α → State × β} (h : ∀ x a, FillKeeps c x.1 (f x a).1)
    (l : List α) (x : State × β) : FillKeeps c x.1 (l.foldl f x).1 := by
  induction l generalizing x with
  | nil => exact .refl c _
  | cons a r ih => exact (h x a).trans (ih _)

theorem loadBytes_fill (s : State) (c : Fin 64) (cid : BitVec 12) (a n : Nat) (unc : Nat → Bool) :
    FillKeeps c s (s.loadBytes c cid a n unc).1 := by
  unfold State.loadBytes
  refine FillKeeps.fold_fst (fun x p => ?_) _ (s, Sum.inl 0, [])
  obtain ⟨u, y | e, ls⟩ := x
  · dsimp only
    have h := loadLine_fill u c cid p.1 (spanMask p.2.1 p.2.2.1) (unc (p.1 * 128 / 2 ^ 21))
    split
    · next e => rw [e] at h; exact h
    · next e => rw [e] at h; exact h
  · exact .refl c u

/-- Reads bound for a load leave the core as it was, but for its block cache. -/
theorem readAll_fill (s : State) (xs : List (Nat × Nat)) : FillKeeps s.turn.core s (s.readAll xs).1 := by
  unfold State.readAll
  refine FillKeeps.fold_fst (fun x p => ?_) _ (s, Sum.inl [], [])
  obtain ⟨u, y | e, ls⟩ := x
  · dsimp only
    have h := loadBytes_fill u s.turn.core s.csr.cid p.1 p.2 fun p => s.me.uncached .l p
    split
    · next e => rw [e] at h; exact h
    · next e => rw [e] at h; exact h
  · exact .refl _ u

end Sys2Proof.Machine
end

section
/-!
SUPPORT. A load that binds its value, with and without an armed injection (R160, R366-R369).
-/

namespace Sys2Proof.Machine

/-! ## An uncorrectable error (R367) -/

theorem errRecord_keeps (s : State) (st : Nat) (d : Fin 8) (cid : BitVec 12) (c i va : Nat) :
    PathKeeps s (s.errRecord st d cid c i va) := by
  unfold State.errRecord
  refine PathKeeps.trans ?_ (msi_keeps _ _)
  exact ⟨rfl, rfl, rfl, rfl, rfl, id⟩

theorem uncorrectable_keeps (s : State) (st : Nat) (d : Fin 8) (cid : Option (BitVec 12)) (c i va : Nat) :
    PathKeeps s (s.uncorrectable st d cid c i va) := by
  unfold State.uncorrectable
  have h (r : Rec) := (errRecord_keeps s st d (cid.getD 0) c i va).trans (record_keeps _ r)
  cases cid with
  | none => exact h _
  | some c => exact (h _).trans (endCtxNote_keeps _ _ _ _ _)

theorem State.msi_regs (s : State) (v : Nat) : (s.msi v).regs = s.regs := by unfold State.msi; split <;> rfl

theorem State.record_errhead (s : State) (r : Rec) : (s.record r).regs.errhead = s.regs.errhead := by
  unfold State.record
  dsimp only
  split
  · split
    · rfl
    · rw [State.msi_regs]
  · rfl

theorem State.endCtx_regs (s : State) (cid : BitVec 12) (n : Nat) (d : Fin 8) : (s.endCtx cid n d).regs = s.regs := by
  unfold State.endCtx State.endCtxNote
  dsimp only
  split <;> rfl

/-- An uncorrectable error is one record more (R367). -/
theorem State.uncorrectable_errhead (s : State) (st : Nat) (d : Fin 8) (cid : Option (BitVec 12)) (c i va : Nat) :
    (s.uncorrectable st d cid c i va).regs.errhead = s.regs.errhead + 1 := by
  have he : ((s.errRecord st d (cid.getD 0) c i va).record ⟨7, st, cid.getD 0, c % 64, 0, d.val, 0, false, va, 0, 0, 0, false, 0⟩).regs.errhead
      = s.regs.errhead + 1 := by
    rw [State.record_errhead, State.errRecord, State.msi_regs]
  unfold State.uncorrectable
  cases cid with
  | none => exact he
  | some c => exact (congrArg (·.errhead) (State.endCtx_regs ..)).trans he

/-! ## The injection a load meets (R369) -/

/-- A line of the block cache is among those that served. -/
theorem find_block_isSome (l : List (Nat × Level)) :
    (∃ x, l.find? (·.2 == .block) = some x) ↔ ∃ la, (la, Level.block) ∈ l := by
  rw [← Option.isSome_iff_exists, List.find?_isSome]
  constructor
  · rintro ⟨⟨la, lv⟩, hx, hb⟩
    have e : lv = Level.block := beq_iff_eq.1 hb
    exact ⟨la, e ▸ hx⟩
  · rintro ⟨la, h⟩
    exact ⟨_, h, beq_self_eq_true _⟩

theorem errinj_armed (x : Dword) : x.getLsbD 0 = true ↔ x.toNat % 2 = 1 := by
  rw [BitVec.getLsbD, Nat.testBit_zero, decide_eq_true_eq]

/-- An injection is armed that a line among those that served meets (R369). -/
def State.injects (s : State) (served : List (Nat × Level)) : Prop :=
  s.csr.errinj.getLsbD 0 = true ∧ (s.csr.errinj.toNat / 2 % 8 = 1 ∨ s.csr.errinj.toNat / 2 % 8 = 2)
    ∧ ∃ la, (la, Level.block) ∈ served

section
variable {s t : State} {c : Fin 64} {l : List (Nat × Level)} (he : (t.core c).old.csr.errinj = s.csr.errinj)
include he

theorem loadInject_none (h : ¬s.injects l) : t.loadInject c l = (t, false) := by
  unfold State.loadInject
  dsimp only
  split
  · next la _ hf =>
    refine if_neg fun ⟨h1, h2⟩ => h ?_
    rw [he] at h1 h2
    exact ⟨(errinj_armed _).2 h1, h2, (find_block_isSome l).1 ⟨_, hf⟩⟩
  · rfl

theorem loadInject_corrected (h : s.injects l) (h1 : s.csr.errinj.toNat / 2 % 8 = 1) :
    t.loadInject c l = ((t.modCore c Core.disarm).correctable (zenithOf c), false) := by
  obtain ⟨ha, -, hb⟩ := h
  obtain ⟨⟨la, lv⟩, hf⟩ := (find_block_isSome l).2 hb
  unfold State.loadInject
  rw [hf]
  dsimp only
  rw [he, if_pos ⟨(errinj_armed _).1 ha, .inl h1⟩, if_pos h1]

theorem loadInject_lost (h : s.injects l) (h2 : s.csr.errinj.toNat / 2 % 8 = 2) :
    ∃ i va cid, t.loadInject c l = ((t.modCore c Core.disarm).uncorrectable 3 (zenithOf c) cid c.val i va, true) := by
  obtain ⟨ha, -, hb⟩ := h
  obtain ⟨⟨la, lv⟩, hf⟩ := (find_block_isSome l).2 hb
  unfold State.loadInject
  rw [hf]
  dsimp only
  rw [he, if_pos ⟨(errinj_armed _).1 ha, .inr h2⟩, if_neg (by omega)]
  exact ⟨_, _, _, rfl⟩
end

theorem Core.disarm_errinj (k : Core) : k.disarm.vis.csr.errinj.getLsbD 0 = false := by
  show (k.vis.csr.errinj &&& ~~~1).getLsbD 0 = false
  simp

/-! ## Binding (R160, R239) -/

theorem State.within_later (s : State) (n : Nat) (i : Instr) (e : Ev) : ∃ w, s.within n i e = s.later 1 w i e := by
  unfold State.within
  split
  · exact ⟨_, rfl⟩
  · exact ⟨_, rfl⟩

/-- A load on its way, and the step that lands it. -/
def State.bound (s : State) (m : Load) (w : Nat) : State :=
  (s.modMe fun k => { k with loads := k.loads ++ [m] }).bump.later 1 w .loadLands ⟨s.turn.core, m.id, [], []⟩

theorem State.bindLoad_of (s0 t u : State) (val : LoadVal) (served : List (Nat × Level)) (bad : Bool)
    (h : t.loadInject t.turn.core (firstServed served) = (u, bad)) (ht : u.turn = t.turn) :
    ∃ (m : Load) (w : Nat), m.id = u.nextId ∧ m.val = val ∧ s0.bindLoad t val served = if bad then u else u.bound m w := by
  unfold State.bindLoad
  dsimp only
  rw [h]
  dsimp only
  obtain ⟨w, hw⟩ := State.within_later
    (u.modMe fun k => { k with loads := k.loads ++ [⟨u.nextId, val, min (firstServed served).length maxLines⟩] }).bump
    (boundOf false t.turn.core ((firstServed served).map fun l => (l.2, homeIdx (l.1 * 128)))
      (s0.missing t.csr.cid ((firstServed served).map fun l => l.1 * 128 / 2 ^ 21).dedup)) .loadLands (.of t.turn.core u.nextId)
  rw [hw]
  exact ⟨⟨u.nextId, val, min (firstServed served).length maxLines⟩, w, rfl, rfl, by rw [State.bound, ht]; rfl⟩

theorem State.bound_regs (s : State) (m : Load) (w : Nat) : (s.bound m w).regs = s.regs := rfl
theorem State.bound_me (s : State) (m : Load) (w : Nat) : (s.bound m w).me = { s.me with loads := s.me.loads ++ [m] } :=
  s.me_modMe fun k => { k with loads := k.loads ++ [m] }

/-- The outcome of a load that binds a value, as the obligation states it (R160, R366-R369). -/
def Lands (s t : State) (u : Cluster) (served : List (Nat × Level)) (val : LoadVal) (ef : Core → Core)
    (o : Host.Outcome State Fault Refusal) : Prop :=
  let tgt := s.csr.errinj.toNat / 2 % 8
  let d := zenithOf s.turn.core
  (¬s.injects (firstServed served) → ∃ (m : Load) (w z : Nat), m.id = t.nextId ∧ m.val = val
    ∧ o = .next ((((t.modMe fun k => { k with loads := k.loads ++ [m] }).bump.later w z .loadLands
      ⟨s.turn.core, m.id, [], []⟩).modMe ef).settle u 0))
  ∧ (s.injects (firstServed served) → ∃ (r : State) (m : Load), o = .next r ∧ m.val = val
    ∧ r.me.vis.csr.errinj.getLsbD 0 = false
    ∧ (tgt = 1 → r.me.loads = t.me.loads ++ [m] ∧ r.regs.errhead = t.regs.errhead
      ∧ r.regs.cecnt[d] = if t.regs.cecnt[d] = BitVec.allOnes 32 then t.regs.cecnt[d] else t.regs.cecnt[d] + 1)
    ∧ (tgt = 2 → r.me.loads = t.me.loads ∧ r.regs.errhead = t.regs.errhead + 1))

/-- What a state must keep of `s` for a word of `s` to issue from it. -/
structure IssuesAs (s x : State) : Prop where
  turn : x.turn = s.turn
  zc : x.zc = s.zc
  clus : x.me.clus = s.me.clus
  req : x.me.old.csr.req = s.me.old.csr.req

/-- The word issues with an effect on the address table alone (R12, R165). -/
theorem State.issuedFrom_modMe (s x : State) (u : Cluster) (ef : Core → Core) (hu : s.goesTo u) (hx : IssuesAs s x)
    (he : ∀ k : Core, ∃ a, ef k = { k with lda := a }) : State.issuedFrom s (x.modMe ef) = (x.modMe ef).settle u 0 := by
  obtain ⟨ht, -, hc, hr⟩ := hx
  obtain ⟨a, ha⟩ := he x.me
  have hclu : (x.modMe ef).clu = s.clu := by
    unfold State.clu
    rw [State.me_modMe, ha]
    simp only [State.modMe_turn, hc, ht]
  have hreq : (x.modMe ef).csr.req = s.csr.req := by
    unfold State.csr
    rw [State.me_modMe, ha]
    exact hr
  unfold State.issuedFrom
  rw [hclu, hreq, show s.clu.next s.csr.req = some u from hu]

theorem IssuesAs.bound {s x : State} (h : IssuesAs s x) (m : Load) (w : Nat) : IssuesAs s (x.bound m w) := by
  obtain ⟨ht, hz, hc, hr⟩ := h
  refine ⟨ht, hz, ?_, ?_⟩
  · rw [State.bound_me]; exact hc
  · rw [State.bound_me]; exact hr

theorem IssuesAs.path {s x y : State} (h : IssuesAs s x) (k : PathKeeps x y) : IssuesAs s y := by
  obtain ⟨ht, hz, hc, hr⟩ := h
  exact ⟨k.turn.trans ht, k.zc.trans hz, by rw [k.me, hc], by rw [k.me, hr]⟩

theorem IssuesAs.disarmed {s x : State} (h : IssuesAs s x) : IssuesAs s (x.modMe Core.disarm) := by
  obtain ⟨ht, hz, hc, hr⟩ := h
  refine ⟨ht, hz, ?_, ?_⟩
  · rw [State.me_modMe]; exact hc
  · rw [State.me_modMe]; exact hr

theorem correctable_keeps (s : State) (d : Fin 8) : PathKeeps s (s.correctable d) := ⟨rfl, rfl, rfl, rfl, rfl, id⟩

/-- A corrected error counts, until the count is full (R366). -/
theorem State.correctable_cecnt (s : State) (d : Fin 8) : (s.correctable d).regs.cecnt[d]
    = if s.regs.cecnt[d] = BitVec.allOnes 32 then s.regs.cecnt[d] else s.regs.cecnt[d] + 1 := Vector.getElem_set_self ..

/-- The core that issues, after the reads of its load. -/
theorem FillKeeps.me {s t : State} (h : FillKeeps s.turn.core s t) : ∃ ls bs, t.me = { s.me with bc := ls, blocks := bs } := by
  obtain ⟨⟨ls, bs, e⟩, ht, -⟩ := h
  refine ⟨ls, bs, ?_⟩
  show t.core t.turn.core = _
  rw [ht, e]
  rfl

theorem FillKeeps.issues {s t : State} (h : FillKeeps s.turn.core s t) : IssuesAs s t := by
  obtain ⟨ls, bs, e⟩ := h.me
  exact ⟨h.turn, h.zc, by rw [e], by rw [e]⟩

theorem FillKeeps.errinj {s t : State} (h : FillKeeps s.turn.core s t) :
    (t.core t.turn.core).old.csr.errinj = s.csr.errinj := by
  obtain ⟨ls, bs, e⟩ := h.me
  show t.me.old.csr.errinj = _
  rw [e]
  rfl

/-- The core and the registers of the package after a word that changes the address table and issues. -/
theorem State.settle_modMe_spec (x : State) (u : Cluster) (ef : Core → Core) (he : ∀ k : Core, ∃ a, ef k = { k with lda := a }) :
    let r := (x.modMe ef).settle u 0
    r.me.vis.csr = x.me.vis.csr ∧ r.me.loads = x.me.loads ∧ r.regs = x.regs := by
  obtain ⟨a, ha⟩ := he x.me
  dsimp only
  rw [State.settle_me, State.me_modMe, ha]
  exact ⟨rfl, rfl, rfl⟩

section
variable {s t : State} {u : Cluster} {i : Instr} {xs : List (Nat × Nat)} {val : List Nat → LoadVal} {f : State → State}
  {ef : Core → Core} {ys : List Nat} {served : List (Nat × Level)}

theorem loadWord_stalls (ha : s.admits i) (hm : s.memStall i = true) : loadWord i xs val f s = .next s := by
  unfold loadWord
  rw [s.access_of_admits i _ ha, if_pos hm]

/-- What a load that its pages admit and that no rule stalls does with what it has read. -/
theorem loadWord_binds (ha : s.admits i) (hm : s.memStall i = false) (hr : s.readAll xs = (t, .inl ys, served)) :
    loadWord i xs val f s = .next (State.issuedFrom s (f (s.bindLoad t (val ys) served))) := by
  unfold loadWord
  rw [s.access_of_admits i _ ha, if_neg (by rw [hm]; decide), hr]

theorem loadWord_lands (ha : s.admits i) (hm : s.memStall i = false) (hu : s.goesTo u)
    (hr : s.readAll xs = (t, .inl ys, served)) (hf : ∀ x : State, x.zc = s.zc → f x = x.modMe ef)
    (he : ∀ k : Core, ∃ a, ef k = { k with lda := a }) : Lands s t u served (val ys) ef (loadWord i xs val f s) := by
  have hk : FillKeeps s.turn.core s t := by
    have := readAll_fill s xs
    rwa [hr] at this
  have issue {x : State} (hx : IssuesAs s x) : State.issuedFrom s (f x) = (x.modMe ef).settle u 0 := by
    rw [hf x hx.zc, s.issuedFrom_modMe x u ef hu hx he]
  have hd := hk.issues.disarmed
  have hoff : (t.modMe Core.disarm).me.vis.csr.errinj.getLsbD 0 = false := by rw [State.me_modMe, Core.disarm_errinj]
  have hold : (t.modMe Core.disarm).me.loads = t.me.loads := (congrArg Core.loads (t.me_modMe Core.disarm) :)
  rw [loadWord_binds ha hm hr]
  refine ⟨fun h => ?_, fun h => ?_⟩
  · obtain ⟨m, w, hid, hv, hb⟩ := s.bindLoad_of t t (val ys) served false (loadInject_none hk.errinj h) rfl
    rw [hb, if_neg Bool.false_ne_true, issue (hk.issues.bound m w)]
    exact ⟨m, 1, w, hid, hv, by rw [State.bound, hk.turn]⟩
  · obtain ⟨-, h1 | h2, -⟩ := id h
    · obtain ⟨m, w, hid, hv, hb⟩ := s.bindLoad_of t ((t.modMe Core.disarm).correctable (zenithOf t.turn.core)) (val ys) served
        false (loadInject_corrected hk.errinj h h1) rfl
      have hx := (hd.path (correctable_keeps _ (zenithOf t.turn.core))).bound m w
      obtain ⟨hc, hl, hg⟩ := State.settle_modMe_spec (((t.modMe Core.disarm).correctable (zenithOf t.turn.core)).bound m w) u ef he
      rw [State.bound_me] at hc hl
      rw [hb, if_neg Bool.false_ne_true]
      refine ⟨_, m, congrArg _ (issue hx), hv, ?_, fun _ => ⟨?_, ?_, ?_⟩, fun h2 => absurd (h1.symm.trans h2) (by decide)⟩
      · rw [hc]; exact hoff
      · rw [hl, ← hold]; rfl
      · rw [hg]; rfl
      · rw [hg, State.bound_regs, show zenithOf t.turn.core = zenithOf s.turn.core by rw [hk.turn], State.correctable_cecnt]
        rfl
    · obtain ⟨j, va, cid, hi⟩ := loadInject_lost hk.errinj h h2
      have hp := uncorrectable_keeps (t.modMe Core.disarm) 3 (zenithOf t.turn.core) cid t.turn.core.val j va
      obtain ⟨m, w, hid, hv, hb⟩ := s.bindLoad_of t
        ((t.modMe Core.disarm).uncorrectable 3 (zenithOf t.turn.core) cid t.turn.core.val j va) (val ys) served true hi hp.turn
      obtain ⟨hc, hl, hg⟩ := State.settle_modMe_spec
        ((t.modMe Core.disarm).uncorrectable 3 (zenithOf t.turn.core) cid t.turn.core.val j va) u ef he
      rw [hp.me] at hc hl
      rw [hb, if_pos rfl]
      refine ⟨_, m, congrArg _ (issue (hd.path hp)), hv, ?_, fun h1 => absurd (h1.symm.trans h2) (by decide), fun _ => ⟨?_, ?_⟩⟩
      · rw [hc]; exact hoff
      · rw [hl]; exact hold
      · rw [hg, State.uncorrectable_errhead]; rfl
end

end Sys2Proof.Machine
end

section
/-!
SUPPORT. The loads of L (R160, R163-R167) and their landing (R273).
-/

namespace Sys2Proof.Machine

/-! ## Aligned loads (R163, R165-R167) -/

/-- A load of one range: misaligned it traps; admitted and not stalled it binds what the range holds; stalled it waits. -/
theorem load_spec {s : State} {i : Instr} {addr align len : Nat} {val : Nat → LoadVal} {ef : Core → Core} {f : State → State}
    (hf : ∀ x : State, x.zc = s.zc → f x = x.modMe ef) (he : ∀ k : Core, ∃ a, ef k = { k with lda := a })
    {o : Host.Outcome State Fault Refusal} (ho : o = if addr % align ≠ 0 then .next s.illegal
      else loadWord i [(addr, len)] (fun vs => val (vs.headD 0)) f s) :
    (addr % align ≠ 0 → o = .next (s.raise causeState 0))
    ∧ (∀ (t : State) (u : Cluster) (ys : List Nat) (served : List (Nat × Level)), addr % align = 0 → s.admits i →
        s.memStall i = false → s.goesTo u → s.readAll [(addr, len)] = (t, .inl ys, served) →
        Lands s t u served (val (ys.headD 0)) ef o)
    ∧ (addr % align = 0 → s.admits i → s.memStall i = true → o = .next s) := by
  subst ho
  refine ⟨fun h => if_pos h, fun t u ys served h ha hm hu hr => ?_, fun h ha hm => ?_⟩
  · rw [if_neg (not_not.2 h)]
    exact loadWord_lands (val := fun vs => val (vs.headD 0)) ha hm hu hr hf he
  · rw [if_neg (not_not.2 h), loadWord_stalls ha hm]

theorem modMe_of_id (s : State) : ∀ x : State, x.zc = s.zc → id x = x.modMe id := fun x _ => (x.modMe_id id rfl).symm

theorem id_lda (k : Core) : ∃ a, id k = { k with lda := a } := ⟨k.lda, rfl⟩

theorem enterLda_modMe (s : State) (n : Fin 32) (y : Nat) : ∀ x : State, x.zc = s.zc →
    enterLda n y x = x.modMe fun k => { k with lda := k.lda.set n (some (y, s.zc)) } := by
  intro x hx
  rw [enterLda, hx]

theorem imm13_eq (e : BitVec 13) : imm13 e = 4 * BitVec.ofInt 64 e.toInt := by
  rw [imm13, BitVec.mul_comm]
  rfl

/-! ## Gathers (R164) -/

/-- The elements of a gather in order: zero where nothing is loaded, else the next of what was read. -/
def gathered : List (Option Nat) → List Nat → List Word
  | [], _ => []
  | none :: r, ys => 0 :: gathered r ys
  | some _ :: r, ys => BitVec.ofNat 32 (ys.headD 0) :: gathered r ys.tail

/-- One element of a gather, as the model folds them. -/
def gatherStep (acc : List Word × List Nat) (o : Option Nat) : List Word × List Nat :=
  match o with
  | none => (0 :: acc.1, acc.2)
  | some _ => (BitVec.ofNat 32 (acc.2.headD 0) :: acc.1, acc.2.tail)

theorem foldl_gatherStep (l : List (Option Nat)) (es : List Word) (ys : List Nat) :
    (l.foldl gatherStep (es, ys)).1.reverse = es.reverse ++ gathered l ys := by
  induction l generalizing es ys with
  | nil => simp [gathered]
  | cons o r ih =>
    cases o with
    | none => simp [gatherStep, gathered, ih]
    | some y => simp [gatherStep, gathered, ih]

section
variable (addr : Word → Nat)

/-- The address of an element, none for an index of all ones (R164). -/
def gatherAddr (i : Word) : Option Nat := if i = 0xFFFFFFFF then none else some (addr i)

theorem gatherAddr_skip {i : Word} (h : i = 0xFFFFFFFF) : gatherAddr addr i = none := if_pos h
theorem gatherAddr_live {i : Word} (h : i ≠ 0xFFFFFFFF) : gatherAddr addr i = some (addr i) := if_neg h

theorem gathered_length (ix : List Word) (ys : List Nat) : (gathered (ix.map (gatherAddr addr)) ys).length = ix.length := by
  induction ix generalizing ys with
  | nil => rfl
  | cons i r ih =>
    by_cases h : i = 0xFFFFFFFF
    · simp [gatherAddr_skip addr h, gathered, ih]
    · simp [gatherAddr_live addr h, gathered, ih]

/-- An index of all ones loads zero. -/
theorem gathered_skip (ix : List Word) (ys : List Nat) (k : Nat) (hk : k < ix.length) (h : ix.getD k 0 = 0xFFFFFFFF) :
    (gathered (ix.map (gatherAddr addr)) ys).getD k 0 = 0 := by
  induction ix generalizing ys k with
  | nil => exact absurd hk (Nat.not_lt_zero k)
  | cons i r ih =>
    cases k with
    | zero => simp [gatherAddr_skip addr (show i = 0xFFFFFFFF from h), gathered]
    | succ k =>
      have hk : k < r.length := Nat.lt_of_succ_lt_succ hk
      by_cases hi : i = 0xFFFFFFFF
      · simpa [gatherAddr_skip addr hi, gathered] using ih ys k hk h
      · simpa [gatherAddr_live addr hi, gathered] using ih ys.tail k hk h

/-- The other elements are what was read, in order. -/
theorem gathered_live (ix : List Word) (ys : List Nat) (h : ys.length = (ix.filter fun i => i ≠ 0xFFFFFFFF).length) :
    ((gathered (ix.map (gatherAddr addr)) ys).zip ix).filterMap (fun p => if p.2 = 0xFFFFFFFF then none else some p.1)
      = ys.map (BitVec.ofNat 32) := by
  induction ix generalizing ys with
  | nil => simp at h; simp [h, gathered]
  | cons i r ih =>
    by_cases hi : i = 0xFFFFFFFF
    · rw [List.filter_cons_of_neg (by simpa using hi)] at h
      rw [List.map_cons, gatherAddr_skip addr hi, gathered, List.zip_cons_cons, List.filterMap_cons]
      simpa only [hi, if_true] using ih ys h
    · rw [List.filter_cons_of_pos (by simpa using hi)] at h
      cases ys with
      | nil => simp at h
      | cons y ys =>
        rw [List.map_cons, gatherAddr_live addr hi, gathered, List.zip_cons_cons, List.filterMap_cons,
          List.map_cons, ← ih ys (Nat.succ.inj h)]
        simp only [hi, if_false, List.headD_cons, List.tail_cons]

/-- What a gather reads: each live element's four bytes. -/
theorem gather_reads (ix : List Word) : (ix.map (gatherAddr addr)).filterMap (fun o => o.map fun y => (y, 4))
    = (ix.filter fun i => i ≠ 0xFFFFFFFF).map fun i => (addr i, 4) := by
  induction ix with
  | nil => rfl
  | cons i r ih =>
    by_cases hi : i = 0xFFFFFFFF
    · rw [List.map_cons, List.filterMap_cons_none (by rw [gatherAddr_skip addr hi]; rfl), List.filter_cons_of_neg (by simpa using hi)]
      exact ih
    · rw [List.map_cons, List.filterMap_cons_some (by rw [gatherAddr_live addr hi]; rfl), List.filter_cons_of_pos (by simpa using hi)]
      exact congrArg _ ih

/-- A gather is misaligned at an address or an index of a live element (R164). -/
theorem gather_misaligned (ix : List Word) :
    (((ix.map (gatherAddr addr)).any fun o => o.any (· % 4 != 0)) || ix.any fun i => i != 0xFFFFFFFF && i.toNat % 4 != 0) = true
      ↔ ∃ i ∈ ix.filter fun i => i ≠ 0xFFFFFFFF, addr i % 4 ≠ 0 ∨ i.toNat % 4 ≠ 0 := by
  simp only [Bool.or_eq_true, List.any_eq_true, List.mem_map, exists_exists_and_eq_and, List.mem_filter, Bool.and_eq_true,
    bne_iff_ne, decide_eq_true_eq]
  constructor
  · rintro (⟨i, hi, h⟩ | ⟨i, hi, hn, h⟩)
    · by_cases hn : i = 0xFFFFFFFF
      · simp [gatherAddr_skip addr hn] at h
      · rw [gatherAddr_live addr hn] at h
        exact ⟨i, ⟨hi, hn⟩, .inl (bne_iff_ne.1 h)⟩
    · exact ⟨i, ⟨hi, hn⟩, .inr h⟩
  · rintro ⟨i, ⟨hi, hn⟩, h | h⟩
    · exact .inl ⟨i, hi, by rw [gatherAddr_live addr hn]; exact bne_iff_ne.2 h⟩
    · exact .inr ⟨i, hi, hn, h⟩
end

theorem elemAddrs_eq (base off : Dword) (v : Runs Word) :
    elemAddrs base off v = ((rlist v).take 6144).map (gatherAddr fun i => (base + off + BitVec.ofNat 64 i.toNat).toNat) := by
  unfold elemAddrs gatherAddr
  rw [rlist_rtake]
  simp only [BitVec.ofNat_toNat]

theorem execLdgGather_eq (v a : Fin 16) (x : Fin 64) (j : Fin 16) (s : State) :
    let as := elemAddrs (s.la a) (s.rg x) s.me.v[j]
    execLdgGather v a x j s =
      if as.any (fun o => o.any (· % 4 != 0)) || (rlist (rtake 6144 s.me.v[j])).any fun i => i != 0xFFFFFFFF && i.toNat % 4 != 0 then
        .next s.illegal
      else loadWord (.ldgGather v a x j) (as.filterMap fun o => o.map fun y => (y, 4)) (fun vs => .v v (rof (gathered as vs))) id s := by
  have hfill (as : List (Option Nat)) (vs : List Nat) : (as.foldl gatherStep ([], vs)).1.reverse = gathered as vs :=
    foldl_gatherStep as [] vs
  simp only [← hfill]
  rfl

/-! ## The landing (R160, R273) -/

/-- A core whose load lands: the load and every earlier one of its register are outstanding no more, the register holds it. -/
def Core.landed (k : Core) (l : Load) : Core :=
  let k := { k with loads := k.loads.filter fun x => x.id != l.id && !(x.id < l.id && x.val.sameDest l.val) }
  match l.val with
  | .g r x => k.modVis (·.wg r x)
  | .v r x => { k with v := k.v.set r x }

theorem execLoadLands_of (s : State) (l : Load) (h : (s.core s.ev.core).loads.find? (·.id == s.ev.id) = some l) :
    execLoadLands s = .next (s.modCore s.ev.core (·.landed l)) := by
  unfold execLoadLands
  dsimp only
  rw [h]
  rfl

/-- A landing drops its load and the earlier ones into its register. -/
theorem mem_landed (ls : List Load) (l x : Load) :
    x ∈ ls.filter (fun x => x.id != l.id && !(decide (x.id < l.id) && x.val.sameDest l.val))
      ↔ x ∈ ls ∧ x.id ≠ l.id ∧ ¬(x.id < l.id ∧ x.val.sameDest l.val = true) := by
  rw [List.mem_filter]
  simp only [Bool.and_eq_true, bne_iff_ne, Bool.not_eq_true', ← Bool.not_eq_true, decide_eq_true_eq]

/-- Settles O24: every load is one binding of a value, and a landing drops its load and the earlier ones of its register. -/
theorem loads : Obligations.Loads := by
  unfold Obligations.Loads
  intro lands
  refine ⟨?_, ?_, ?_⟩
  · intro s t u v a g x n e f sz ys served la spec vec scalar enter ld ix
    have enters := enterLda_modMe s n ix
    have entered (k : Core) : ∃ l, enter ix k = { k with lda := l } := ⟨_, rfl⟩
    have of {i : Instr} {addr align len : Nat} {val : Nat → LoadVal} {ef : Core → Core} {f : State → State}
        (hf : ∀ x : State, x.zc = s.zc → f x = x.modMe ef) (he : ∀ k : Core, ∃ a, ef k = { k with lda := a })
        (ho : exec i s = if addr % align ≠ 0 then .next s.illegal else loadWord i [(addr, len)] (fun vs => val (vs.headD 0)) f s) :
        spec i addr align len val ef := by
      obtain ⟨h1, h2, h3⟩ := load_spec hf he ho
      exact ⟨h1, fun h ha hm hu hr => h2 t u ys served h ha hm hu hr, h3⟩
    refine ⟨of (modMe_of_id s) id_lda ?_, of (modMe_of_id s) id_lda rfl, of (modMe_of_id s) id_lda rfl, of enters entered rfl,
      fun h hu => ?_, fun h => of enters entered ?_⟩
    · unfold ld
      rw [← imm13_eq]
      rfl
    · exact (if_pos (beq_iff_eq.2 h)).trans (congrArg _ (s.issued_id u hu))
    · exact if_neg fun e => h (beq_iff_eq.1 e)
  · intro s t u v a j x ys served rows ix addr live
    have hg := execLdgGather_eq v a x j s
    dsimp only at hg
    rw [elemAddrs_eq, gather_reads, rlist_rtake] at hg
    have bad : rows.any (· % 4 != 0) = true ↔ ∃ r ∈ rows, r % 4 ≠ 0 := by simp only [List.any_eq_true, bne_iff_ne]
    refine ⟨fun h => if_pos (bad.2 h), fun h ha hm hu hr => ?_, fun h => ?_,
      fun h ha hm hu hr hl => ?_⟩
    · have hs : exec (.ldgStride v a x) s = loadWord (.ldgStride v a x) (rows.map fun r => (r, 512))
          (fun vs => .v v (rof ((vs.map fun y => natWords y 128).flatten))) id s :=
        if_neg fun e => (bad.1 e).elim fun r hr => hr.2 (h r hr.1)
      rw [hs]
      exact loadWord_lands (val := fun vs => .v v (rof ((vs.map fun y => natWords y 128).flatten))) ha hm hu hr (modMe_of_id s) id_lda
    · exact hg.trans (if_pos ((gather_misaligned addr ix).2 h))
    · have hn : ¬∃ i ∈ live, addr i % 4 ≠ 0 ∨ i.toNat % 4 ≠ 0 := fun ⟨i, hi, hb⟩ =>
        hb.elim (fun e => e (h i hi).1) fun e => e (h i hi).2
      refine ⟨gathered (ix.map (gatherAddr addr)) ys, ?_, gathered_length addr ix ys, gathered_skip addr ix ys, gathered_live addr ix ys hl⟩
      rw [show exec (.ldgGather v a x j) s = _ from hg.trans (if_neg fun e => hn ((gather_misaligned addr ix).1 e))]
      exact loadWord_lands (val := fun vs => .v v (rof (gathered (ix.map (gatherAddr addr)) vs))) ha hm hu hr (modMe_of_id s) id_lda
  · intro s l h
    refine ⟨_, execLoadLands_of s l h, rfl, fun c hc => s.core_modCore_ne _ c _ hc, ?_⟩
    dsimp only
    rw [State.core_modCore]
    obtain ⟨id, val, n⟩ := l
    cases val with
    | g r x => exact ⟨fun y => mem_landed _ ⟨id, .g r x, n⟩ y, rfl, rfl⟩
    | v r x => exact ⟨fun y => mem_landed _ ⟨id, .v r x, n⟩ y, rfl, rfl⟩

end Sys2Proof.Machine
end

section
/-!
SUPPORT. The TK words, and the words of C that produce a token (R15, R181-R185, R208-R214, R224).
-/

namespace Sys2Proof.Machine

/-! ## Token images (R15) -/

/-- The number of a token's state (R15). -/
def TokSt.number : TokSt → Nat
  | .empty => 0
  | .pending => 1
  | .done => 2
  | .failed => 3

theorem Token.image_toNat (t : Token) : t.image.toNat = (if t.st = .failed then t.code.toNat else 0) * 256 + t.st.number := by
  have hc := t.code.isLt
  obtain ⟨st, code, chain⟩ := t
  cases st with
  | failed =>
    simp only [Token.image, BitVec.toNat_ofNat, if_true, TokSt.number]
    exact Nat.mod_eq_of_lt (by dsimp only at hc; omega)
  | _ => simp [Token.image, TokSt.number]

/-! ## What a queued command leaves (R161) -/

/-- A state from which a word issues with its token PENDING and one command of its own queued. -/
structure Queues (s x : State) (k : Fin 64) (m : Cmd) : Prop where
  mem : x.mem = s.mem
  cmds : x.me.cmds = s.me.cmds ++ [m]
  tok : x.me.vis.tok[k] = ⟨.pending, 0, none⟩

/-- The issue of a word keeps what its effect has queued. -/
theorem Queues.settle {s x : State} {k : Fin 64} {m : Cmd} (h : Queues s x k m) (u : Cluster) (n : Nat) :
    Queues s (x.settle u n) k m := by
  obtain ⟨hm, hc, ht⟩ := h
  refine ⟨hm, ?_, ?_⟩
  · rw [State.settle_me]; exact hc
  · rw [State.settle_me]; exact ht

theorem Core.pend_tok (q : Core) (k : Fin 64) : (q.pend k).vis.tok[k] = ⟨.pending, 0, none⟩ := Vector.getElem_set_self ..

/-- A change of the core that queues nothing and keeps the tokens, the clusters and what stood at the start of the cycle. -/
structure Calm (f : Core → Core) : Prop where
  cmds : ∀ q, (f q).cmds = q.cmds
  tok : ∀ q, (f q).vis.tok = q.vis.tok
  clus : ∀ q, (f q).clus = q.clus
  old : ∀ q, (f q).old = q.old

theorem Calm.id : Calm id := ⟨fun _ => rfl, fun _ => rfl, fun _ => rfl, fun _ => rfl⟩

theorem Calm.comp {f g : Core → Core} (hf : Calm f) (hg : Calm g) : Calm fun q => g (f q) :=
  ⟨fun q => (hg.cmds _).trans (hf.cmds q), fun q => (hg.tok _).trans (hf.tok q), fun q => (hg.clus _).trans (hf.clus q),
    fun q => (hg.old _).trans (hf.old q)⟩

theorem calm_setRecord (h : Fin 8) (x : ShSt) : Calm (·.setRecord h x) := by
  have (q : Core) : (q.setRecord h x).cmds = q.cmds ∧ (q.setRecord h x).vis.tok = q.vis.tok ∧ (q.setRecord h x).clus = q.clus
      ∧ (q.setRecord h x).old = q.old := by
    unfold Core.setRecord
    split
    · exact ⟨rfl, rfl, rfl, rfl⟩
    · exact ⟨rfl, rfl, rfl, rfl⟩
  exact ⟨fun q => (this q).1, fun q => (this q).2.1, fun q => (this q).2.2.1, fun q => (this q).2.2.2⟩

theorem calm_setRecords (hs : List (Fin 8)) (x : ShSt) : Calm fun q => hs.foldl (fun q h => q.setRecord h x) q := by
  induction hs with
  | nil => exact Calm.id
  | cons h r ih => exact (calm_setRecord h x).comp ih

/-- The effect of a word of C that produces a token: the token PENDING, a calm change, its command queued. -/
theorem Calm.queues {f : Core → Core} (hf : Calm f) (s : State) (k : Fin 64) (m : Cmd) :
    Queues s ((s.modMe fun q => f (q.pend k)).addCmd m) k m := by
  refine ⟨rfl, ?_, ?_⟩
  · rw [State.addCmd_me, State.me_modMe]
    exact congrArg (· ++ [m]) (hf.cmds _)
  · rw [State.addCmd_me, State.me_modMe]
    show (f (s.me.pend k)).vis.tok[k] = _
    rw [hf.tok, Core.pend_tok]

theorem Calm.clu {f : Core → Core} (hf : Calm f) (s : State) (k : Fin 64) (m : Cmd) :
    ((s.modMe fun q => f (q.pend k)).addCmd m).clu = s.clu := s.queued_clu _ m (hf.clus _)

theorem Calm.csr {f : Core → Core} (hf : Calm f) (s : State) (k : Fin 64) (m : Cmd) :
    ((s.modMe fun q => f (q.pend k)).addCmd m).csr = s.csr := s.queued_csr _ m (hf.old _)

/-! ## The words of C that produce a token -/

/-- A word whose step is a state with its command queued. -/
def QueuedAs (s : State) (k : Fin 64) (i : Instr) : Prop :=
  ∃ (t : State) (m : Cmd), exec i s = .next t ∧ m.op = i ∧ m.tok = k
    ∧ t.me.cmds = s.me.cmds ++ [m] ∧ t.me.vis.tok[k] = ⟨.pending, 0, none⟩ ∧ t.mem = s.mem

theorem QueuedAs.of {s x : State} {k : Fin 64} {i : Instr} {m : Cmd} {u : Cluster} (h : Queues s x k m)
    (he : exec i s = .next (x.settle u 0)) (ho : m.op = i) (ht : m.tok = k) : QueuedAs s k i := by
  obtain ⟨hm, hc, hk⟩ := h.settle u 0
  exact ⟨_, m, he, ho, ht, hc, hk, hm⟩

theorem shapeAlloc_queued (s : State) (u : Cluster) (k a : Fin 64) (h : Fin 8) (hu : s.goesTo u) (ht : (s.tok k).st ≠ .pending)
    (hb : (s.rg a).toNat < 2 ^ 13) (hf : s.me.old.sh[h] = .free) : QueuedAs s k (.shapeAlloc k a h) := by
  have hc := calm_setRecord h .allocating
  refine .of (x := _) (u := u) (m := { s.newCmd (.shapeAlloc k a h) k [(s.rg a).toNat] with started := true }) ?_
    (((if_neg ?_).trans (congrArg _ (s.issued_of u _ hu ?_ ?_)))) rfl rfl
  · obtain ⟨h1, h2, h3⟩ := hc.queues s k { s.newCmd (.shapeAlloc k a h) k [(s.rg a).toNat] with started := true }
    exact ⟨h1, h2, h3⟩
  · rintro (h1 | h1 | h1)
    · omega
    · exact h1 hf
    · exact ht h1
  · exact hc.clu s k _
  · exact hc.csr s k _

theorem State.holds_clu (s : State) (h : Hold) : (s.holds h).clu = { s.clu with hold := h } := by
  unfold State.clu State.holds
  rw [State.me_modMe]
  exact Vector.getElem_set_self ..

/-- The effect of a reshape: its handles DRAINING, its command queued, C held for the drain report (R182). -/
def reshapeStep (op : Instr) (k : Fin 64) (hs : List (Fin 8)) (args : List Nat) (t : State) : State :=
  let m : Cmd := { t.newCmd op k args with started := true, at_ := t.arrivalAt t.turn.core }
  let x := (t.modMe fun q => hs.foldl (fun q h => q.setRecord h .draining) (q.pend k)).addCmd m
  (x.holds (.reshape m.id)).at_ m.at_ .drainPoint (.of t.turn.core m.id)

theorem reshapeWord_eq (op : Instr) (k : Fin 64) (hs : List (Fin 8)) (args : List Nat) (s : State) :
    reshapeWord op k hs args s = .next (s.issued (reshapeStep op k hs args)) := rfl

/-- A hold changes no command, no token and nothing that stood at the start of the cycle. -/
theorem Queues.held {s x : State} {k : Fin 64} {m : Cmd} (h : Queues s x k m) (y : Hold) : Queues s (x.holds y) k m := by
  obtain ⟨hm, hc, ht⟩ := h
  have he : (x.holds y).me = x.me.setHold x.turn.cl y := x.me_modMe (·.setHold x.turn.cl y)
  exact ⟨hm, by rw [he]; exact hc, by rw [he]; exact ht⟩

theorem State.holds_csr (s : State) (h : Hold) : (s.holds h).csr = s.csr := by
  unfold State.csr State.holds
  rw [State.me_modMe]
  rfl

/-- A reshape that no check stops issues with its command queued. -/
theorem reshapeWord_queued (s : State) (u : Cluster) (op : Instr) (k : Fin 64) (hs : List (Fin 8)) (args : List Nat)
    (hu : (s.holds (.reshape s.nextId)).goesTo u) (he : exec op s = reshapeWord op k hs args s) : QueuedAs s k op := by
  have hc := calm_setRecords hs .draining
  have hq := (hc.queues s k { s.newCmd op k args with started := true, at_ := s.arrivalAt s.turn.core }).held (.reshape s.nextId)
  have hg : (reshapeStep op k hs args s).goesTo u := by
    unfold State.goesTo
    rw [← hu]
    show (State.holds _ _).clu.next (State.holds _ _).csr.req = (s.holds _).clu.next (s.holds _).csr.req
    rw [State.holds_clu, State.holds_clu, State.holds_csr, State.holds_csr, hc.clu, hc.csr]
    rfl
  obtain ⟨h1, h2, h3⟩ := hq
  refine .of (x := reshapeStep op k hs args s) ⟨h1, h2, h3⟩ ?_ rfl rfl (u := u)
  rw [he, reshapeWord_eq, s.issued_goesTo u _ hg]

theorem aluLater_pending (s : State) (u : Cluster) (d : Fin 64) (x : Dword) (n : Nat) (hu : s.goesTo u) :
    ∃ t, aluLater d x n s = .next t ∧ t.mem = s.mem ∧ t.me.cpend = s.me.cpend ++ [⟨d, x⟩] := by
  have hm : (s.modMe fun k => { k with cpend := k.cpend ++ [⟨d, x⟩] }).me = { s.me with cpend := s.me.cpend ++ [⟨d, x⟩] } :=
    s.me_modMe fun k => { k with cpend := k.cpend ++ [⟨d, x⟩] }
  unfold aluLater
  rw [s.issued_of u _ hu]
  · refine ⟨_, rfl, rfl, ?_⟩
    rw [State.settle_me]
    exact congrArg Core.cpend hm
  · show (s.modMe fun k => { k with cpend := k.cpend ++ [⟨d, x⟩] }).clu = s.clu
    unfold State.clu
    rw [hm]
    rfl
  · show (s.modMe fun k => { k with cpend := k.cpend ++ [⟨d, x⟩] }).csr = s.csr
    unfold State.csr
    rw [hm]

theorem slotWord_queues (s : State) (u : Cluster) (op : Instr) (h : Fin 16) (a k : Fin 64) (hu : s.goesTo u)
    (ht : (s.tok k).st ≠ .pending) (hb : (s.rg a).toNat % 32 = 0) (hn : s.me.namesSlot h = false) (ha : s.admits op)
    (he : exec op s = slotWord op h a k s) : QueuedAs s k op := by
  have hbad : ¬((s.tok k).st = .pending ∨ (s.rg a).toNat % 32 ≠ 0 ∨ s.me.namesSlot h = true) := by
    rintro (h1 | h1 | h1)
    · exact ht h1
    · exact h1 hb
    · rw [hn] at h1; exact Bool.false_ne_true h1
  let m : Cmd := { s.newCmd op k [(s.rg a).toNat] with slot := s.me.old.slot[h], started := true }
  obtain ⟨h1, h2, h3⟩ := Calm.id.queues s k m
  exact .of (m := m) (x := ((s.modMe fun c => c.pend k).addCmd m).later 1 (s.choices.headD 0) .slotTransferComplete
    ⟨s.turn.core, s.nextId, [], []⟩) ⟨h1, h2, h3⟩ (he.trans (slotWord_queued op h a k s u hbad ha hu)) rfl rfl

/-- A Nimbus word that no check stops is queued with the slot as it stands (R210). -/
theorem nimbusWord_queued {s : State} {u : Cluster} {op : Instr} {k a : Fin 64} {h : Fin 16}
    {ok : Dword × Dword × Dword × Dword → Slot → Bool} {f : Nat → Core → Core} (he : exec op s = nimbusWord op k a h ok f s)
    (hf : ∀ n, Calm (f n)) (hu : s.goesTo u)
    (ht : (s.tok k).st ≠ .pending) (hx : nbAuxOk (s.quadAt a).2.2.2 = true)
    (hw : ∀ t ∈ auxToks (s.quadAt a).2.2.2, (s.tok t).st ≠ .empty ∧ t ≠ k) (ho : ok (s.quadAt a) s.me.old.slot[h] = true)
    (ha : s.admits op) : QueuedAs s k op := by
  have hbad : badToks s.me.old k (auxToks (s.quadAt a).2.2.2) = false := by
    refine List.any_eq_false.2 fun t hm => ?_
    obtain ⟨h1, h2⟩ := hw t hm
    rw [Bool.or_eq_true, beq_iff_eq, beq_iff_eq]
    exact fun e => e.elim h1 h2
  refine .of ((hf s.nextId).queues s k { s.quadCmd op k (s.quadAt a) (auxToks (s.quadAt a).2.2.2) with slot := s.me.old.slot[h] })
    (u := u) (he.trans ?_) rfl rfl
  unfold nimbusWord
  dsimp only
  rw [if_neg, s.access_of_admits op _ ha, s.issued_of u _ hu]
  · exact (hf s.nextId).clu s k _
  · exact (hf s.nextId).csr s k _
  · rw [hx, hbad, ho]
    simp [ht]

/-! ## The end of a command of C (R208-R212) -/

theorem execNimbus_rot (s t w : State) (m : Cmd) (k a : Fin 64) (e : Fin 16) (n addr : Nat) (xs bf : List Nat)
    (hc : (s.core s.ev.core).cmd s.ev.id = some m) (ho : m.op = .nbrot k a e)
    (hr : s.nimbusRun (s.core s.ev.core).vis.csr.cid m = (t, .inl (.inl ([(addr, xs)], bf))))
    (hw : t.engineWrite (s.core s.ev.core).vis.csr.cid addr (4 * xs.length) (packFp xs)
      (stampOf (s.core s.ev.core).vis.csr.cid s.ev.core (s.core s.ev.core).seqs[(3 : Fin 15)]) = (w, .inl n)) :
    execNimbusComplete s = .next (w.finishDone s.ev.core m) := by
  unfold execNimbusComplete
  simp only [hc, hr, List.foldl_cons, List.foldl_nil, hw, ho]

theorem execNbqrBasis_done (s : State) (m : Cmd) (hb : (s.core s.ev.core).basisReady = some m) :
    ∃ f, execNbqrBasisWrite s = .next ((s.modCore s.ev.core f).finishDone s.ev.core m) := by
  unfold execNbqrBasisWrite
  simp only [hb]
  exact ⟨_, rfl⟩

/-- Three aligned addresses (R210). -/
theorem nbAligned_of {x : Dword × Dword × Dword × Dword} {p : Prop}
    (h : x.1.toNat % 4 = 0 ∧ x.2.1.toNat % 4 = 0 ∧ x.2.2.1.toNat % 4 = 0 ∧ p) : nbAligned x = true := by
  obtain ⟨h1, h2, h3, -⟩ := h
  rw [nbAligned, h1, h2, h3]
  rfl

/-- The fields of TK.TEST's result (R15). -/
theorem tkTest_fields (t : Token) :
    let x : Dword := t.image.zeroExtend 64
    x.toNat / 4 % 64 = 0 ∧ x.toNat / 2 ^ 16 = 0
      ∧ x.toNat % 4 = (match t.st with | .empty => 0 | .pending => 1 | .done => 2 | .failed => 3)
      ∧ x.toNat / 256 % 256 = if t.st = .failed then t.code.toNat else 0 := by
  have hc : (if t.st = .failed then t.code.toNat else 0) < 256 := by
    split
    · exact t.code.isLt
    · decide
  have hn : t.st.number < 4 := by cases t.st <;> decide
  have hx : (t.image.zeroExtend 64).toNat = (if t.st = .failed then t.code.toNat else 0) * 256 + t.st.number := by
    rw [← t.image_toNat]
    exact BitVec.toNat_setWidth_of_le (by decide)
  have hs : t.st.number = (match t.st with | .empty => 0 | .pending => 1 | .done => 2 | .failed => 3) := by cases t.st <;> rfl
  dsimp only
  rw [hx, ← hs]
  generalize (if t.st = .failed then t.code.toNat else 0) = c at hc
  refine ⟨?_, ?_, ?_, ?_⟩ <;> omega

/-- Settles O16: each word by its checks, and what it queues by the one effect they share. -/
theorem tokenWords : Obligations.TokenWords := by
  refine ⟨fun s u k a b d hu => ⟨fun h => ?_, fun h => if_pos h, fun hk ha hb hka hkb => ?_, fun h => if_pos h, ?_⟩, ?_, ?_⟩
  · exact (if_neg h).trans (congrArg _ (s.issued_modMe u (·.setTok k Token.zero) hu rfl rfl))
  · refine ⟨s.quadCmd (.tkJoin k a b) k (0, 0, 0, 0) [a, b], (if_neg ?_).trans (congrArg _ (s.issued_of u _ hu ?_ ?_)), rfl, rfl, rfl, rfl⟩
    · rintro (h | h | h | h | h)
      · exact hk h
      · exact ha h
      · exact hb h
      · exact hka h
      · exact hkb h
    · exact Calm.id.clu s k _
    · exact Calm.id.csr s k _
  · exact ⟨_, alu_next s u d _ hu, tkTest_fields (s.tok a)⟩
  · intro s u k a d j h e rs ht queued st b g x auxOk words
    refine ⟨fun hu hb hf => ?_, fun hu hl => ⟨?_, fun hj hne hb h0 hlt => ?_, fun hj hne hr => ?_⟩, fun hu => aluLater_pending s u d _ 8 hu,
      fun hu hb hn => ⟨fun ha => ?_, fun ha => ?_⟩, fun hu ⟨hx, hw⟩ hwd => ⟨fun h0 hr ha => ?_, fun ha => ?_, fun ha => ?_⟩,
      fun hu ⟨hx, hw⟩ h1 h2 hd hp hs ha => ?_⟩
    · exact shapeAlloc_queued s u k a h hu ht hb hf
    · refine reshapeWord_queued s u _ k [h] [] hu (if_neg ?_)
      rintro (h1 | h1)
      · exact ht h1
      · exact h1 hl
    · refine reshapeWord_queued s u _ k [h, j] [b % 2, b / 2 % 8] hu (if_neg ?_)
      rintro (h1 | h1 | h1 | h1 | h1 | h1 | h1)
      · exact ht h1
      · exact h1 hl
      · exact h1 hj
      · exact hne h1
      · omega
      · omega
      · exact absurd hlt (Nat.not_lt.2 h1)
    · refine reshapeWord_queued s u _ k [h, j] [] hu (if_neg ?_)
      rintro (h1 | h1 | h1 | h1 | h1)
      · exact ht h1
      · exact h1 hl
      · exact h1 hj
      · exact hne h1
      · exact hr (Option.isNone_iff_eq_none.1 h1)
    · exact slotWord_queues s u (.hbload e a k) e a k hu ht hb hn ha rfl
    · exact slotWord_queues s u (.hbstore e a k) e a k hu ht hb hn ha rfl
    · have he : exec (.nbqr k a e) s = execNbqr k a e s := rfl
      unfold execNbqr at he
      refine nimbusWord_queued he (fun _ => Calm.id) hu ht hx hw ?_ ha
      rw [nbAligned_of hwd, bne_iff_ne.2 hwd.2.2.2, show x.2.2.1 = 0 from h0]
      simpa using hr
    · have he : exec (.nbrot k a e) s = execNbrot k a e s := rfl
      unfold execNbrot at he
      refine nimbusWord_queued he (fun _ => Calm.id) hu ht hx hw ?_ ha
      rw [nbAligned_of hwd, bne_iff_ne.2 hwd.2.2.2]
      rfl
    · have he : exec (.nbcarry k a rs e) s = execNbcarry k a rs e s := rfl
      unfold execNbcarry at he
      refine nimbusWord_queued he (fun _ => Calm.id) hu ht hx hw ?_ ha
      rw [nbAligned_of hwd, bne_iff_ne.2 hwd.2.2.2]
      rfl
    · have he : exec (.nbswitch k a e) s = execNbswitch k a e s := rfl
      unfold execNbswitch at he
      refine nimbusWord_queued he (fun _ => ⟨fun _ => rfl, fun _ => rfl, fun _ => rfl, fun _ => rfl⟩) hu ht hx hw ?_ ha
      rw [show x.2.1 = 0 from h1, show x.2.2.1 = 0 from h2, show nbDim x.2.2.2 = 0 from hd, hp]
      simpa using hs
  · intro s t w m k a e n addr xs bf c q cid stamp ends hg
    refine ⟨fun hs hc ho hw => ?_, fun hc ho hr hw => ?_, fun hb => ?_⟩
    · exact ⟨_, execSlot_store s w m e a k n hs hc ho hw, State.tok_finishDone w c m hg⟩
    · exact ⟨_, execNimbus_rot s t w m k a e n addr xs bf hc ho hr hw, State.tok_finishDone w c m hg⟩
    · obtain ⟨f, hf⟩ := execNbqrBasis_done s m hb
      exact ⟨_, hf, State.tok_finishDone _ c m hg⟩

end Sys2Proof.Machine
end

section
/-!
SUPPORT. X_RESULT_LANDS: what each write of an X word changes when it lands (R125, R155, R200).
-/

namespace Sys2Proof.Machine

/-! ## The accumulator's keys (R14) -/

/-- An element's key names its tile, row and column. -/
theorem accKey_inj {t t' i i' j j' : Nat} (hi : i < 256) (hj : j < 256) (hi' : i' < 256) (hj' : j' < 256) :
    accKey t i j = accKey t' i' j' ↔ t = t' ∧ i = i' ∧ j = j' := by
  unfold accKey
  constructor
  · intro h
    refine ⟨?_, ?_, ?_⟩ <;> omega
  · rintro ⟨rfl, rfl, rfl⟩
    rfl

theorem accKey_tile {t i j : Nat} (hi : i < 256) (hj : j < 256) : accKey t i j / 2 ^ 16 = t := by
  unfold accKey
  omega

/-- A table without the keys that a test drops. -/
theorem sget_filter {α : Type} (p : Nat → Bool) (k : Nat) {m : Sparse α} (h : Rising m) :
    sget k (m.filter fun x => p x.1) = if p k then sget k m else none := by
  induction m with
  | nil => simp [sget]
  | cons x r ih =>
    have ih := ih (List.Pairwise.of_cons h)
    have hr : From (x.1 + 1) r := fun y hy => List.rel_of_pairwise_cons h hy
    by_cases hx : p x.1 = true
    · rw [List.filter_cons, if_pos hx, sget, sget, ih]
      by_cases e : x.1 = k
      · subst e; simp [hx]
      · by_cases g : k < x.1
        · simp [e, g]
        · simp [e, g]
    · rw [List.filter_cons, if_neg hx, ih, sget]
      by_cases e : x.1 = k
      · subst e; simp [hx]
      · by_cases g : k < x.1
        · have hn : sget k r = none := sget_below fun y hy => by have := hr y hy; omega
          simp [e, g, hn]
        · simp [e, g]

/-- MX.ZERO clears its tile and no other (R200). -/
theorem accRead_accZero {a : Sparse Word} (h : Rising a) (t t' i j : Nat) (hi : i < 256) (hj : j < 256) :
    accRead (accZero a t) t' i j = if t' = t then 0 else accRead a t' i j := by
  unfold accRead accZero srd
  rw [sget_filter (fun n => n / 2 ^ 16 != t) _ h, accKey_tile hi hj]
  by_cases e : t' = t
  · simp [e]
  · simp [e]

/-- One cell of a tile write. -/
def accCell (t row : Nat) (a : Sparse Word) (p : Nat × Option Word) : Sparse Word :=
  match p.2 with
  | some w => sset 0 (accKey t (row + p.1 / 128) (p.1 % 128)) w a
  | none => a

theorem rising_accCell {a : Sparse Word} (h : Rising a) (t row : Nat) (p : Nat × Option Word) : Rising (accCell t row a p) := by
  unfold accCell
  split
  · exact rising_sset h
  · exact h

/-- A cell sets its element, when it holds a value (R155). -/
theorem accRead_accCell {a : Sparse Word} (h : Rising a) (t row n t' i j : Nat) (c : Option Word) (hrow : row + n / 128 < 256)
    (hi : i < 256) (hj : j < 256) :
    accRead (accCell t row a (n, c)) t' i j
      = if t' = t ∧ i = row + n / 128 ∧ j = n % 128 then c.elim (accRead a t' i j) BitVec.toNat else accRead a t' i j := by
  have hk := accKey_inj (t := t') (t' := t) hi hj hrow (show n % 128 < 256 by omega)
  cases c with
  | none => simp [accCell]
  | some w =>
    unfold accCell accRead
    dsimp only
    by_cases e : t' = t ∧ i = row + n / 128 ∧ j = n % 128
    · rw [if_pos e, hk.2 e, srd_sset h]
      rfl
    · rw [if_neg e, srd_sset_ne h fun g => e (hk.1 g)]

/-- What a run of cells from place `n` on leaves of an element. -/
theorem accRead_cells {a : Sparse Word} (h : Rising a) (t row n t' i j : Nat) (cells : List (Option Word))
    (hrow : row + (n + cells.length) / 128 < 256) (hi : i < 256) (hj : j < 256) :
    accRead ((List.zip (List.range' n cells.length) cells).foldl (accCell t row) a) t' i j
      = (if t' = t ∧ row ≤ i ∧ j < 128 ∧ n ≤ (i - row) * 128 + j then cells.getD ((i - row) * 128 + j - n) none else none).elim
        (accRead a t' i j) BitVec.toNat := by
  induction cells generalizing a n with
  | nil => simp
  | cons c cs ih =>
    rw [List.length_cons] at hrow
    rw [List.length_cons, List.range'_succ, List.zip_cons_cons, List.foldl_cons,
      ih (rising_accCell h ..) (n + 1) (by omega), accRead_accCell h _ _ _ _ _ _ _ (by omega) hi hj]
    by_cases hc : t' = t ∧ row ≤ i ∧ j < 128
    · obtain ⟨h1, h2, h3⟩ := hc
      have hcell : (t' = t ∧ i = row + n / 128 ∧ j = n % 128) ↔ n = (i - row) * 128 + j := ⟨fun g => by omega, fun g => by omega⟩
      have hfrom (m : Nat) : (t' = t ∧ row ≤ i ∧ j < 128 ∧ m ≤ (i - row) * 128 + j) ↔ m ≤ (i - row) * 128 + j := by
        simp only [h1, h2, h3, true_and]
      simp only [hcell, hfrom]
      generalize (i - row) * 128 + j = q
      rcases lt_trichotomy n q with hn | rfl | hn
      · rw [if_pos (show n + 1 ≤ q from hn), if_neg hn.ne, if_pos hn.le, show q - n = (q - (n + 1)) + 1 by omega,
          List.getD_cons_succ]
      · rw [if_neg (Nat.not_succ_le_self n), if_pos rfl, if_pos le_rfl, Nat.sub_self]
        rfl
      · rw [if_neg (show ¬n + 1 ≤ q by omega), if_neg hn.ne', if_neg (show ¬n ≤ q by omega)]
    · have hcell : ¬(t' = t ∧ i = row + n / 128 ∧ j = n % 128) := fun ⟨g1, g2, g3⟩ => hc ⟨g1, by omega, by omega⟩
      have hfrom (m : Nat) : ¬(t' = t ∧ row ≤ i ∧ j < 128 ∧ m ≤ (i - row) * 128 + j) := fun ⟨g1, g2, g3, _⟩ => hc ⟨g1, g2, g3⟩
      simp only [hcell, hfrom, if_false, Option.elim_none]

/-- What a write of rows leaves of an element (R155). -/
theorem accRead_accWrite {a : Sparse Word} (h : Rising a) (t row t' i j : Nat) (val : Runs (Option Word))
    (hrow : row + (rlist val).length / 128 < 256) (hi : i < 256) (hj : j < 256) :
    accRead (accWrite a t row val) t' i j
      = (if t' = t ∧ row ≤ i ∧ j < 128 then (rlist val).getD ((i - row) * 128 + j) none else none).elim (accRead a t' i j)
        BitVec.toNat := by
  have hs : accWrite a t row val = (List.zip (List.range' 0 (rlist val).length) (rlist val)).foldl (accCell t row) a := by
    rw [← List.range_eq_range']
    rfl
  rw [hs, accRead_cells h t row 0 t' i j _ (by rwa [Nat.zero_add]) hi hj]
  simp only [Nat.zero_le, and_true, Nat.sub_zero]

/-! ## A landing, write by write (R125) -/

/-- What no write of a landing changes, the landing keeps. -/
theorem xLands_keep {β : Type} (p : Core → β) (n : Nat) (ws : List XWrite) (h : ∀ w ∈ ws, ∀ k : Core, p (k.xLand n w) = p k)
    (k : Core) : p (ws.foldl (Core.xLand n) k) = p k := by
  induction ws generalizing k with
  | nil => rfl
  | cons w r ih =>
    rw [List.foldl_cons, ih fun x hx => h x (List.mem_cons_of_mem _ hx), h w List.mem_cons_self]

/-- Of several writes of one place the last counts. -/
theorem xLands_last {β : Type} (p : Core → β) (n : Nat) (pre post : List XWrite) (w : XWrite) {x : β}
    (hw : ∀ k : Core, p (k.xLand n w) = x) (h : ∀ y ∈ post, ∀ k : Core, p (k.xLand n y) = p k) (k : Core) :
    p ((pre ++ w :: post).foldl (Core.xLand n) k) = x := by
  rw [List.foldl_append, List.foldl_cons, xLands_keep p n post h, hw]

section
variable (k : Core) (n : Nat)

theorem Core.xLand_vis (w : XWrite) : (k.xLand n w).vis = k.vis := by
  cases w with
  | m r x => exact (apply_ite Core.vis _ _ _).trans (ite_self _)
  | _ => rfl

theorem Core.xLand_xpend (w : XWrite) (h : ∀ t, w ≠ .zero t) : (k.xLand n w).xpend = k.xpend := by
  cases w with
  | m r x => exact (apply_ite Core.xpend _ _ _).trans (ite_self _)
  | zero t => exact absurd rfl (h t)
  | _ => rfl

theorem Core.xLand_acc (w : XWrite) (h : ∀ t, w ≠ .zero t) (g : ∀ t r x, w ≠ .acc t r x) : (k.xLand n w).acc = k.acc := by
  cases w with
  | m r x => exact (apply_ite Core.acc _ _ _).trans (ite_self _)
  | zero t => exact absurd rfl (h t)
  | acc t r x => exact absurd rfl (g t r x)
  | _ => rfl

theorem Core.xLand_v_set (r : Fin 16) (x : Runs Word) : (k.xLand n (.v r x)).v[r] = x := Vector.getElem_set_self ..

theorem Core.xLand_v (w : XWrite) (r : Fin 16) (h : ∀ x, w ≠ .v r x) (g : ∀ x y, w ≠ .vm r x y) : (k.xLand n w).v[r] = k.v[r] := by
  have ne {q : Fin 16} (hq : q ≠ r) : q.val ≠ r.val := fun e => hq (Fin.ext e)
  cases w with
  | v q x =>
    show (k.v.set q.val x q.isLt)[r.val] = k.v[r.val]
    exact Vector.getElem_set_ne q.isLt r.isLt (ne fun e => h x (e ▸ rfl))
  | vm q x y =>
    show (k.v.set q.val (mergeVec k.v[q] x y) q.isLt)[r.val] = k.v[r.val]
    exact Vector.getElem_set_ne q.isLt r.isLt (ne fun e => g x y (e ▸ rfl))
  | m q x => exact (apply_ite (fun q : Core => q.v[r]) _ _ _).trans (ite_self _)
  | _ => rfl

theorem Core.wm_of_ne {k : Core} {r : Fin 8} (hr : r ≠ 0) (x : Runs Bool) : k.wm r x = { k with m := k.m.set r x } := if_neg hr

theorem Core.xLand_m_set (r : Fin 8) (hr : r ≠ 0) (x : Runs Bool) : (k.xLand n (.m r x)).m[r] = x := by
  show (k.wm r x).m[r] = x
  rw [Core.wm_of_ne hr]
  exact Vector.getElem_set_self ..

theorem Core.xLand_m (w : XWrite) (r : Fin 8) (h : r = 0 ∨ ∀ x, w ≠ .m r x) : (k.xLand n w).m[r] = k.m[r] := by
  cases w with
  | m q x =>
    show (k.wm q x).m[r] = k.m[r]
    by_cases hq : q = 0
    · subst hq; rfl
    · have hne : q ≠ r := by
        rintro rfl
        exact h.elim hq fun g => g x rfl
      rw [Core.wm_of_ne hq]
      show (k.m.set q.val x q.isLt)[r.val] = k.m[r.val]
      exact Vector.getElem_set_ne q.isLt r.isLt fun e => hne (Fin.ext e)
  | _ => rfl
end

/-- A masked write takes the mask's bits and leaves the others (R123). -/
theorem getD_mergeVec {old val msk : Runs Word} (ho : Full old) (hv : Full val) (hm : Full msk) (i : Nat) (hi : i < 6144) :
    (rlist (mergeVec old val msk)).getD i 0
      = ((rlist val).getD i 0 &&& (rlist msk).getD i 0) ||| ((rlist old).getD i 0 &&& ~~~(rlist msk).getD i 0) := by
  unfold mergeVec
  rw [rlist_rmap, rlist_rzip ho.2 (hv.rzip hm).2, rlist_rzip hv.2 hm.2]
  have h1 : i < (rlist old).length := by rw [ho.1]; exact hi
  have h2 : i < (rlist val).length := by rw [hv.1]; exact hi
  have h3 : i < (rlist msk).length := by rw [hm.1]; exact hi
  rw [List.getD_eq_getElem _ _ h1, List.getD_eq_getElem _ _ h2, List.getD_eq_getElem _ _ h3,
    List.getD_eq_getElem _ _ (by rw [List.length_map, List.length_zip, List.length_zip]; omega), List.getElem_map, List.getElem_zip,
    List.getElem_zip]
  exact BitVec.or_comm _ _

/-! ## The landing -/

theorem Core.csr_orFlags (q : Core) (f : Flags) :
    (q.orFlags f).vis.csr = { q.vis.csr with fflags := q.vis.csr.fflags ||| f } := rfl

section
variable (k : Core) (x : XPend)

/-- A core in which an X word lands (R47, R125). -/
def Core.xLanded : Core := (x.writes.foldl (Core.xLand x.id) { k with xpend := k.xpend.filter (·.id != x.id) }).orFlags x.flags

/-- What no write changes and no flag touches, a landing keeps. -/
theorem Core.xLanded_keep {β : Type} (p : Core → β) (hf : ∀ q : Core, p (q.orFlags x.flags) = p q)
    (h : ∀ w ∈ x.writes, ∀ q : Core, p (q.xLand x.id w) = p q) :
    p (k.xLanded x) = p { k with xpend := k.xpend.filter (·.id != x.id) } :=
  (hf _).trans (xLands_keep p x.id x.writes h _)

theorem Core.xLanded_last {β : Type} (p : Core → β) (hf : ∀ q : Core, p (q.orFlags x.flags) = p q) (pre post : List XWrite)
    (w : XWrite) {y : β} (hx : x.writes = pre ++ w :: post) (hw : ∀ q : Core, p (q.xLand x.id w) = y)
    (h : ∀ z ∈ post, ∀ q : Core, p (q.xLand x.id z) = p q) : p (k.xLanded x) = y := by
  unfold Core.xLanded
  rw [hf, hx]
  exact xLands_last p x.id pre post w hw h _

theorem Core.xLanded_one {β : Type} (p : Core → β) (hf : ∀ q : Core, p (q.orFlags x.flags) = p q) (w : XWrite)
    (hx : x.writes = [w]) : p (k.xLanded x) = p (Core.xLand x.id { k with xpend := k.xpend.filter (·.id != x.id) } w) := by
  unfold Core.xLanded
  rw [hf, hx]
  rfl
end

theorem execXResultLands_of (s : State) (x : XPend) (h : (s.core s.ev.core).xpend.find? (·.id == s.ev.id) = some x) :
    execXResultLands s = .next (s.modCore s.ev.core (·.xLanded x)) := by
  unfold execXResultLands
  dsimp only
  rw [h]
  rfl

/-- X_RESULT_LANDS as the obligation states it, of one core. -/
theorem Core.xLanded_spec (k : Core) (x : XPend) :
    let q := k.xLanded x
    q.vis.g = k.vis.g ∧ q.vis.csr = { k.vis.csr with fflags := k.vis.csr.fflags ||| x.flags }
    ∧ ((∀ tl, .zero tl ∉ x.writes) → q.xpend = k.xpend.filter (·.id != x.id))
    ∧ (∀ tl, x.writes = [.zero tl] → q.xpend = (k.xpend.filter (·.id != x.id)).map fun y =>
      if y.id < x.id then { y with writes := y.writes.map (·.cleared tl) } else y)
    ∧ (∀ r val pre post, x.writes = pre ++ .v r val :: post → (∀ y, .v r y ∉ post) → (∀ y z, .vm r y z ∉ post) → q.v[r] = val)
    ∧ (∀ r val msk, x.writes = [.vm r val msk] → Full k.v[r] → Full val → Full msk → Full q.v[r] ∧ ∀ i < 6144,
      let on := (rlist msk).getD i 0
      (rlist q.v[r]).getD i 0 = ((rlist val).getD i 0 &&& on) ||| ((rlist k.v[r]).getD i 0 &&& ~~~on))
    ∧ (∀ r : Fin 16, (∀ val, .v r val ∉ x.writes) → (∀ val msk, .vm r val msk ∉ x.writes) → q.v[r] = k.v[r])
    ∧ (∀ r val pre post, r ≠ 0 → x.writes = pre ++ .m r val :: post → (∀ y, .m r y ∉ post) → q.m[r] = val)
    ∧ (∀ r : Fin 8, r = 0 ∨ (∀ val, .m r val ∉ x.writes) → q.m[r] = k.m[r])
    ∧ ((∀ tl r val, .acc tl r val ∉ x.writes) → (∀ tl, .zero tl ∉ x.writes) → q.acc = k.acc)
    ∧ (∀ tl, x.writes = [.zero tl] → Rising k.acc → ∀ tl' i j, i < 256 → j < 256 →
      accRead q.acc tl' i j = if tl' = tl then 0 else accRead k.acc tl' i j)
    ∧ ∀ tl row val, x.writes = [.acc tl row val] → Rising k.acc → row + (rlist val).length / 128 < 256 →
      ∀ tl' i j, i < 256 → j < 256 → accRead q.acc tl' i j =
        match if tl' = tl ∧ row ≤ i ∧ j < 128 then (rlist val).getD ((i - row) * 128 + j) none else none with
        | some w => w.toNat
        | none => accRead k.acc tl' i j := by
  have hvis : (x.writes.foldl (Core.xLand x.id) { k with xpend := k.xpend.filter (·.id != x.id) }).vis = k.vis :=
    xLands_keep Core.vis x.id x.writes (fun w _ q => q.xLand_vis x.id w) _
  refine ⟨?_, ?_, fun h => ?_, fun tl h => ?_, fun r val pre post h h1 h2 => ?_, fun r val msk h ho hv hm => ?_, fun r h1 h2 => ?_,
    fun r val pre post hr h h1 => ?_, fun r h => ?_, fun h1 h2 => ?_, fun tl h ha tl' i j hi hj => ?_,
    fun tl row val h ha hrow tl' i j hi hj => ?_⟩
  · show (x.writes.foldl (Core.xLand x.id) { k with xpend := k.xpend.filter (·.id != x.id) }).vis.g = _
    rw [hvis]
  · exact (Core.csr_orFlags _ _).trans (by rw [hvis])
  · exact k.xLanded_keep x Core.xpend (fun _ => rfl) fun w hw q => q.xLand_xpend x.id w fun t e => h t (e ▸ hw)
  · exact k.xLanded_one x Core.xpend (fun _ => rfl) _ h
  · exact k.xLanded_last x (·.v[r]) (fun _ => rfl) pre post _ h (fun q => q.xLand_v_set x.id r val) fun z hz q =>
      q.xLand_v x.id z r (fun y e => h1 y (e ▸ hz)) fun y y' e => h2 y y' (e ▸ hz)
  · have hq : (k.xLanded x).v[r] = mergeVec k.v[r] val msk :=
      (k.xLanded_one x (·.v[r]) (fun _ => rfl) _ h).trans (Vector.getElem_set_self ..)
    rw [hq]
    exact ⟨full_mergeVec ho hv hm, fun i hi => getD_mergeVec ho hv hm i hi⟩
  · exact k.xLanded_keep x (·.v[r]) (fun _ => rfl) fun w hw q =>
      q.xLand_v x.id w r (fun y e => h1 y (e ▸ hw)) fun y y' e => h2 y y' (e ▸ hw)
  · exact k.xLanded_last x (·.m[r]) (fun _ => rfl) pre post _ h (fun q => q.xLand_m_set x.id r hr val) fun z hz q =>
      q.xLand_m x.id z r (.inr fun y e => h1 y (e ▸ hz))
  · exact k.xLanded_keep x (·.m[r]) (fun _ => rfl) fun w hw q => q.xLand_m x.id w r (h.imp_right fun g y e => g y (e ▸ hw))
  · exact k.xLanded_keep x Core.acc (fun _ => rfl) fun w hw q =>
      q.xLand_acc x.id w (fun t e => h2 t (e ▸ hw)) fun t r y e => h1 t r y (e ▸ hw)
  · rw [k.xLanded_one x Core.acc (fun _ => rfl) _ h]
    exact accRead_accZero ha tl tl' i j hi hj
  · rw [k.xLanded_one x Core.acc (fun _ => rfl) _ h]
    refine (accRead_accWrite ha tl row tl' i j val hrow hi hj).trans ?_
    generalize (if tl' = tl ∧ row ≤ i ∧ j < 128 then (rlist val).getD ((i - row) * 128 + j) none else none) = o
    cases o <;> rfl

end Sys2Proof.Machine
end

section
/-!
SUPPORT. The issue of an X word that takes a unit, and the words of the deferral queue (R125, R126, R150-R152).
-/

namespace Sys2Proof.Machine

/-! ## The issue of an X word (R125, R126) -/

/-- Unit beats are no core's state. -/
theorem State.beats_core (s : State) (t : Timing) (c : Fin 64) : (s.beats t).core c = s.core c := by
  unfold State.beats
  split <;> rfl

theorem State.beats_turn (s : State) (t : Timing) : (s.beats t).turn = s.turn := by
  unfold State.beats
  split <;> rfl

theorem State.beats_me (s : State) (t : Timing) : (s.beats t).me = s.me := by
  unfold State.me
  rw [State.beats_turn, State.beats_core]

theorem State.clu_of {s x : State} (ht : x.turn = s.turn) (hc : x.me.clus = s.me.clus) : x.clu = s.clu := by
  unfold State.clu
  simp only [ht, hc]

/-- An issuing core whose unit `t` names is taken and whose results `ws` and flags `f` are due. -/
def Core.taken (k : Core) (s : State) (t : Timing) (ws : List XWrite) (f : Flags) (g : Core → Core) : Core :=
  { g k with units := k.units.set t.unit.ix (s.zc + t.occ), xpend := k.xpend ++ [⟨s.nextId, s.zc + t.lat, s.clu.pc, ws, f⟩] }

/-- An X word issues, its cluster going on at the next word (R12, R125). -/
theorem State.xIssue_of (s : State) (u : Cluster) (t : Timing) (ws : List XWrite) (f : Flags) (g : Core → Core) (hu : s.goesTo u)
    (hc : (g s.me).clus = s.me.clus) (ho : (g s.me).old = s.me.old) :
    s.xIssue t ws f g = ((((s.modMe fun k => k.taken s t ws f g).bump).beats t).at_ (s.zc + t.lat) .xResultLands
      (.of s.turn.core s.nextId)).settle u 0 := by
  refine s.issued_of u _ hu ?_ ?_
  · refine State.clu_of (State.beats_turn ..) ?_
    show (((s.modMe fun k => k.taken s t ws f g).bump).beats t).me.clus = _
    rw [State.beats_me]
    show (s.modMe fun k => k.taken s t ws f g).me.clus = _
    rw [State.me_modMe]
    exact hc
  · show (((s.modMe fun k => k.taken s t ws f g).bump).beats t).me.old.csr = s.me.old.csr
    rw [State.beats_me]
    show (s.modMe fun k => k.taken s t ws f g).me.old.csr = _
    rw [State.me_modMe]
    exact congrArg Vis.csr ho

/-- What else an X word changes counts at its issuing core alone. -/
theorem State.xIssue_congr (s : State) (t : Timing) (ws : List XWrite) (f : Flags) {g g' : Core → Core} (h : g s.me = g' s.me) :
    s.xIssue t ws f g = s.xIssue t ws f g' := by
  refine congrArg (fun x : State => State.issuedFrom s (((x.bump).beats t).at_ (s.zc + t.lat) .xResultLands
    (.of s.turn.core s.nextId))) (s.modMe_congr ?_)
  dsimp only
  rw [h]

theorem State.xIssue_id (s : State) (u : Cluster) (t : Timing) (ws : List XWrite) (f : Flags) (hu : s.goesTo u) :
    s.xIssue t ws f id = xIssued s u t ws f := s.xIssue_of u t ws f id hu rfl rfl

/-! ## Elements of runs -/

theorem Full.lt {α : Type} {v : Runs α} (h : Full v) {i : Nat} (hi : i < 6144) : i < (rlist v).length := by rwa [h.1]

theorem Core.full_rm {k : Core} (h : ∀ r : Fin 8, Full k.m[r]) (r : Fin 8) : Full (k.rm r) := by
  unfold Core.rm
  split
  · exact full_one true
  · exact h r

/-- The ones of a mask are counted. -/
theorem maskOnes_eq (m : Runs Bool) : maskOnes m = (rlist m).countP id := by
  have go (n : Nat) : m.foldl (fun n x => if x.2 then n + x.1 else n) n = n + (rlist m).countP id := by
    induction m generalizing n with
    | nil => rfl
    | cons x r ih =>
      rw [List.foldl_cons, ih, rlist, List.countP_append, List.countP_replicate, ← Nat.add_assoc]
      cases x.2 <;> simp
  exact (go 0).trans (Nat.zero_add _)

/-- A list's elements by their places. -/
theorem range_map_getD {α : Type} (l : List α) (z : α) : (List.range l.length).map (fun i => l.getD i z) = l := by
  refine List.ext_getElem (by simp) fun i h _ => ?_
  rw [List.getElem_map, List.getElem_range, List.getD_eq_getElem]

theorem maskOnes_range {m : Runs Bool} (h : Full m) :
    maskOnes m = ((List.range 6144).filter fun i => (rlist m).getD i false).length := by
  rw [maskOnes_eq, ← List.countP_eq_length_filter]
  conv_lhs => rw [← range_map_getD (rlist m) false, h.1, List.countP_map]
  rfl

/-! ## DQPUSH (R150, R152) -/

/-- The entries that DQPUSH makes of two registers under a mask. -/
def pushEntries (m : Runs Bool) (a b : Runs Word) (n : Nat) : List (Nat × Word × Word) :=
  ((List.range 6144).filter fun i => (rlist m).getD i false).map fun i =>
    (i, if 1 ≤ n then (rlist a).getD i 0 else 0, if n = 2 then (rlist b).getD i 0 else 0)

/-- Some of a list's elements, changed: those that a test picks. -/
theorem filterMap_ite {α β : Type} (p : α → Bool) (f : α → β) (l : List α) :
    (l.filterMap fun x => if p x then some (f x) else none) = (l.filter p).map f := by
  rw [← List.filterMap_eq_map, List.filterMap_filter]
  rfl

theorem zip_range {α β γ : Type} (n : Nat) {l : List α} {l' : List β} {l'' : List γ} (h : l.length = n) (h' : l'.length = n)
    (h'' : l''.length = n) (x : α) (y : β) (z : γ) :
    List.zip (List.range n) (List.zip l (List.zip l' l'')) = (List.range n).map fun i => (i, l.getD i x, l'.getD i y, l''.getD i z) := by
  refine List.ext_getElem (by simp [h, h', h'']) fun i hi _ => ?_
  have hn : i < n := by simpa [h, h', h''] using hi
  simp [List.getElem_zip, h, h', h'', hn]

/-- DQPUSH pairs the lanes with their numbers and keeps the active ones (R150). -/
theorem pushEntries_eq {m : Runs Bool} {a b : Runs Word} (hm : Full m) (ha : Full a) (hb : Full b) (n : BitVec 3) :
    ((List.zip (List.range 6144) (List.zip (rlist m) (List.zip (rlist a) (rlist b)))).filterMap fun p =>
      if p.2.1 then some (p.1, if 1 ≤ n.toNat then p.2.2.1 else 0, if n.toNat = 2 then p.2.2.2 else 0) else none)
      = pushEntries m a b n.toNat := by
  rw [zip_range 6144 hm.1 ha.1 hb.1 false 0 0, List.filterMap_map]
  exact filterMap_ite (fun i => (rlist m).getD i false) (fun i =>
    (i, if 1 ≤ n.toNat then (rlist a).getD i 0 else 0, if n.toNat = 2 then (rlist b).getD i 0 else 0)) (List.range 6144)

theorem length_pushEntries {m : Runs Bool} (hm : Full m) (a b : Runs Word) (n : Nat) :
    (pushEntries m a b n).length = maskOnes m := by
  rw [maskOnes_range hm]
  exact List.length_map ..

theorem execDqpush_of (s : State) (a b : Fin 16) (mk : Fin 8) (n : BitVec 3) (hv : ∀ r : Fin 16, Full s.me.v[r])
    (hm : ∀ r : Fin 8, Full s.me.m[r]) (hx : s.me.xConflict (.dqpush a b mk n) = false) :
    execDqpush a b mk n s = let es := pushEntries (s.me.rm mk) s.me.v[a] s.me.v[b] n.toNat
      if 24576 < s.me.dq.length + es.length then .next (s.raise causeDefer 0)
      else .next (s.xIssue tDq [] 0 fun k => { k with dq := k.dq ++ es }) := by
  unfold execDqpush
  dsimp only
  rw [hx, if_neg Bool.false_ne_true, ← length_pushEntries (Core.full_rm hm mk) s.me.v[a] s.me.v[b] n.toNat,
    ← pushEntries_eq (Core.full_rm hm mk) (hv a) (hv b) n]
  rfl

/-! ## DQDRAIN (R151, R152) -/

/-- A register of what DQDRAIN takes from each of the queue's first entries, zeros after them. -/
def drainColumn (q : List (Nat × Word × Word)) (f : Nat × Word × Word → Word) : Runs Word :=
  rapp (rof ((q.take 6144).map f)) (rcons (6144 - (q.take 6144).length) 0 [])

theorem full_drainColumn (q : List (Nat × Word × Word)) (f : Nat × Word × Word → Word) : Full (drainColumn q f) :=
  full_column _ f (List.length_take_le ..)

theorem drainColumn_getD (q : List (Nat × Word × Word)) (f : Nat × Word × Word → Word) (j : Nat) :
    (rlist (drainColumn q f)).getD j 0 = if j < min 6144 q.length then f (q.getD j (0, 0, 0)) else 0 := by
  have hl : rlist (drainColumn q f) = (q.take 6144).map f ++ List.replicate (6144 - (q.take 6144).length) 0 := by
    unfold drainColumn rapp
    rw [rlist_rnorm, rlist_append, rlist_rof, rlist_rcons]
    exact congrArg _ (List.append_nil _)
  rw [hl]
  split
  · next h =>
    have h1 : j < (q.take 6144).length := by rw [List.length_take]; exact h
    rw [List.getD_append _ _ _ _ (by rwa [List.length_map]), List.getD_eq_getElem _ _ (by rwa [List.length_map]), List.getElem_map,
      List.getElem_take, List.getD_eq_getElem _ _ (by omega)]
  · next h =>
    rw [List.getD_append_right _ _ _ _ (by rw [List.length_map, List.length_take]; omega)]
    exact List.getElem?_getD_replicate_default_eq ..

theorem drop_min_length {α : Type} (l : List α) (n : Nat) : l.drop (min n l.length) = l.drop n := by
  rcases Nat.le_total n l.length with h | h
  · rw [Nat.min_eq_left h]
  · rw [Nat.min_eq_right h, List.drop_eq_nil_of_le h, List.drop_length]

theorem execDqdrain_of (s : State) (d a b : Fin 16) (hx : s.me.xConflict (.dqdrain d a b) = false) (h1 : d ≠ a) (h2 : d ≠ b)
    (h3 : a ≠ b) : execDqdrain d a b s = .next (s.xIssue tDq [.v d (drainColumn s.me.dq fun e => BitVec.ofNat 32 e.1),
      .v a (drainColumn s.me.dq (·.2.1)), .v b (drainColumn s.me.dq (·.2.2))] 0 fun k =>
        { k with dq := k.dq.drop (min 6144 s.me.dq.length), dn := min 6144 s.me.dq.length }) := by
  unfold execDqdrain
  rw [hx, if_neg Bool.false_ne_true, if_neg (by simp [h1, h2, h3])]
  refine congrArg _ (s.xIssue_congr tDq _ 0 ?_)
  rw [drop_min_length, List.length_take]

end Sys2Proof.Machine
end

section
/-!
SUPPORT. The elements of registers, and the words of the accumulator port (R123, R153-R156, R200).
-/

namespace Sys2Proof.Machine

/-! ## Elements of registers (R123) -/

theorem rget_eq {α : Type} (z : α) (r : Runs α) (i : Nat) : rget z r i = (rlist r).getD i z := by
  induction r generalizing i with
  | nil => rfl
  | cons x r ih =>
    rw [rget, rlist]
    split
    · next h => rw [List.getD_append _ _ _ _ (by rwa [List.length_replicate]), List.getD_replicate _ h]
    · next h => rw [ih, List.getD_append_right _ _ _ _ (by rw [List.length_replicate]; omega), List.length_replicate]

/-- Blocks of one length. -/
theorem length_flatten_blocks {α : Type} {n : Nat} {l : List (List α)} (h : ∀ x ∈ l, x.length = n) :
    l.flatten.length = l.length * n := by
  rw [List.length_flatten, List.map_congr_left h, List.map_const', List.sum_replicate, smul_eq_mul]

theorem length_vecElems (w : Nat) (v : Runs Word) : (vecElems w v).length = (rlist v).length * (32 / w) := by
  unfold vecElems
  rw [length_flatten_blocks (n := 32 / w) fun x hx => ?_, List.length_map]
  obtain ⟨y, -, rfl⟩ := List.mem_map.1 hx
  simp [laneElems]

/-- A mask's bits, each for the `n` elements of its lane. -/
theorem getD_spread (n e : Nat) (hn : 0 < n) (l : List Bool) :
    (l.map fun b => List.replicate n b).flatten.getD e false = l.getD (e / n) false := by
  induction l generalizing e with
  | nil => rfl
  | cons b r ih =>
    rw [List.map_cons, List.flatten_cons]
    by_cases h : e < n
    · rw [List.getD_append _ _ _ _ (by rwa [List.length_replicate]), List.getD_replicate _ h, Nat.div_eq_of_lt h]
      rfl
    · rw [List.getD_append_right _ _ _ _ (by rw [List.length_replicate]; omega), List.length_replicate, ih,
        show e / n = (e - n) / n + 1 by rw [Nat.div_eq_sub_div hn (by omega)]]
      rfl

/-- The number that a lane's elements make up, each cut to its width. -/
def packed (w : Nat) (es : List Nat) : Nat := es.foldr (fun e acc => e % 2 ^ w + 2 ^ w * acc) 0

theorem packed_lt (w : Nat) (es : List Nat) : packed w es < 2 ^ (w * es.length) := by
  induction es with
  | nil => simp [packed]
  | cons e r ih =>
    have h := Nat.mod_lt e (Nat.two_pow_pos w)
    rw [List.length_cons, Nat.mul_succ, Nat.add_comm, Nat.pow_add]
    show e % 2 ^ w + 2 ^ w * packed w r < _
    calc e % 2 ^ w + 2 ^ w * packed w r < 2 ^ w * 1 + 2 ^ w * packed w r := by omega
      _ = 2 ^ w * (packed w r + 1) := by rw [Nat.mul_add, Nat.add_comm]
      _ ≤ 2 ^ w * 2 ^ (w * r.length) := Nat.mul_le_mul_left _ ih

theorem packed_elem (w : Nat) (es : List Nat) (i : Nat) : packed w es / 2 ^ (w * i) % 2 ^ w = es.getD i 0 % 2 ^ w := by
  induction es generalizing i with
  | nil => simp [packed]
  | cons e r ih =>
    show (e % 2 ^ w + 2 ^ w * packed w r) / 2 ^ (w * i) % 2 ^ w = _
    cases i with
    | zero => simp
    | succ i =>
      rw [Nat.mul_succ, Nat.add_comm (w * i), Nat.pow_add, ← Nat.div_div_eq_div_mul, Nat.add_mul_div_left _ _ (Nat.two_pow_pos w),
        Nat.div_eq_of_lt (Nat.mod_lt _ (Nat.two_pow_pos w)), Nat.zero_add, ih]
      rfl

/-- An element of a lane made of elements. -/
theorem laneOf_elem (w : Nat) (es : List Nat) (i : Nat) (h : w * es.length ≤ 32) :
    (laneOf w es).toNat / 2 ^ (w * i) % 2 ^ w = es.getD i 0 % 2 ^ w := by
  have hlt : packed w es < 2 ^ 32 := (packed_lt w es).trans_le (Nat.pow_le_pow_right (by omega) h)
  rw [show (laneOf w es).toNat = packed w es from (BitVec.toNat_ofNat ..).trans (Nat.mod_eq_of_lt hlt), packed_elem]

theorem getD_chunksOf {α : Type} (n f : Nat) (l : List α) (q : Nat) (hq : q < f) :
    (chunksOf n f l).getD q [] = (l.drop (n * q)).take n := by
  induction f generalizing l q with
  | zero => omega
  | succ f ih =>
    cases q with
    | zero => rfl
    | succ q =>
      rw [chunksOf, List.getD_cons_succ, ih _ _ (by omega), List.drop_drop, Nat.mul_succ, Nat.add_comm]

/-- An element of a register made of elements. -/
theorem elemAt_vecOfElems {w : Nat} (es : List Nat) {e : Nat} (hw : 0 < 32 / w) (he : e < 6144 * (32 / w)) :
    elemAt w (vecOfElems w es) e = es.getD e 0 % 2 ^ w := by
  have hq : e / (32 / w) < 6144 := Nat.div_lt_of_lt_mul (by rwa [Nat.mul_comm])
  have hr := Nat.mod_lt e hw
  have hl : (rlist (vecOfElems w es)).getD (e / (32 / w)) 0 = laneOf w ((es.drop (32 / w * (e / (32 / w)))).take (32 / w)) := by
    unfold vecOfElems
    rw [rlist_rof, ← getD_chunksOf _ 6144 _ _ hq]
    exact List.getD_map _ [] (laneOf w)
  unfold elemAt
  rw [hl, laneOf_elem]
  · rw [List.getD_eq_getElem?_getD, List.getElem?_take_of_lt hr, List.getElem?_drop, Nat.div_add_mod, ← List.getD_eq_getElem?_getD]
  · calc w * ((es.drop (32 / w * (e / (32 / w)))).take (32 / w)).length ≤ w * (32 / w) :=
          Nat.mul_le_mul_left _ (List.length_take_le ..)
      _ ≤ 32 := Nat.mul_div_le ..

/-- An active element of a moved register is the moved one (R123). -/
theorem elemAt_moveElems {code : Nat} {mk : Runs Bool} {old : Runs Word} (hm : Full mk) (ho : Full old) (f : Nat → Nat) {e : Nat}
    (hw : 0 < 32 / widthOf code) (hb : valueBits code (widthOf code) = widthOf code) (he : e < 6144 * (32 / widthOf code))
    (ha : activeAt (widthOf code) mk e = true) :
    elemAt (widthOf code) (moveElems code mk old f) e = f e % 2 ^ widthOf code := by
  unfold moveElems
  dsimp only
  rw [elemAt_vecOfElems _ hw he]
  generalize hon : ((rlist mk).map fun b => List.replicate (32 / widthOf code) b).flatten = on
  have h1 : on.length = 6144 * (32 / widthOf code) := by
    rw [← hon, length_flatten_blocks (n := 32 / widthOf code) fun x hx => ?_, List.length_map, hm.1]
    obtain ⟨b, -, rfl⟩ := List.mem_map.1 hx
    exact List.length_replicate
  have h2 : (vecElems (widthOf code) old).length = 6144 * (32 / widthOf code) := by rw [length_vecElems, ho.1]
  have h3 : on[e] = true := by
    rw [← List.getD_eq_getElem (d := false), ← hon, getD_spread _ _ hw]
    exact ha
  rw [List.getD_eq_getElem _ _ (by simp [elemCount, h1, h2, he]), List.getElem_map, List.getElem_zip, List.getElem_zip, List.getElem_range,
    if_pos h3, hb, Nat.mod_mod]

/-- The bits of an element mask: all of an active element, none of another (R123). -/
theorem elemAt_elemMask {w : Nat} (on : List Bool) {e : Nat} (hw : 0 < 32 / w) (he : e < 6144 * (32 / w)) :
    elemAt w (elemMask w on) e = if on.getD e false = true then 2 ^ w - 1 else 0 := by
  unfold elemMask
  rw [elemAt_vecOfElems _ hw he]
  have h := List.getD_map on false (n := e) fun b : Bool => if b then 2 ^ w - 1 else 0
  rw [show (if (false : Bool) then 2 ^ w - 1 else 0) = 0 from rfl] at h
  rw [h]
  split
  · exact Nat.mod_eq_of_lt (by have := Nat.two_pow_pos w; omega)
  · exact Nat.zero_mod _

/-- Flags gathered from the elements a test picks (R47). -/
theorem getLsbD_gathered {α : Type} (p : α → Bool) (f : α → Flags) (l : List α) (j : Nat) (g : Flags) :
    (l.foldl (fun g x => if p x then g ||| f x else g) g).getLsbD j = true
      ↔ g.getLsbD j = true ∨ ∃ x ∈ l, p x = true ∧ (f x).getLsbD j = true := by
  induction l generalizing g with
  | nil => simp
  | cons x r ih =>
    rw [List.foldl_cons, ih]
    cases hp : p x <;> simp [hp, or_assoc]

/-! ## The accumulator port (R153-R156) -/

/-- The words of the port at issue: the checks in order, then the landing (R125, R153-R156, R235). -/
theorem apWord_port {s : State} {i : Instr} {t occ lat : Nat} {ok : Bool} {ws : List XWrite} {f : Flags} (u : Cluster)
    {okP laccP full : Prop} {lands : List XWrite → Flags → Prop} (he : exec i s = apWord i t occ lat ok ws f s) (hok : ok = true ↔ okP)
    (hl : s.me.laccs.any (·.meets s.zc occ) = true ↔ laccP) (h : okP → full → lands ws f) :
    (s.me.xConflict i = true → exec i s = .next (s.raise causeMiss 0x02))
    ∧ (s.me.xConflict i = false → ¬okP → exec i s = .next (s.raise causeState 0))
    ∧ (s.me.xConflict i = false → okP → s.me.frozenTile t = true → exec i s = .next (s.raise causeHandler 0))
    ∧ (s.me.xConflict i = false → okP → s.me.frozenTile t = false → s.me.targeted t = true → exec i s = .next (s.raise causeMiss 0x08))
    ∧ (s.me.xConflict i = false → okP → s.me.frozenTile t = false → s.me.targeted t = false → laccP →
        exec i s = .next (s.raise causeMiss 0x0B))
    ∧ (s.me.xConflict i = false → okP → s.me.frozenTile t = false → s.me.targeted t = false → ¬laccP → s.goesTo u → full →
        ∃ ws f, exec i s = .next (xIssued s u ⟨.ap, occ, lat⟩ ws f) ∧ lands ws f) := by
  rw [he]
  unfold apWord
  dsimp only
  rw [← hok, ← hl]
  refine ⟨fun h1 => ?_, fun h1 h2 => ?_, fun h1 h2 h3 => ?_, fun h1 h2 h3 h4 => ?_, fun h1 h2 h3 h4 h5 => ?_,
    fun h1 h2 h3 h4 h5 hu hf => ⟨ws, f, ?_, h (hok.1 h2) hf⟩⟩
  · rw [if_pos h1]
  · rw [h1, if_neg Bool.false_ne_true, if_pos (by simpa using h2)]
    rfl
  · rw [h1, h2, if_neg Bool.false_ne_true, if_neg (by simp), if_pos h3]
  · rw [h1, h2, h3, if_neg Bool.false_ne_true, if_neg (by simp), if_neg Bool.false_ne_true, if_pos h4]
  · rw [h1, h2, h3, h4, if_neg Bool.false_ne_true, if_neg (by simp), if_neg Bool.false_ne_true, if_neg Bool.false_ne_true, if_pos h5]
  · rw [h1, h2, h3, h4, if_neg Bool.false_ne_true, if_neg (by simp), if_neg Bool.false_ne_true, if_neg Bool.false_ne_true, if_neg h5,
      s.xIssue_id u _ ws f hu]

theorem meets_any (l : List Lacc) (z n : Nat) :
    l.any (·.meets z n) = true ↔ ∃ x ∈ l, x.start < z + n ∧ z < x.start + cbM x.cb := by
  simp [Lacc.meets, List.any_eq_true]

/-- The row word that the port accepts (R153). -/
theorem apOk_iff (g : Dword) (sideOk : Bool) :
    apOk g sideOk = true ↔ g &&& ~~~0x13F7F = 0 ∧ if apSide g then sideOk = true ∧ apRow g = 0 ∧ apRows g = 0
      else 1 ≤ apRows g ∧ apRows g ≤ 48 ∧ apRow g + apRows g ≤ 128 := by
  unfold apOk
  rw [Bool.and_eq_true, beq_iff_eq]
  cases apSide g <;> simp [and_assoc]

/-- A row word that the port accepts asks for no more rows than fill a register (R153). -/
theorem apRows_le {g : Dword} {sideOk : Bool} (h : apOk g sideOk = true) : 128 * apRows g ≤ 6144 := by
  obtain ⟨-, h⟩ := (apOk_iff g sideOk).1 h
  split at h
  · rw [h.2.2]; decide
  · omega

/-- VACCRD's formats. -/
theorem accFormats_iff (c : Nat) (b : Bool) :
    (b && [0, 2, 3, 15].contains c) = true ↔ b = true ∧ (c = 0 ∨ c = 2 ∨ c = 3 ∨ c = 15) := by
  simp

/-! ## VACCRD (R153, R154) -/

section
variable (code w n : Nat) (got : Nat → Nat × Flags) (mk : Runs Bool) (old : Runs Word)

/-- The values VACCRD lands: `got e` in element `e` below `n`. -/
def readVals : Runs Word :=
  moveElems code mk old fun e =>
    if e < n then (((List.range n).map got).toArray.getD e (0, 0)).1 else (vecElems (widthOf code) old).toArray.getD e 0

/-- The bits VACCRD lands. -/
def readMask : Runs Word := elemMask w ((List.range n).map fun e => rget false mk (e * w / 32))

/-- The flags VACCRD lands. -/
def readFlags : Flags :=
  (List.zip (List.range n) ((List.range n).map got)).foldl (fun f p => if rget false mk (p.1 * w / 32) then f ||| p.2.2 else f) 0
end

/-- The widths of the formats that VACCRD takes. -/
theorem accFormat {c : Nat} (h : c = 0 ∨ c = 2 ∨ c = 3 ∨ c = 15) :
    (widthOf c = 32 ∨ widthOf c = 16) ∧ valueBits c (widthOf c) = widthOf c := by
  rcases h with rfl | rfl | rfl | rfl <;> decide

/-- The lane of an element, from its first bit. -/
theorem rget_active {w : Nat} (hw : w = 32 ∨ w = 16) (mk : Runs Bool) (e : Nat) : rget false mk (e * w / 32) = activeAt w mk e := by
  rw [rget_eq]
  unfold activeAt
  rcases hw with rfl | rfl
  · rw [show e * 32 / 32 = e / (32 / 32) by omega]
  · rw [show e * 16 / 32 = e / (32 / 16) by omega]

theorem elemAt_readVals {code n : Nat} (got : Nat → Nat × Flags) {mk : Runs Bool} {old : Runs Word} (hm : Full mk) (ho : Full old)
    (hw : widthOf code = 32 ∨ widthOf code = 16) (hb : valueBits code (widthOf code) = widthOf code) {e : Nat} (hn : e < n)
    (he : e < 6144 * (32 / widthOf code)) (ha : activeAt (widthOf code) mk e = true) :
    elemAt (widthOf code) (readVals code n got mk old) e = (got e).1 % 2 ^ widthOf code := by
  have hp : 0 < 32 / widthOf code := by rcases hw with h | h <;> rw [h] <;> decide
  unfold readVals
  rw [elemAt_moveElems hm ho _ hp hb he ha, if_pos hn]
  simp [hn]

theorem elemAt_readMask {w n : Nat} {mk : Runs Bool} (hw : w = 32 ∨ w = 16) {e : Nat} (he : e < 6144 * (32 / w)) :
    elemAt w (readMask w n mk) e = if e < n ∧ activeAt w mk e = true then 2 ^ w - 1 else 0 := by
  have hp : 0 < 32 / w := by rcases hw with rfl | rfl <;> decide
  unfold readMask
  rw [elemAt_elemMask _ hp he]
  by_cases hn : e < n
  · rw [List.getD_eq_getElem _ _ (by simpa using hn), List.getElem_map, List.getElem_range, rget_active hw]
    simp [hn]
  · rw [List.getD_eq_default _ _ (by simpa using hn), if_neg Bool.false_ne_true, if_neg fun h => hn h.1]

theorem getLsbD_readFlags {w n : Nat} (got : Nat → Nat × Flags) {mk : Runs Bool} (hw : w = 32 ∨ w = 16) (j : Nat) :
    (readFlags w n got mk).getLsbD j = true ↔ ∃ e < n, activeAt w mk e = true ∧ (got e).2.getLsbD j = true := by
  have hz : List.zip (List.range n) ((List.range n).map got) = (List.range n).map fun e => (e, got e) := by
    simpa using List.zip_map' (f := id) (g := got) (l := List.range n)
  unfold readFlags
  rw [hz, getLsbD_gathered]
  simp [rget_active hw]

theorem full_readVals {code n : Nat} {got : Nat → Nat × Flags} {mk : Runs Bool} {old : Runs Word} :
    Full (readVals code n got mk old) := full_moveElems

theorem full_readMask {w n : Nat} {mk : Runs Bool} : Full (readMask w n mk) := by
  unfold readMask elemMask
  exact full_vecOfElems _ _

/-- Active elements below `n` take their value and their bits, no other bit is taken (R123, R154). -/
theorem elemAt_reads {code n : Nat} (got : Nat → Nat × Flags) {mk : Runs Bool} {old : Runs Word} (hm : Full mk) (ho : Full old)
    (hc : code = 0 ∨ code = 2 ∨ code = 3 ∨ code = 15) {e : Nat} (he : e < 6144 * (32 / widthOf code)) :
    if e < n ∧ activeAt (widthOf code) mk e = true then
      elemAt (widthOf code) (readVals code n got mk old) e = (got e).1 % 2 ^ widthOf code
        ∧ elemAt (widthOf code) (readMask (widthOf code) n mk) e = 2 ^ widthOf code - 1
    else elemAt (widthOf code) (readMask (widthOf code) n mk) e = 0 := by
  obtain ⟨hw, hb⟩ := accFormat hc
  rw [elemAt_readMask hw he]
  split
  · next h => exact ⟨elemAt_readVals got hm ho hw hb h.1 he h.2, rfl⟩
  · rfl

/-- The element of the tile, in the format that VACCRD asks for (R154). -/
def State.accGot (s : State) (t : Fin 16) (g : Dword) (code e : Nat) : Nat × Flags :=
  let v := accRead s.me.accSoon t.val (apElem g e).1 (apElem g e).2
  if code = 2 ∨ code = 3 then convert 0 code v else (v, 0)

/-- The number of elements VACCRD reads (R154). -/
def apCount (g : Dword) : Nat := if apSide g then 516 else 128 * apRows g

theorem execVaccrd_eq (s : State) (d t g : Fin 16) (mk fs : Fin 8) :
    execVaccrd d t g mk fs s = let x := s.rg (gx g)
      apWord (.vaccrd d t g mk fs) t.val (apOcc x) (apOcc x + 30) (apOk x true && [0, 2, 3, 15].contains (s.efmt fs))
        [.vm d (readVals (s.efmt fs) (apCount x) (s.accGot t x (s.efmt fs)) (s.me.rm mk) s.me.v[d])
          (readMask (widthOf (s.efmt fs)) (apCount x) (s.me.rm mk))]
        (readFlags (widthOf (s.efmt fs)) (apCount x) (s.accGot t x (s.efmt fs)) (s.me.rm mk)) s := rfl

/-! ## VACCWR (R153, R155) -/

/-- The elements VACCWR writes: the active lanes of the first `n`. -/
def writeVals (n : Nat) (mk : Runs Bool) (a : Runs Word) : Runs (Option Word) :=
  rmap (fun p : Bool × Word => if p.1 then some p.2 else none) (rtake n (rzip mk a))

theorem rlist_writeVals {n : Nat} {mk : Runs Bool} {a : Runs Word} (hm : Full mk) (ha : Full a) (hn : n ≤ 6144) :
    (rlist (writeVals n mk a)).length = n
      ∧ ∀ e < n, (rlist (writeVals n mk a)).getD e none = if (rlist mk).getD e false then some ((rlist a).getD e 0) else none := by
  have hl : rlist (writeVals n mk a) = (((rlist mk).zip (rlist a)).take n).map fun p => if p.1 then some p.2 else none := by
    unfold writeVals
    rw [rlist_rmap, rlist_rtake, rlist_rzip hm.2 ha.2]
  have hlen : (((rlist mk).zip (rlist a)).take n).length = n := by
    rw [List.length_take, List.length_zip, hm.1, ha.1]
    omega
  refine ⟨by rw [hl, List.length_map, hlen], fun e he => ?_⟩
  rw [hl, List.getD_eq_getElem _ _ (by rwa [List.length_map, hlen]), List.getElem_map, List.getElem_take, List.getElem_zip,
    List.getD_eq_getElem _ _ (hm.lt (by omega)), List.getD_eq_getElem _ _ (ha.lt (by omega))]

theorem execVaccwr_eq (s : State) (t a g : Fin 16) (mk : Fin 8) :
    execVaccwr t a g mk s = let x := s.rg (gx g)
      apWord (.vaccwr t a g mk) t.val (apOcc x) (apOcc x + 30) (apOk x false)
        [.acc t.val (apRow x) (writeVals (128 * apRows x) (s.me.rm mk) s.me.v[a])] 0 s := rfl

end Sys2Proof.Machine
end

section
/-!
SUPPORT. The drain queue, the accumulator port and the landing of X results (R150-R156, R200).
-/

namespace Sys2Proof.Machine

/-- Settles O39: the checks of the queue's and the port's words in order, what each lands, and the landing write by write. -/
theorem queueAndPortWords : Obligations.QueueAndPortWords := by
  refine ⟨?_, fun s x h => ⟨_, execXResultLands_of s x h, rfl, rfl, fun c hc => s.core_modCore_ne _ c _ hc, ?_⟩⟩
  · intro s u d a b g at_ mk fs n lane on full push drain entries dq w row0 rows side rowOk occ lacc port c wd pos count got
    have hlacc : s.me.laccs.any (·.meets s.zc occ) = true ↔ lacc occ := meets_any s.me.laccs s.zc occ
    have hrow (sideOk : Bool) : apOk w sideOk = true ↔ rowOk sideOk := apOk_iff w sideOk
    refine ⟨fun h => ?_, fun h hf hq => ?_, fun h hf hq hu => ?_, fun h => ?_, fun h hd => ?_, fun h h1 h2 h3 hu =>
      ⟨drainColumn s.me.dq fun e => BitVec.ofNat 32 e.1, drainColumn s.me.dq (·.2.1), drainColumn s.me.dq (·.2.2), ?_,
        full_drainColumn .., full_drainColumn .., full_drainColumn .., fun j hj => ?_⟩, ?_, ?_, ?_⟩
    · exact if_pos h
    · exact (execDqpush_of s a b mk n hf.1 hf.2 h).trans (if_pos hq)
    · refine (execDqpush_of s a b mk n hf.1 hf.2 h).trans ((if_neg (Nat.not_lt.2 hq)).trans (congrArg _ ?_))
      exact s.xIssue_of u tDq [] 0 _ hu rfl rfl
    · exact if_pos h
    · refine (if_neg ?_).trans (if_pos hd)
      rw [h]; exact Bool.false_ne_true
    · refine (execDqdrain_of s d a b h h1 h2 h3).trans (congrArg _ ?_)
      exact s.xIssue_of u tDq _ 0
        (fun k => { k with dq := k.dq.drop (min 6144 s.me.dq.length), dn := min 6144 s.me.dq.length }) hu rfl rfl
    · dsimp only
      rw [drainColumn_getD, drainColumn_getD, drainColumn_getD]
      split
      · exact ⟨rfl, rfl, rfl⟩
      · exact ⟨rfl, rfl, rfl⟩
    · refine apWord_port u (execVaccrd_eq s d at_ g mk fs) ((accFormats_iff ..).trans (and_congr_left' (hrow true))) hlacc
        fun hok hf => ?_
      have hw := (accFormat hok.2).1
      exact ⟨fun j _ => getLsbD_readFlags got hw j, _, _, rfl, full_readVals, full_readMask, fun e he =>
        elemAt_reads got (Core.full_rm hf.2 mk) (hf.1 d) hok.2 he⟩
    · refine apWord_port u (execVaccwr_eq s at_ a g mk) (hrow false) hlacc fun hok hf => ⟨rfl, _, rfl, ?_⟩
      exact rlist_writeVals (Core.full_rm hf.2 mk) (hf.1 a) (apRows_le ((hrow false).2 hok))
    · exact apWord_port (ok := true) u rfl (by simp) (meets_any ..) fun _ _ => ⟨rfl, rfl⟩
  · dsimp only
    rw [State.core_modCore]
    exact Core.xLanded_spec _ x

end Sys2Proof.Machine
end
